-- ==== Sys2Proof/Word.lean ====
section
/-! DEFINITION. The word types of the module: bytes, 64-bit data words, 4-bit tags and the tagged word of R51. -/

namespace Sys2Proof

abbrev Byte := BitVec 8
abbrev Half := BitVec 16
abbrev W32 := BitVec 32
abbrev W64 := BitVec 64

/-- A 4-bit type tag (R51). -/
abbrev Tag := BitVec 4

/-- A tagged word: 64 data bits and a tag (R51). -/
structure TWord where
  data : W64
  tag : Tag
deriving DecidableEq, Repr

namespace Tag

/-- The tag values of R52. -/
def raw : Tag := 0x0#4
def int : Tag := 0x1#4
def addr : Tag := 0x2#4
def code : Tag := 0x3#4
def dec : Tag := 0x4#4
def bfp : Tag := 0x5#4
def char : Tag := 0x6#4
def void : Tag := 0x7#4

end Tag

namespace TWord

def mkRaw (d : W64) : TWord := ⟨d, Tag.raw⟩
def mkInt (d : W64) : TWord := ⟨d, Tag.int⟩
def mkAddr (d : W64) : TWord := ⟨d, Tag.addr⟩
def mkCode (d : W64) : TWord := ⟨d, Tag.code⟩
def mkDec (d : W64) : TWord := ⟨d, Tag.dec⟩
def mkBfp (d : W64) : TWord := ⟨d, Tag.bfp⟩
def mkChar (d : W64) : TWord := ⟨d, Tag.char⟩

/-- An uninitialised word; its data bits are nothing (R52), kept as zeros. -/
def void : TWord := ⟨0#64, Tag.void⟩

end TWord

/-- A word as caches and memory hold it: the tagged word and its poison mark (R165, R194). -/
structure CWord where
  w : TWord
  poison : Bool
deriving DecidableEq, Repr

def CWord.zero : CWord := ⟨TWord.mkRaw 0#64, false⟩

/-- A 128-byte line: 16 words with their tags (R159). -/
abbrev Line := List CWord

def Line.zero : Line := List.replicate 16 CWord.zero

end Sys2Proof
end

