-- ==== Sys2Proof/Syntax.lean ====
section
/-! DEFINITION. The commands of the module: one constructor of `Instr` for each row of
spec/opcode_table.json, with the operands the row's rule names. Physical outcomes that the
spec leaves to the hardware or to the world (a test that fails, a sensor reading, a frame) are operands. -/

namespace Sys2Proof

/-! ## Instances (R11, R15) -/

abbrev LC := Fin 128
abbrev SetNo := Fin 32
abbrev TrioNo := Fin 64
abbrev CoreNo := Fin 208
abbrev Pos := Fin 3
abbrev Reg := Fin 32
abbrev VReg := Fin 16
abbrev Agent := Fin 132
abbrev LineNo := BitVec 45
abbrev PAddr := BitVec 52
abbrev StackNo := Fin 8
abbrev PortNo := Fin 8
abbrev ChanNo := Fin 512
abbrev GroupNo := Fin 512
abbrev SliceNo := Fin 4096
abbrev PairNo := Fin 2
abbrev PartNo := Fin 16
abbrev EngNo := Fin 32
abbrev SrcNo := Fin 1536
abbrev MbxNo := Fin 128
abbrev PointNo := Fin 2048
abbrev IoDie := Fin 4

/-- The dies a fault point or a hull may name, H0, H1, IO0-IO3 in this order (R438). -/
abbrev DieNo := Fin 6

inductive HuskId where
  | a | b
deriving DecidableEq, Repr

inductive Bus where
  | mbA | mbB
deriving DecidableEq, Repr

/-! ## Operand forms of the Derkin instructions (R68, R69) -/

/-- Two-register short form, or long L-R form. -/
inductive RForm where
  | short (rd rs : Reg)
  | long (rd ra rb : Reg)
deriving DecidableEq, Repr

/-- One-operand short or long form (TGET). -/
inductive UForm where
  | short (rd rs : Reg)
  | long (rd ra : Reg)
deriving DecidableEq, Repr

/-- ADDI: short with imm7, long with imm14. -/
inductive IForm where
  | short (rd : Reg) (imm7 : BitVec 7)
  | long (rd ra : Reg) (imm14 : BitVec 14)
deriving DecidableEq, Repr

/-- SHL, SHR and SAR: short with a 5-bit count, long with the count in rb. -/
inductive ShForm where
  | short (rd : Reg) (count : BitVec 5)
  | long (rd ra rb : Reg)
deriving DecidableEq, Repr

inductive ShKind where
  | shl | shr | sar
deriving DecidableEq, Repr

/-- LDT and STT: long, short with a base G24-G31, short with base G2. -/
inductive MForm where
  | long (rd ra : Reg) (imm14 : BitVec 14)
  | base (rd : Reg) (b : BitVec 3) (off4 : BitVec 4)
  | stack (rd : Reg) (off6 : BitVec 6)
deriving DecidableEq, Repr

/-- The condition of BCMP with its second operand (R64). -/
inductive BCond where
  | eq (rb : Reg) | ne (rb : Reg) | lt (rb : Reg) | ge (rb : Reg) | ltu (rb : Reg) | geu (rb : Reg)
  | tageq (t : Tag) | tagne (t : Tag)
deriving DecidableEq, Repr

/-- FBAR has a short and a long form (R85). -/
inductive Size where
  | short | long
deriving DecidableEq, Repr

/-- The two ordering bits of an atomic, func9 [8:7] (R80). -/
structure AmoOrder where
  acq : Bool
  rel : Bool
deriving DecidableEq, Repr

/-- TSWITCH names its target in its field, in a short form's register or in rb (R117). -/
inductive SwForm where
  | imm (n : SetNo)
  | regShort (r : Reg)
  | regLong (rb : Reg)
deriving DecidableEq, Repr

/-! ## Inputs of the pip windows (R40) -/

/-- Readings of one stack over the last 1,000 pips (R207, R208). -/
structure StackObs where
  stack : StackNo
  bwPct : Nat
  queueBusy : Bool
deriving DecidableEq, Repr

/-- Output of an engine job that got its Cmp in the pip (R362): the job by its queue and count. -/
structure ProgressObs where
  slice : SliceNo
  pair : PairNo
  idx : W32
  progress : BitVec 40
deriving DecidableEq, Repr

/-- What the snapshot latches at a pip edge: changed sensor readings in eighths of a degree and
the input powers in watts (R40, R483), and what the management links of the pip reach. -/
structure PipInputs where
  sensors : List (Fin 320 × Int)
  vinA : Nat
  vinB : Nat
  standby : Nat
  ivrLoss : Nat
  stackTab : List StackObs
  progress : List ProgressObs
  /-- dies that the management links reach: H0, H1, IO0-IO3 (R16, R240) -/
  mgmt : BitVec 6 := 0x3F#6
  /-- halves that the fault collector sees healthy over them (R237) -/
  healthy : BitVec 2 := 3#2
deriving DecidableEq, Repr

/-- What the hardware finds in this pip's step of one rebuild (R146, R150): the array that failed, if one did,
and the mismatched words of the sets copied. -/
structure RebuildObs where
  trio : TrioNo
  pos : Pos
  arrayFail : Option (BitVec 4)
  mismatches : Nat
deriving DecidableEq, Repr

/-- What the controllers find in this pip's pieces of demand scrubs (R204): addresses of lines corrected and uncorrectable. -/
structure ScrubObs where
  corrected : List PAddr
  uncorrectable : List PAddr
deriving DecidableEq, Repr

/-- What enters the husk loop from outside it: how many requests it takes, at least 4 when so many wait (R401),
what the hardware finds in the rebuild and scrub pieces of the pip, and which idle engines and stacks the loop puts
to sleep (R229, R354: they may sleep). -/
structure HuskInputs where
  take : Nat
  sleepEngines : BitVec 32 := 0#32
  sleepStacks : BitVec 8 := 0#8
  rebuild : List RebuildObs
  scrub : ScrubObs
deriving DecidableEq, Repr

/-! ## Trio events -/

/-- Result of one pip of checkstop recovery: array checks of positions a, b, c in pips 2-5, agreement of
the shadow pairs a-b, b-c, a-c in pips 6-21 (R142). -/
structure CheckObs where
  failA : Option (BitVec 4)
  failB : Option (BitVec 4)
  failC : Option (BitVec 4)
  agreeAB : Bool
  agreeBC : Bool
  agreeAC : Bool
deriving DecidableEq, Repr

/-! ## Coherence operands (R167) -/

inductive Maint where
  | none | clean | flush | inv
deriving DecidableEq, Repr

inductive FwdVariant where
  | plain | nc | clean
deriving DecidableEq, Repr

inductive AmoOp where
  | add | swap | cas | dadd
deriving DecidableEq, Repr

/-- An atomic operation as AmoReq carries it: operation, new operand and, for CAS, the expected word. -/
structure AmoArgs where
  op : AmoOp
  operand : TWord
  expected : TWord
deriving DecidableEq, Repr

/-- The status AmoRsp returns: none, or the trap the home's check found (R181). -/
inductive AmoStatus where
  | ok
  | tagMismatch (found : Tag)
  | intOvf
  | decData (subcause : Byte)
  | decOvf
  | tagStore
  | poison
deriving DecidableEq, Repr

inductive EccArray where
  | l2 (a : Agent) (line : LineNo) (word : Fin 16)
  | l3 (line : LineNo) (word : Fin 16) (set : BitVec 12) (way : BitVec 4)
  | dir (slice : Fin 64) (set : BitVec 12) (way : BitVec 4) (lines : List LineNo)
  /-- a word that a CXL device returns marked poisoned (R215) -/
  | device (line : LineNo) (word : Fin 16)
deriving DecidableEq, Repr

/-! ## Exchanges, frames and jobs -/

/-- An exchange is named by its ring pair and the submission count of its descriptor (R249). -/
structure ExId where
  slice : SliceNo
  pair : PairNo
  idx : W32
deriving DecidableEq, Repr

/-- An engine job: standalone, by its queue and count, or inline, by its exchange. -/
inductive JobId where
  | queued (slice : SliceNo) (pair : PairNo) (idx : W32)
  | inl (x : ExId)
deriving DecidableEq, Repr

/-- The header of a received frame (R295) with what the receiver finds of its outer parts (R290, R325):
EtherType, source address, FCS, and, in an encrypted group, whether it authenticates. -/
structure FrameHdr where
  ftype : Byte
  etherType : Half
  src : BitVec 48
  fcsOk : Bool
  authOk : Bool
  version : Byte
  flags : Byte
  path : Byte
  epoch : Byte
  bodyLength : Half
  tag : W64
  seq : W32
  ackSeq : W32
  keyEpoch : W32
deriving DecidableEq, Repr

structure DataBody where
  offset : W32
  dlen : Half
  crc : W32
  data : List Byte
deriving DecidableEq, Repr

structure CompleteBody where
  status : Byte
  cflags : Byte
  bytes : W32
deriving DecidableEq, Repr

structure HelloBody where
  senderId : W64
  incarnation : W32
  pathIndex : Byte
  pathCount : Byte
  helloRx : Byte
  hflags : Byte
  window : Half
  maxData : Half
  maxOpen : Half
  retain : W32
  keyEpoch : W32
  nextEpoch : W32
  stamp : W32
  echo : W32
  echoDelay : W32
deriving DecidableEq, Repr

structure AnswerEntry where
  tag : W64
  state : Byte
  status : Byte
  opcode : Byte
  bytes : W32
deriving DecidableEq, Repr

structure AnswerBody where
  queryId : W32
  entries : List AnswerEntry
deriving DecidableEq, Repr

structure GoneBody where
  lostIndex : Byte
  reason : Byte
  lastSeq : W32
deriving DecidableEq, Repr

inductive WhichWm where
  | sq | cq | eq
deriving DecidableEq, Repr

/-- What a requester that receives ISOLATED was doing (R235, R254, R265, R268). -/
inductive IsoReq where
  | core (c : LC)
  | eviction (a : Agent) (line : LineNo)
  | descriptor (slice : SliceNo) (pair : PairNo)
  | jobFetch (slice : SliceNo) (pair : PairNo)
  | exchange (x : ExId)
  | record (x : ExId)
  | job (j : JobId)
deriving DecidableEq, Repr

/-! ## Network operands -/

/-- A die-to-die link: half-to-half 0-3, I/O-to-half e of IO[d] to half h, mirror pair 0-1 (R16). -/
inductive LinkId where
  | d2d (i : Fin 4)
  | io (d : IoDie) (h : Fin 2) (e : Fin 2)
  | mirror (p : Fin 2)
deriving DecidableEq, Repr

/-- A flit of a link, by its number (R219). -/
structure LinkFlit where
  link : LinkId
  flit : Nat
deriving DecidableEq, Repr

/-- A domain that may sleep (R229). -/
inductive Domain where
  | engine (e : EngNo)
  | stack (j : StackNo)
  | trio (t : TrioNo)
deriving DecidableEq, Repr

/-- A hull position: a target that a hull can stand for (R232, R236). -/
abbrev HullPos := Fin 256

inductive HullMsg where
  | request | posted | response | fromTarget
deriving DecidableEq, Repr

inductive Unit' where
  | half (h : Fin 2)
  | io (d : IoDie)
  | husk (h : HuskId)
deriving DecidableEq, Repr

/-! ## Command packets (R397) -/

/-- A request as the service die holds it: everything but OPCODE, which the command's constructor fixes.
`source` and `addr` are the hardware-written bytes 8 and 9; `arrival` is the arrival stamp. -/
structure Request where
  source : Byte
  addr : Byte
  seq : Half
  nonce : Byte
  flags : Byte
  paramLength : Half
  params : List Byte
  arrival : W64
deriving DecidableEq, Repr

/-! ## Registers with no behaviour of their own (R12) -/

inductive RegName where
  | sqWm (s : SliceNo) (r : PairNo)
  | cqWm (s : SliceNo) (r : PairNo)
  | ringStatus (s : SliceNo) (r : PairNo)
  | eqStatus (s : SliceNo) (r : PairNo)
  | eqWm (s : SliceNo) (r : PairNo)
  | invIova (p : PartNo) (k : Fin 16)
  | invPages (p : PartNo) (k : Fin 16)
  | invSlice (p : PartNo) (k : Fin 16)
  | invCsr (p : PartNo) (k : Fin 16)
  | mbxStatus (p : PartNo) (m : MbxNo)
  | mbxDbMask (p : PartNo) (m : MbxNo)
  | sendStage (c : LC) (k : SetNo) (word : Fin 8)
  | sendStatus (c : LC) (k : SetNo)
  | cmdArea (p : PartNo) (word : Fin 8)
  | cmdStatus (p : PartNo)
  | pipStatus
  | stackStatus (j : StackNo)
  | hullStatus (h : HullPos)
  | modeStatus
  | seed
  | sliceStatus (s : SliceNo)
  | readOnly
deriving DecidableEq, Repr

/-! ## Boot operands -/

/-- What the flash gives of one copy (R463): whether it answers with valid SFDP, the bytes read, and the
root of trust's answers that rest on fused values: the key hash, the signature, and whether every KEYS record unwraps. -/
structure CopyIn where
  readOk : Bool
  bytes : List Byte
  keyHashMatches : Bool
  signatureOk : Bool
  keysUnwrap : Bool
deriving DecidableEq, Repr

/-- The result of built-in test (R153, R469): cores, stacks and dies that fail, the CXL devices found with
their capacities (R212), and the measured skew (R36). -/
structure BistIn where
  failedCores : List (CoreNo × BitVec 4)
  failedStacks : List StackNo
  failedDies : List DieNo
  cxl : List (PortNo × Nat)
  /-- where the trim of M3 leaves the edge of each replica against the service die's, in grains: 0 early, 1 level, 2 late (R30) -/
  trims : List (DieNo × Fin 3)
  testRecord : List Byte
deriving DecidableEq, Repr

/-! ## The commands -/

inductive Instr where
  -- pins, power and time
  | resetNRelease (mbaddr : BitVec 3)
  | resetNAssert
  | standbyPowerLoss
  | pwrOkRise
  | pwrOkFall
  | inputLoss (group : Fin 2) (high : Bool)
  | ivrCurrentLimit (group : Fin 2)
  | thermalTrip (sensor : Fin 320)
  | pipEdge (inp : PipInputs)
  | huskLoop (inp : HuskInputs)
  | eventDeliveryWindow
  | commitWindow
  | pipOverrun (activity : Fin 10)
  | refclkLost
  | holdoverExit
  | aliveToggle
  -- Derkin instructions
  | mov (c : LC) (rd rs : Reg)
  | add (c : LC) (f : RForm)
  | sub (c : LC) (f : RForm)
  | and (c : LC) (f : RForm)
  | or (c : LC) (f : RForm)
  | xor (c : LC) (f : RForm)
  | not (c : LC) (rd ra : Reg)
  | neg (c : LC) (rd ra : Reg)
  | tget (c : LC) (f : UForm)
  | jr (c : LC) (rd rs : Reg)
  | ret (c : LC) (r : Reg)
  | movi (c : LC) (rd : Reg) (imm : BitVec 7)
  | addi (c : LC) (f : IForm)
  | andi (c : LC) (rd ra : Reg) (imm : BitVec 14)
  | ori (c : LC) (rd ra : Reg) (imm : BitVec 14)
  | xori (c : LC) (rd ra : Reg) (imm : BitVec 14)
  | shl (c : LC) (f : ShForm)
  | shr (c : LC) (f : ShForm)
  | sar (c : LC) (f : ShForm)
  | shifti (c : LC) (rd ra : Reg) (k : ShKind) (count : BitVec 6)
  | lui (c : LC) (rd : Reg) (imm : BitVec 19)
  | mul (c : LC) (rd ra rb : Reg)
  | mulh (c : LC) (rd ra rb : Reg)
  | div (c : LC) (rd ra rb : Reg)
  | rem (c : LC) (rd ra rb : Reg)
  | addc (c : LC) (rd ra rb rc : Reg)
  | subc (c : LC) (rd ra rb rc : Reg)
  | mulw (c : LC) (rd ra rb rc : Reg)
  | leai (c : LC) (rd : Reg) (imm : BitVec 7)
  | lea (c : LC) (rd ra : Reg) (imm : BitVec 14)
  | adda (c : LC) (rd ra rb : Reg) (sh : BitVec 2)
  | leap (c : LC) (rd : Reg) (imm : BitVec 19)
  | leac (c : LC) (rd : Reg) (imm : BitVec 19)
  | ldt (c : LC) (f : MForm)
  | ldw (c : LC) (rd ra : Reg) (imm : BitVec 14)
  | ldwu (c : LC) (rd ra : Reg) (imm : BitVec 14)
  | ldh (c : LC) (rd ra : Reg) (imm : BitVec 14)
  | ldhu (c : LC) (rd ra : Reg) (imm : BitVec 14)
  | ldb (c : LC) (rd ra : Reg) (imm : BitVec 14)
  | ldbu (c : LC) (rd ra : Reg) (imm : BitVec 14)
  | ldc (c : LC) (rd ra : Reg) (imm : BitVec 14)
  | ldtp (c : LC) (rd : Reg) (imm : BitVec 19)
  | stt (c : LC) (f : MForm)
  | stw (c : LC) (rs ra : Reg) (imm : BitVec 14)
  | sth (c : LC) (rs ra : Reg) (imm : BitVec 14)
  | stb (c : LC) (rs ra : Reg) (imm : BitVec 14)
  | bcmp (c : LC) (ra : Reg) (cond : BCond) (disp : BitVec 11)
  | bz (c : LC) (rs : Reg) (disp : BitVec 7)
  | bnz (c : LC) (rs : Reg) (disp : BitVec 7)
  | jmp (c : LC) (disp : BitVec 24)
  | call (c : LC) (disp : BitVec 24)
  | jalr (c : LC) (rd ra : Reg) (imm : BitVec 14)
  | nop (c : LC)
  | dadd (c : LC) (rd ra rb : Reg)
  | dsub (c : LC) (rd ra rb : Reg)
  | dcmp (c : LC) (rd ra rb : Reg)
  | dchk (c : LC) (rd ra : Reg)
  | dtoi (c : LC) (rd ra : Reg)
  | itod (c : LC) (rd ra : Reg)
  | vdadd (c : LC) (vd va vb : VReg)
  | vld (c : LC) (vd : VReg) (ra : Reg) (imm : BitVec 14)
  | vst (c : LC) (vs : VReg) (ra : Reg) (imm : BitVec 14)
  | vstd (c : LC) (vs : VReg) (ra : Reg) (imm : BitVec 14)
  | fadd (c : LC) (rd ra rb : Reg)
  | fsub (c : LC) (rd ra rb : Reg)
  | fmul (c : LC) (rd ra rb : Reg)
  | fdiv (c : LC) (rd ra rb : Reg)
  | fsqrt (c : LC) (rd ra : Reg)
  | fma (c : LC) (rd ra rb rc : Reg)
  | fmin (c : LC) (rd ra rb : Reg)
  | fmax (c : LC) (rd ra rb : Reg)
  | fcmp (c : LC) (rd ra rb : Reg)
  | fcvtif (c : LC) (rd ra : Reg)
  | fcvtfi (c : LC) (rd ra : Reg)
  | fneg (c : LC) (rd ra : Reg)
  | fabs (c : LC) (rd ra : Reg)
  | fbar (c : LC) (z : Size)
  | fpTrap (c : LC)
  | amoadd (c : LC) (rd ra rb : Reg) (o : AmoOrder)
  | amoswap (c : LC) (rd ra rb : Reg) (o : AmoOrder)
  | amocas (c : LC) (rd ra rb : Reg) (o : AmoOrder)
  | damoadd (c : LC) (rd ra rb : Reg) (o : AmoOrder)
  | fence (c : LC)
  | ifence (c : LC)
  | zline (c : LC) (ra : Reg) (imm : BitVec 14)
  | cclean (c : LC) (ra : Reg) (imm : BitVec 14)
  | cflush (c : LC) (ra : Reg) (imm : BitVec 14)
  | cinv (c : LC) (ra : Reg) (imm : BitVec 14)
  | l2wb (c : LC) (ra : Reg) (imm : BitVec 14)
  | tset (c : LC) (rd ra : Reg) (t : Tag)
  | tchk (c : LC) (ra : Reg) (mask : Half)
  | trapi (c : LC) (num : Byte)
  | rdtime (c : LC) (rd : Reg)
  | break (c : LC)
  | tswitch (c : LC) (f : SwForm)
  | tsave (c : LC) (rd rb : Reg)
  | tload (c : LC) (rd ra rb : Reg)
  | wread (c : LC) (rd : Reg)
  | wwrite (c : LC) (ra : Reg)
  | rett (c : LC)
  | mfsr (c : LC) (rd n : Reg)
  | mtsr (c : LC) (ra n : Reg)
  | illegalInstruction (c : LC) (z : Size)
  | event (c : LC)
  | machineCheck (c : LC)
  -- trios
  | voterDissent (t : TrioNo) (p : Pos) (lane : Fin 4)
  | l1ParityError (core : CoreNo)
  | voterNoMajority (t : TrioNo)
  | checkstopRecoveryPip (t : TrioNo) (o : CheckObs)
  | checkstopResume (t : TrioNo)
  | rebuildLimit (t : TrioNo) (p : Pos)
  | splitCoreError (c : LC)
  | splitCoreResume (c : LC) (arrayFail : Option (BitVec 4)) (shadowOk : Bool)
  -- coherence
  | rdshared (a : Agent) (line : LineNo) (nc : Bool)
  | rdown (a : Agent) (line : LineNo) (zero : Bool) (m : Maint)
  | upgrade (a : Agent) (line : LineNo) (zero : Bool)
  | amoreq (a : Agent) (pa : PAddr) (x : AmoArgs)
  | wrline (d : IoDie) (line : LineNo) (bytes : List Byte) (mask : BitVec 128) (alloc : Bool)
  | wbdirty (a : Agent) (line : LineNo)
  | wbclean (a : Agent) (line : LineNo)
  | evictnote (a : Agent) (line : LineNo)
  | invalack (a : Agent) (line : LineNo)
  | dataAtHome (a : Agent) (line : LineNo) (d : Line)
  | cmpAtHome (a : Agent) (line : LineNo)
  | data (a : Agent) (line : LineNo) (d : Line)
  | dataexcl (a : Agent) (line : LineNo) (d : Line)
  | cmp (a : Agent) (line : LineNo)
  | nack (a : Agent) (line : LineNo)
  | fwdshared (a : Agent) (line : LineNo) (req : Agent) (v : FwdVariant)
  | fwdown (a : Agent) (line : LineNo) (req : Agent)
  | inval (a : Agent) (line : LineNo)
  | amorsp (a : Agent) (pa : PAddr) (old : TWord) (st : AmoStatus) (cont : Bool)
  | cacheEccError (arr : EccArray) (correctable : Bool)
  | isolatedResponse (r : IsoReq)
  -- memory
  | patrolScrubStep (j : StackNo) (corrected uncorrectable : List (Fin 7))
  | hbmCorrectableError (pa : PAddr)
  | hbmUncorrectableError (pa : PAddr)
  | hbmCaParityError (pa : PAddr) (persists : Bool)
  | hbmPhyFailure (j : StackNo)
  | stackSlow (j : StackNo)
  | stackSelfRefreshEntry (j : StackNo)
  | cxlLinkLoss (k : PortNo) (removed : Bool)
  -- network
  | flitCrcError (l : LinkFlit)
  | linkTrainingEnd (l : LinkId) (ok : Bool)
  | domainWake (d : Domain)
  | domainWakeDone (d : Domain)
  | wakeOverrun (d : Domain)
  | netTimeout (reporter : DieNo) (target : HullPos)
  | hullPlacement (target : HullPos)
  | hullArrival (h : HullPos) (m : HullMsg)
  | splitLinkIsolation
  | spanningPartitionEvaluate (p : PartNo)
  | m7Retrain (up : BitVec 4)
  | dieSelfStop (d : DieNo)
  -- rings and exchanges
  | sqTailWrite (s : SliceNo) (r : PairNo) (v : W64)
  | cqHeadWrite (s : SliceNo) (r : PairNo) (v : W64)
  | wmStatusClear (s : SliceNo) (r : PairNo) (w : WhichWm) (v : W64)
  | descriptorFetch (s : SliceNo) (r : PairNo)
  | mirrorConfirm (x : ExId)
  | read (x : ExId)
  | write (x : ExId)
  | control (x : ExId)
  | sense (x : ExId)
  | chain (x : ExId)
  | echo (x : ExId)
  | cancel (x : ExId)
  | open (x : ExId)
  | dataSend (x : ExId)
  | exchangeLogged (x : ExId)
  | recordComposed (x : ExId)
  | recordPosted (x : ExId)
  | noPathWaitExpiry (x : ExId)
  | exchangeTimeout (x : ExId)
  | abortWaitExpiry (x : ExId)
  | ioDieTakeover (d : IoDie)
  | pairLoss (p : PairNo)
  | sliceResetDrainEnd (s : SliceNo)
  | dataFrame (ch : ChanNo) (h : FrameHdr) (b : DataBody)
  | ack (ch : ChanNo) (h : FrameHdr) (disposition : Byte)
  | nak (ch : ChanNo) (h : FrameHdr) (nakSeq : W32) (reason : Byte)
  | complete (ch : ChanNo) (h : FrameHdr) (b : CompleteBody)
  | resumeAnswer (ch : ChanNo) (h : FrameHdr) (b : AnswerBody)
  | pathHello (ch : ChanNo) (h : FrameHdr) (b : HelloBody)
  | pathGone (ch : ChanNo) (h : FrameHdr) (b : GoneBody)
  | rtoExpiry (ch : ChanNo)
  | pathHelloSend (ch : ChanNo)
  | pathSilence (ch : ChanNo)
  | pcsBlockLockLoss (ch : ChanNo)
  | pcsBlockLock (ch : ChanNo)
  | rekeyIntervalExpiry (g : GroupNo)
  | rekeyTimeout (g : GroupNo)
  | oldKeyErase (g : GroupNo)
  -- translation
  | invalidate (p : PartNo) (k : Fin 16) (v : W64)
  | invalidateDone (p : PartNo) (k : Fin 16)
  -- engines
  | eqTailWrite (s : SliceNo) (r : PairNo) (v : W64)
  | engineJobFetch (s : SliceNo) (r : PairNo)
  | engineJobAccept (s : SliceNo) (r : PairNo)
  | engineJobStart (j : JobId)
  | engineJobEnd (j : JobId)
  | engineSelfCheckFail (j : JobId) (stage : Fin 3)
  | stagingEnd (x : ExId)
  -- husks
  | seedPlacement (aPass bPass : Bool)
  | seedRenewal
  | huskSelfCheckFail (h : HuskId) (check : Fin 6)
  | seedTakeover
  | huskSelfTestEnd (h : HuskId) (pass : Bool)
  | huskRejoinCopyDone (h : HuskId) (checksumOk : Bool)
  | mbRequest (b : Bus) (addr : Byte) (bytes : List Byte) (pecOk : Bool)
  | mbReplyRead (b : Bus) (addr : Byte)
  | cmdGo (p : PartNo) (v : W64)
  | commandPoll (opcode : Half) (q : Request)
  | unknownCommand (opcode : Half) (q : Request)
  -- command packets
  | identity (q : Request)
  | configRead (q : Request)
  | configWrite (q : Request)
  | stackWeightSet (q : Request)
  | partDefine (q : Request)
  | partStart (q : Request)
  | partStop (q : Request)
  | partRangeAdd (q : Request)
  | partRangeRemove (q : Request)
  | partRestart (q : Request)
  | sliceCreate (q : Request)
  | sliceDestroy (q : Request)
  | sliceReset (q : Request)
  | sliceLogStart (q : Request)
  | sliceLogSwitch (q : Request)
  | sliceLogStop (q : Request)
  | sliceStatus (q : Request)
  | partStatus (q : Request)
  | faultLogRead (q : Request)
  | historyRead (q : Request)
  | trioStatusRead (q : Request)
  | counterClear (q : Request)
  | hullStatusRead (q : Request)
  | classRead (q : Request)
  | classSet (q : Request)
  | capSet (q : Request)
  | powerRead (q : Request)
  | sensorRead (q : Request)
  | trioClockLimit (q : Request)
  | park (q : Request)
  | parkEntry
  | unpark (q : Request)
  | trioAutoPark (t : TrioNo)
  | pgOpen (q : Request)
  | pgClose (q : Request)
  | pgSet (q : Request)
  | chSet (q : Request)
  | ringSetup (q : Request)
  | ringTeardown (q : Request)
  | pgStatus (q : Request)
  | resumeQuery (q : Request)
  | engqSetup (q : Request)
  | engqTeardown (q : Request)
  | engqAbort (q : Request)
  | engStatus (q : Request)
  | engSet (q : Request)
  | pipStatusRead (q : Request)
  | demandScrub (q : Request)
  | trioDump (q : Request)
  | swap (q : Request)
  | quiesce (q : Request)
  | quiesceEnd (q : Request)
  | huskStatus (q : Request)
  | privLogRead (q : Request)
  | unitRejoin (q : Request)
  | unitRejoinEnd (u : Unit') (ok : Bool)
  | keyGenerate (q : Request)
  | keyImport (q : Request)
  | keyDestroy (q : Request)
  | keyInfo (q : Request)
  | rekey (q : Request)
  | measurementRead (q : Request)
  | imageStatus (q : Request)
  -- events and mailboxes
  | evPendingWrite (p : PartNo) (e : SrcNo) (v : W64)
  | evTake (p : PartNo) (e : SrcNo)
  | evBindWrite (p : PartNo) (e : SrcNo) (v : W64)
  | mbxSend (c : LC) (k : SetNo) (v : W64)
  | mbxDbTake (p : PartNo) (m : MbxNo)
  | mbxRelease (p : PartNo) (m : MbxNo) (v : W64)
  | mbxReset (p : PartNo) (m : MbxNo) (v : W64)
  -- registers and faults
  | registerWrite (r : RegName) (v : W64)
  | faultPointReport (pt : PointNo) (detail : Half)
  | faultRecordWrite
  | collectorSelfFault (kind : Fin 3)
  -- boot
  | imageCheckEnd (c0 c1 : CopyIn)
  | builtInTestEnd (r : BistIn)
  | coldStartEnd
  -- management buses
  | mbBusStuck (b : Bus)
  | mbBusFail (b : Bus)
  | mbBusReturn (b : Bus)
  | i3cAddressAssign (b : Bus) (addr : BitVec 7)
  | standbyPowerGood
  -- responses and fetch
  | deviceWindowResponse (c : LC)
  | instructionFetchFault (c : LC) (secondHalf : Bool)
deriving DecidableEq, Repr

end Sys2Proof
end

