-- ==== Sys2Proof/Decode.lean ====
section
/-! DEFINITION. The encodings of the Derkin instructions (R66-R70, R83, R85, R517): the command that the instruction at a program counter
spells. The opcode table itself gives its rows no bits, so no table word spells a command. -/

namespace Sys2Proof

/-- No row of the table has bits: every word is refused. -/
def decodeTableWord (_nbits _w : Nat) : Option Instr := none

namespace Derkin

/-- A halfword with bits [15:14] of 0b11 is the first half of a long form (R66). -/
def isLong (h : BitVec 16) : Bool := h.extractLsb' 14 2 == 3#2

/-- A register field of a word, from its low bit (R68, R69). -/
def reg {n : Nat} (w : BitVec n) (lo : Nat) : Reg := (w.extractLsb' lo 5).toFin

/-- A field that the instruction does not use must be zero (R67). -/
def zeroAt {n : Nat} (w : BitVec n) (lo len : Nat) : Bool := w.extractLsb' lo len == 0#len

/-- `x` where the fields marked zero are zero, else ILLEGAL_OP (R67). -/
def whenZero (ok : Bool) (c : LC) (z : Size) (x : Instr) : Instr := if ok then x else .illegalInstruction c z

/-! ## Short forms (R68) -/

/-- Operations 0x0 and 0x1. -/
def shortTwo (c : LC) (op : Nat) (sub : Nat) (rd rs : Reg) : Instr :=
  match op, sub with
  | 0, 0 => if rd = 0 ∧ rs = 0 then .illegalInstruction c .short else .mov c rd rs
  | 0, 1 => .add c (.short rd rs)
  | 0, 2 => .sub c (.short rd rs)
  | 0, _ => .and c (.short rd rs)
  | _, 0 => .or c (.short rd rs)
  | _, 1 => .xor c (.short rd rs)
  | _, 2 => .tget c (.short rd rs)
  | _, _ => .jr c rd rs

/-- Operation 0x9. -/
def shortNine (c : LC) (f : Reg) (func : Nat) : Instr :=
  match func with
  | 0 => whenZero (f == 0) c .short (.nop c)
  | 1 => .tswitch c (.imm f)
  | 2 => .tswitch c (.regShort f)
  | 3 => .ret c f
  | 4 => whenZero (f == 0) c .short (.fbar c .short)
  | _ => .illegalInstruction c .short

/-- Operation 0xA; kind 0b11 is reserved. -/
def shortShift (c : LC) (rd : Reg) (kind : Nat) (count : BitVec 5) : Instr :=
  match kind with
  | 0 => .shl c (.short rd count)
  | 1 => .shr c (.short rd count)
  | 2 => .sar c (.short rd count)
  | _ => .illegalInstruction c .short

def decodeShort (c : LC) (h : BitVec 16) : Instr :=
  let rd := reg h 7
  match (h.extractLsb' 12 4).toNat with
  | 0 => shortTwo c 0 (h.extractLsb' 0 2).toNat rd (reg h 2)
  | 1 => shortTwo c 1 (h.extractLsb' 0 2).toNat rd (reg h 2)
  | 2 => .movi c rd (h.extractLsb' 0 7)
  | 3 => .addi c (.short rd (h.extractLsb' 0 7))
  | 4 => .leai c rd (h.extractLsb' 0 7)
  | 5 => .ldt c (.base rd (h.extractLsb' 4 3) (h.extractLsb' 0 4))
  | 6 => .stt c (.base rd (h.extractLsb' 4 3) (h.extractLsb' 0 4))
  | 7 => .bz c rd (h.extractLsb' 0 7)
  | 8 => .bnz c rd (h.extractLsb' 0 7)
  | 9 => shortNine c rd (h.extractLsb' 0 7).toNat
  | 10 => shortShift c rd (h.extractLsb' 5 2).toNat (h.extractLsb' 0 5)
  | 11 => if h.getLsbD 6 then .stt c (.stack rd (h.extractLsb' 0 6)) else .ldt c (.stack rd (h.extractLsb' 0 6))
  | _ => .illegalInstruction c .short

/-! ## Long forms (R69, R85) -/

/-- The register fields of the formats L-R and L-R4, with which of them the word leaves zero. -/
structure Fields where
  rd : Reg
  ra : Reg
  rb : Reg
  rc : Reg
deriving DecidableEq, Repr

def fieldsOf (w : BitVec 32) : Fields := { rd := reg w 19, ra := reg w 14, rb := reg w 9, rc := reg w 4 }

/-- Major opcode 0x00: class A and class L. -/
def longArith (c : LC) (f : Fields) (func : Nat) : Instr :=
  match func with
  | 0 => .add c (.long f.rd f.ra f.rb)
  | 1 => .sub c (.long f.rd f.ra f.rb)
  | 2 => .mul c f.rd f.ra f.rb
  | 3 => .mulh c f.rd f.ra f.rb
  | 4 => .div c f.rd f.ra f.rb
  | 5 => .rem c f.rd f.ra f.rb
  | 6 => .and c (.long f.rd f.ra f.rb)
  | 7 => .or c (.long f.rd f.ra f.rb)
  | 8 => .xor c (.long f.rd f.ra f.rb)
  | 9 => .shl c (.long f.rd f.ra f.rb)
  | 10 => .shr c (.long f.rd f.ra f.rb)
  | 11 => .sar c (.long f.rd f.ra f.rb)
  | 12 => whenZero (f.rb == 0) c .long (.neg c f.rd f.ra)
  | 13 => whenZero (f.rb == 0) c .long (.not c f.rd f.ra)
  | _ => .illegalInstruction c .long

/-- Major opcode 0x28: packed decimal. -/
def longDecimal (c : LC) (f : Fields) (func : Nat) : Instr :=
  match func with
  | 0 => .dadd c f.rd f.ra f.rb
  | 1 => .dsub c f.rd f.ra f.rb
  | 2 => .dcmp c f.rd f.ra f.rb
  | 3 => whenZero (f.rb == 0) c .long (.dchk c f.rd f.ra)
  | 4 => whenZero (f.rb == 0) c .long (.dtoi c f.rd f.ra)
  | 5 => whenZero (f.rb == 0) c .long (.itod c f.rd f.ra)
  | _ => .illegalInstruction c .long

/-- Major opcode 0x29: binary64. -/
def longFloat (c : LC) (f : Fields) (func : Nat) : Instr :=
  match func with
  | 0 => .fadd c f.rd f.ra f.rb
  | 1 => .fsub c f.rd f.ra f.rb
  | 2 => .fmul c f.rd f.ra f.rb
  | 3 => .fdiv c f.rd f.ra f.rb
  | 4 => whenZero (f.rb == 0) c .long (.fsqrt c f.rd f.ra)
  | 5 => .fmin c f.rd f.ra f.rb
  | 6 => .fmax c f.rd f.ra f.rb
  | 7 => .fcmp c f.rd f.ra f.rb
  | 8 => whenZero (f.rb == 0) c .long (.fcvtif c f.rd f.ra)
  | 9 => whenZero (f.rb == 0) c .long (.fcvtfi c f.rd f.ra)
  | 10 => whenZero (f.rd == 0 && f.ra == 0 && f.rb == 0) c .long (.fbar c .long)
  | 11 => whenZero (f.rb == 0) c .long (.fneg c f.rd f.ra)
  | 12 => whenZero (f.rb == 0) c .long (.fabs c f.rd f.ra)
  | _ => .illegalInstruction c .long

/-- Major opcode 0x2C: func9 [8:7] is the ordering, [6:0] the operation (R80). -/
def longAtomic (c : LC) (f : Fields) (func : BitVec 9) : Instr :=
  let o : AmoOrder := { acq := func.getLsbD 7, rel := func.getLsbD 8 }
  match (func.extractLsb' 0 7).toNat with
  | 0 => .amoadd c f.rd f.ra f.rb o
  | 1 => .amoswap c f.rd f.ra f.rb o
  | 2 => .amocas c f.rd f.ra f.rb o
  | 3 => .damoadd c f.rd f.ra f.rb o
  | _ => .illegalInstruction c .long

/-- Major opcode 0x0C, format L-R4. -/
def longFour (c : LC) (f : Fields) (sub : Nat) : Instr :=
  match sub with
  | 0 => .addc c f.rd f.ra f.rb f.rc
  | 1 => .subc c f.rd f.ra f.rb f.rc
  | 2 => .mulw c f.rd f.ra f.rb f.rc
  | 3 => .fma c f.rd f.ra f.rb f.rc
  | _ => .illegalInstruction c .long

/-- Major opcode 0x05: the shift by an immediate; imm[13:8] are zero. -/
def longShift (c : LC) (f : Fields) (imm : BitVec 14) : Instr :=
  let count := imm.extractLsb' 0 6
  whenZero (zeroAt imm 8 6) c .long (match (imm.extractLsb' 6 2).toNat with
    | 0 => .shifti c f.rd f.ra .shl count
    | 1 => .shifti c f.rd f.ra .shr count
    | 2 => .shifti c f.rd f.ra .sar count
    | _ => .illegalInstruction c .long)

/-- Major opcode 0x20: cond in [13:11]; the second operand is rb, or for TAGEQ and TAGNE the tag in rb's low four bits (R64). -/
def longBranch (c : LC) (w : BitVec 32) : Instr :=
  let ra := reg w 19
  let rb := reg w 14
  let disp := w.extractLsb' 0 11
  let tag := w.extractLsb' 14 4
  match (w.extractLsb' 11 3).toNat with
  | 0 => .bcmp c ra (.eq rb) disp
  | 1 => .bcmp c ra (.ne rb) disp
  | 2 => .bcmp c ra (.lt rb) disp
  | 3 => .bcmp c ra (.ge rb) disp
  | 4 => .bcmp c ra (.ltu rb) disp
  | 5 => .bcmp c ra (.geu rb) disp
  | 6 => whenZero (!w.getLsbD 18) c .long (.bcmp c ra (.tageq tag) disp)
  | _ => whenZero (!w.getLsbD 18) c .long (.bcmp c ra (.tagne tag) disp)

/-- Major opcode 0x2E: the rd field selects the operation (R83). -/
def longCache (c : LC) (f : Fields) (imm : BitVec 14) : Instr :=
  match f.rd.val with
  | 0 => .zline c f.ra imm
  | 1 => .cclean c f.ra imm
  | 2 => .cflush c f.ra imm
  | 3 => .cinv c f.ra imm
  | 4 => .l2wb c f.ra imm
  | _ => .illegalInstruction c .long

/-- Major opcode 0x3C: TRAPI, RDTIME and BREAK. -/
def longTrap (c : LC) (f : Fields) (func : BitVec 9) : Instr :=
  if func.getLsbD 8 then
    (match func.toNat with
     | 0x100 => whenZero (f.ra == 0 && f.rb == 0) c .long (.rdtime c f.rd)
     | 0x102 => whenZero (f.rd == 0 && f.ra == 0 && f.rb == 0) c .long (.break c)
     | _ => .illegalInstruction c .long)
  else whenZero (f.rd == 0 && f.ra == 0 && f.rb == 0) c .long (.trapi c (func.extractLsb' 0 8))

/-- Major opcode 0x3D: the task instructions. -/
def longTask (c : LC) (f : Fields) (func : Nat) : Instr :=
  match func with
  | 0 => whenZero (f.rd == 0 && f.ra == 0) c .long (.tswitch c (.regLong f.rb))
  | 1 => whenZero (f.ra == 0) c .long (.tsave c f.rd f.rb)
  | 2 => .tload c f.rd f.ra f.rb
  | 3 => whenZero (f.ra == 0 && f.rb == 0) c .long (.wread c f.rd)
  | 4 => whenZero (f.rd == 0 && f.rb == 0) c .long (.wwrite c f.ra)
  | _ => .illegalInstruction c .long

/-- Major opcode 0x3E: RETT, MFSR and MTSR (R517). -/
def longSpecial (c : LC) (f : Fields) (func : Nat) : Instr :=
  match func with
  | 0 => whenZero (f.rd == 0 && f.ra == 0 && f.rb == 0) c .long (.rett c)
  | 1 => whenZero (f.ra == 0) c .long (.mfsr c f.rd f.rb)
  | 2 => whenZero (f.rd == 0) c .long (.mtsr c f.ra f.rb)
  | _ => .illegalInstruction c .long

/-- A V register number in rd[3:0]; rd[4] is zero (R85). -/
def vregOf (r : Reg) : VReg := ⟨r.val % 16, by omega⟩

/-- Formats L-I and L-U of the loads and stores: major opcodes 0x10-0x1C. -/
def longMemory (c : LC) (op : Nat) (f : Fields) (imm : BitVec 14) (imm19 : BitVec 19) : Instr :=
  match op with
  | 0x10 => .ldt c (.long f.rd f.ra imm)
  | 0x11 => .ldw c f.rd f.ra imm
  | 0x12 => .ldwu c f.rd f.ra imm
  | 0x13 => .ldh c f.rd f.ra imm
  | 0x14 => .ldhu c f.rd f.ra imm
  | 0x15 => .ldb c f.rd f.ra imm
  | 0x16 => .ldbu c f.rd f.ra imm
  | 0x17 => .ldc c f.rd f.ra imm
  | 0x18 => .stt c (.long f.rd f.ra imm)
  | 0x19 => .stw c f.rd f.ra imm
  | 0x1A => .sth c f.rd f.ra imm
  | 0x1B => .stb c f.rd f.ra imm
  | 0x1C => .ldtp c f.rd imm19
  | _ => .illegalInstruction c .long

/-- Major opcodes 0x38-0x3B: the V registers. -/
def longVector (c : LC) (op : Nat) (f : Fields) (imm : BitVec 14) (func : Nat) : Instr :=
  let vd := vregOf f.rd
  whenZero (decide (f.rd.val < 16)) c .long (match op with
    | 0x38 => .vld c vd f.ra imm
    | 0x39 => .vst c vd f.ra imm
    | 0x3A => .vstd c vd f.ra imm
    | _ => whenZero (func == 0 && decide (f.ra.val < 16) && decide (f.rb.val < 16)) c .long (.vdadd c vd (vregOf f.ra) (vregOf f.rb)))

def decodeLong (c : LC) (w : BitVec 32) : Instr :=
  let f := fieldsOf w
  let func := w.extractLsb' 0 9
  let imm := w.extractLsb' 0 14
  let imm19 := w.extractLsb' 0 19
  let op := (w.extractLsb' 24 6).toNat
  match op with
  | 0x00 => longArith c f func.toNat
  | 0x01 => .addi c (.long f.rd f.ra imm)
  | 0x02 => .andi c f.rd f.ra imm
  | 0x03 => .ori c f.rd f.ra imm
  | 0x04 => .xori c f.rd f.ra imm
  | 0x05 => longShift c f imm
  | 0x06 => .lui c f.rd imm19
  | 0x08 => .lea c f.rd f.ra imm
  | 0x09 => whenZero (zeroAt func 2 7) c .long (.adda c f.rd f.ra f.rb (func.extractLsb' 0 2))
  | 0x0A => .leap c f.rd imm19
  | 0x0B => .leac c f.rd imm19
  | 0x0C => longFour c f (w.extractLsb' 0 4).toNat
  | 0x20 => longBranch c w
  | 0x22 => .jmp c (w.extractLsb' 0 24)
  | 0x23 => .call c (w.extractLsb' 0 24)
  | 0x24 => .jalr c f.rd f.ra imm
  | 0x28 => longDecimal c f func.toNat
  | 0x29 => longFloat c f func.toNat
  | 0x2C => longAtomic c f func
  | 0x2D => whenZero (f.rd == 0 && f.ra == 0 && f.rb == 0) c .long
      (match func.toNat with | 0 => .fence c | 1 => .ifence c | _ => .illegalInstruction c .long)
  | 0x2E => longCache c f imm
  | 0x30 =>
    if func = 0#9 then whenZero (f.rb == 0) c .long (.tget c (.long f.rd f.ra))
    else whenZero (func.extractLsb' 0 5 == 1#5 && f.rb == 0) c .long (.tset c f.rd f.ra (func.extractLsb' 5 4))
  | 0x31 => whenZero (zeroAt w 16 3) c .long (.tchk c f.rd (w.extractLsb' 0 16))
  | 0x38 | 0x39 | 0x3A | 0x3B => longVector c op f imm func.toNat
  | 0x3C => longTrap c f func
  | 0x3D => longTask c f func.toNat
  | 0x3E => longSpecial c f func.toNat
  | _ => longMemory c op f imm imm19

/-- The instruction of LCORE[c] whose first halfword is `h0`; `h1` is the next halfword, read only by a long form, where the first supplies
bits [31:16] and the next bits [15:0] (R66). Every encoding that R67 and R70 do not assign is ILLEGAL_OP. -/
def decode (c : LC) (h0 h1 : BitVec 16) : Instr := if isLong h0 then decodeLong c (h0 ++ h1) else decodeShort c h0

/-- The halfword at an address, stored little-endian (R66). -/
def halfOf (lo hi : Byte) : BitVec 16 := hi ++ lo

end Derkin

end Sys2Proof
end

