-- ==== Sys2Proof/Machine/Bits.lean ====
section
/-! DEFINITION. Bit fields, sign extension, byte order and check codes: the helpers that the encodings of the
spec use. -/

namespace Sys2Proof.Machine

/-- Bits [hi:lo] of a 64-bit register as a number (R11). -/
def field (w : W64) (hi lo : Nat) : Nat := (w.toNat >>> lo) % 2 ^ (hi - lo + 1)

/-- Bit n of a 64-bit register. -/
def bitOf (w : W64) (n : Nat) : Bool := w.getLsbD n

/-- A number placed at bit `lo`, as a summand of a register image. -/
def place (v lo : Nat) : Nat := v <<< lo

/-- A flag placed at bit `n`. -/
def flag (b : Bool) (n : Nat) : Nat := if b then 1 <<< n else 0

/-- A count that saturates at `2^bits - 1`. -/
def sat (bits n : Nat) : Nat := min n (2 ^ bits - 1)

/-- The `n` bytes of a number, lowest first (little-endian, R52). -/
def leBytes : Nat → Nat → List Byte
  | 0, _ => []
  | n + 1, v => BitVec.ofNat 8 v :: leBytes n (v / 256)

/-- The number that bytes spell, lowest first. -/
def ofLE : List Byte → Nat
  | [] => 0
  | b :: bs => b.toNat + 256 * ofLE bs

def beBytes (n v : Nat) : List Byte := (leBytes n v).reverse

def ofBE (bs : List Byte) : Nat := ofLE bs.reverse

/-- `n` items of a list from index `i`. -/
def slice {α : Type} (l : List α) (i n : Nat) : List α := (l.drop i).take n

/-- Little-endian number in bytes [i, i+n) of a block. -/
def leAt (l : List Byte) (i n : Nat) : Nat := ofLE (slice l i n)

/-- Cut or fill with zeros to exactly `n` bytes. -/
def padTo (n : Nat) (l : List Byte) : List Byte := l.take n ++ List.replicate (n - l.length) 0#8

/-- Replace `new.length` bytes from index `i`. -/
def splice (l : List Byte) (i : Nat) (new : List Byte) : List Byte :=
  l.take i ++ new ++ l.drop (i + new.length)

/-- The signed value of a 64-bit word. -/
def sInt (w : W64) : Int := w.toInt

/-- The 64-bit word of an integer, modulo 2^64. -/
def ofInt64 (z : Int) : W64 := BitVec.ofInt 64 z

/-- Whether an integer lies in -2^63 .. 2^63 - 1 (R91). -/
def inInt64 (z : Int) : Bool := decide (-(2 ^ 63) ≤ z ∧ z ≤ 2 ^ 63 - 1)

/-- A signed field extended to 64 bits. -/
def sx {n : Nat} (v : BitVec n) : W64 := v.signExtend 64

def zx {n : Nat} (v : BitVec n) : W64 := v.setWidth 64

/-- Ceiling of a quotient. -/
def cdiv (a b : Nat) : Nat := (a + b - 1) / b

/-- One bit step of the CRC-16 of R450 (polynomial 0x1021, not reflected). -/
def crc16Bit (c : BitVec 16) : BitVec 16 :=
  if c.getLsbD 15 then (c <<< 1) ^^^ 0x1021#16 else c <<< 1

def crc16Byte (c : BitVec 16) (b : Byte) : BitVec 16 :=
  let c0 := c ^^^ (b.setWidth 16 <<< 8)
  crc16Bit (crc16Bit (crc16Bit (crc16Bit (crc16Bit (crc16Bit (crc16Bit (crc16Bit c0)))))))

/-- CRC-16 of a fault record, initial value 0xFFFF (R450). -/
def crc16 (bs : List Byte) : BitVec 16 := bs.foldl crc16Byte 0xFFFF#16

/-- One bit of a reflected CRC with polynomial `p`. -/
def crcBit (p c : W32) : W32 := if c.getLsbD 0 then (c >>> 1) ^^^ p else c >>> 1

def crcByte (p c : W32) (b : Byte) : W32 :=
  let c0 := c ^^^ b.setWidth 32
  crcBit p (crcBit p (crcBit p (crcBit p (crcBit p (crcBit p (crcBit p (crcBit p c0)))))))

def crc32cByte (c : W32) (b : Byte) : W32 := crcByte 0x82F63B78#32 c b

/-- The CRC-32 of IEEE 802.3, a frame's FCS (R294). -/
def crc32 (bs : List Byte) : W32 := ~~~(bs.foldl (crcByte 0xEDB88320#32) 0xFFFFFFFF#32)

/-- CRC-32C of data bytes, containers and the image (R297, R366, R462). -/
def crc32c (bs : List Byte) : W32 := ~~~(bs.foldl crc32cByte 0xFFFFFFFF#32)

/-- Bit k of a mask held as a number. -/
def maskBit (m k : Nat) : Bool := m.testBit k

/-- 64-bit lane i of a 256-bit vector register, lane 0 the least significant (R55). -/
def lane (x : BitVec 256) (i : Nat) : W64 := BitVec.ofNat 64 (x.toNat >>> (64 * i))

end Sys2Proof.Machine
end

