-- ==== Sys2Proof/Config.lean ====
section
/-! DEFINITION. What the spec leaves to the device or to other standards: opaque constants with no body, so that no
statement can rest on a value of theirs. -/

namespace Sys2Proof.Config

/-- MODULE_ID of this module (R405); LOG 3. -/
opaque moduleId : W64

/-- The source address of CH[n] in the identity record (R291, R405); LOG 3. -/
opaque channelAddress : Nat → BitVec 48

/-- The n-th draw of the root of trust's DRBG (R317, R371, R473); LOG 9. -/
opaque draw : Nat → BitVec 64

/-- The n-th 256-bit key drawn inside the key store (R471, R473); LOG 9. -/
opaque keyMaterial : Nat → BitVec 512

/-- The key that wrapped bytes of a KEYS record unwrap to under the fused device transport key (R472); LOG 9. -/
opaque imageKey : List Byte → BitVec 512

/-- The measured bytes of the ROM, of the factory defaults and of the die firmware in ROM (R469); LOG 9. -/
opaque romBytes : Nat → List Byte

/-- The head, of 32,768, of three bytes in the compressor's hash table (R368 gives no hash); LOG 11. -/
opaque hash3 : Byte → Byte → Byte → BitVec 15

/-- The header and body that new dynamic codes give the symbols of a DEFLATE block: (0, byte) for a literal, (length, distance) for a match
(R367 does not fix the codes); LOG 11. -/
opaque dynamicBits : List (Nat × Nat) → List Bool

/-- A value the spec leaves undefined or does not state, fresh for each use of the counter; LOG 9. -/
opaque free : Nat → BitVec 64

/-- The rounding direction, of the five of RM, that a reserved RM value gives in a set that TLOAD has loaded with one (R104, R124); LOG 94. -/
opaque reservedRm : BitVec 3 → Fin 5

/-- Where the shadow state of a task set holds the byte at an offset of a trio dump, as a place among the bytes of the set's words, and
what an offset outside them returns (R144, R405 give no layout); LOG 12. -/
opaque shadowPlace : Nat → Nat
opaque shadowPad : Nat → Byte

/-- What a temperature field shows of a place with no valid sensor, by pip and place; LOG 9. -/
opaque blindReading : Nat → Nat → BitVec 16

/-- Busy time of an engine over the last 1,000 pips, by pip and engine (R384 gives no law for how long a job runs); LOG 53. -/
opaque engineBusy : Nat → Nat → BitVec 16

/-- The saved cipher, digest and decompressor state of a stopped job: descriptor bytes, the input consumed so far,
offset in the record (R371 gives the areas, not their inner layout); LOG 11. -/
opaque resumeState : List Byte → List Byte → Nat → Byte

/-- Set of a line in an array, before the reduction to its number of sets (R159 gives the organisation and no index): 0 L1, 1 L2,
2 L3, 3 directory; LOG 119. -/
opaque cacheSet : Nat → Nat → Nat

/-- The check symbols of the symbol code over a line's 138 data, tag and poison symbols (R195 names a Reed-Solomon code over GF(2^8) and gives
neither its polynomial nor its roots); LOG 132. -/
opaque rsCheck : List (BitVec 8) → Nat → BitVec 8

/-- Hash of a line address that spreads traffic over the links that are up (R220); LOG 120. -/
opaque linkHash : Nat → Nat

end Sys2Proof.Config
end

