-- ==== Sys2Proof/Machine/Table.lean ====
section
/-! DEFINITION. Sparse tables: lists of (key, value) sorted by key. `tget`/`tset` hold the module's arrays of
registers; `cget`/`cset` hold memory in canonical form, where an entry equal to what an unlisted key reads as is removed. -/

namespace Sys2Proof.Machine

/-- The value at a key; an unlisted key reads as `d`. -/
def tget {α : Type} (d : α) : List (Nat × α) → Nat → α
  | [], _ => d
  | (k, v) :: t, n => if n = k then v else if n < k then d else tget d t n

/-- Write a value at a key, keeping the keys rising. -/
def tset {α : Type} : List (Nat × α) → Nat → α → List (Nat × α)
  | [], n, a => [(n, a)]
  | (k, v) :: t, n, a =>
    if n = k then (k, a) :: t
    else if n < k then (n, a) :: (k, v) :: t
    else (k, v) :: tset t n a

/-- The value at a key, if listed. -/
def tfind {α : Type} (t : List (Nat × α)) (n : Nat) : Option α :=
  (t.find? (fun e => e.1 == n)).map (·.2)

/-- Remove a key. -/
def tdel {α : Type} (t : List (Nat × α)) (n : Nat) : List (Nat × α) := t.filter (fun e => e.1 != n)

/-- Change the value at a key. -/
def tmod {α : Type} (d : α) (t : List (Nat × α)) (n : Nat) (f : α → α) : List (Nat × α) := tset t n (f (tget d t n))

/-- Keys strictly rising. -/
def tsorted {α : Type} : List (Nat × α) → Bool
  | [] => true
  | [_] => true
  | a :: b :: t => decide (a.1 < b.1) && tsorted (b :: t)

/-- Insert a non-default value into a canonical list. -/
def cset {α : Type} [DecidableEq α] (d : α) : List (Nat × α) → Nat → α → List (Nat × α)
  | [], n, a => if a = d then [] else [(n, a)]
  | (k, v) :: t, n, a =>
    if n = k then (if a = d then t else (k, a) :: t)
    else if n < k then (if a = d then (k, v) :: t else (n, a) :: (k, v) :: t)
    else (k, v) :: cset d t n a

/-- Canonical form: keys strictly rising and no entry equal to the default. -/
def cwf {α : Type} [DecidableEq α] (d : α) (t : List (Nat × α)) : Bool :=
  tsorted t && t.all (fun e => decide (e.2 ≠ d))

/-- Drop every entry with a key in [lo, hi). -/
def cclear {α : Type} (t : List (Nat × α)) (lo hi : Nat) : List (Nat × α) :=
  t.filter (fun e => decide (e.1 < lo ∨ hi ≤ e.1))

end Sys2Proof.Machine
end

