-- ==== Sys2Proof/Machine/State.lean ====
section
/-! DEFINITION. The state of the module: every register, queue, buffer, counter, mode and pin the spec names, as plain
data, grouped by the subsystem that holds it; the reasons a step can stop; and the state after reset. -/

namespace Sys2Proof.Machine

abbrev Table (α : Type) := List (Nat × α)

/-! ## Logical cores and task sets -/

inductive SetState where
  | empty | ready | running | held
deriving DecidableEq, Repr

/-- TSTAT but for TASKNO, which is the set's own number, and the reserved bits, which read as zero (R115). -/
structure Tstat where
  tallow : W32 := 0#32
  mcpend : Bool := false
  evpend : Bool := false
  pevmask : Bool := false
  evmask : Bool := true
  intrap : Bool := false
  nanmode : Bool := false
  vused : Bool := false
  ppriv : Bool := false
  priv : Bool := false
  state : SetState := .empty
deriving DecidableEq, Repr

/-- FSTAT; PENDING is whether PEND is nonzero (R104). -/
structure Fstat where
  pend : BitVec 5 := 0#5
  rm : BitVec 3 := 0#3
  enable : BitVec 5 := 0#5
  flags : BitVec 5 := 0#5
deriving DecidableEq, Repr

/-- One task set (R112). A general register that is not listed is VOID, a V register that is not listed is zero. -/
structure TaskSet where
  g : Table TWord := []
  v : Table (BitVec 256) := []
  pc : TWord := TWord.void
  tstat : Tstat := {}
  tepc : TWord := TWord.mkRaw 0#64
  tinfo : TWord := TWord.mkRaw 0#64
  tcause : W64 := 0#64
  fstat : Fstat := {}
  fepc : TWord := TWord.mkRaw 0#64
  tvec : TWord := TWord.void
  /-- the vector number staged in the set (R420) -/
  staged : Option Nat := none
  /-- instructions retired from the one that wrote FEPC on, that one counted (R106) -/
  fpAge : Nat := 0
deriving DecidableEq, Repr

/-- An atomic operation that has passed the voter and waits: its word, its operands and where it executes (R139, R180). -/
structure AmoWait where
  pa : Nat
  args : AmoArgs
  near : Bool
deriving DecidableEq, Repr

/-- An entry of a trio's replay buffer (R139). -/
structure Replay where
  set : Nat
  rd : Reg
  value : TWord
  /-- a VLD's 256 bits, for V[rd] instead of G[rd] -/
  vec : Option (BitVec 256) := none
  /-- the response has reached the trio and waits for resumption -/
  arrived : Bool
  /-- the instruction's program counter and effective address -/
  pc : W64 := 0#64
  va : W64 := 0#64
  amo : Option AmoWait := none
  /-- what the home's AmoRsp says of its checks -/
  status : AmoStatus := .ok
  /-- the response is ISOLATED (R234) -/
  isolated : Bool := false
  /-- the I/O die of a device-window load, where the spec places the register on one, and the pip of the load (R232) -/
  die : Option Nat := none
  since : Nat := 0
deriving DecidableEq, Repr

structure LCore where
  sets : Table TaskSet := []
  /-- number of the RUNNING set (R113) -/
  cur : Nat := 0
  /-- the partition start of R335 has been made -/
  started : Bool := false
  /-- stopped by a double trap (R130) -/
  stopped : Bool := false
  /-- held by the husk (R238, R336, R494) -/
  held : Bool := false
  /-- FAILED (R144, R155) -/
  failed : Bool := false
  twin : W64 := 0#64
  vroot : TWord := TWord.mkRaw 0#64
  /-- an access that waits for its line to become stable (R172), with the instruction that makes it -/
  wait : Option (Nat × Instr) := none
  /-- the answer to the request that the waiting access sent: a maintenance Cmp, or with `true` ISOLATED -/
  reply : Option Bool := none
  replay : Option Replay := none
  /-- the distributor's queue of pending vector numbers of each set (R420) -/
  evq : Table (List Nat) := []
  /-- instructions retired, the model's measure of the advance of the retire point (R137) -/
  retired : Nat := 0
  /-- value of `retired` at a split core's last rollback, while it forbids another (R155) -/
  splitRetryAt : Option Nat := none
  /-- pip 0 of a core checkstop (R155) -/
  ckPip0 : Option Nat := none
  /-- SUBCAUSE of the MACHINE_CHECK pending in the core's sets (R158) -/
  mcCause : Nat := 0
deriving DecidableEq, Repr

/-! ## Trios -/

inductive TrioState where
  | absent | voted | resync | integrate | duplex | checkstop | failed | split | unpowered
deriving DecidableEq, Repr

/-- What CORE_A, CORE_B or CORE_C shows (R157): a core, 0xFF none, 0xFE lost. -/
inductive CoreSlot where
  | core (n : Nat) | none | lost
deriving DecidableEq, Repr

structure Member where
  core : CoreSlot := .none
  lockstep : Bool := false
  /-- the pip of the last lockstep entry after a rebuild (R150) -/
  entryPip : Option Nat := none
  /-- a retirement is deferred until the third position is back (R145) -/
  deferred : Bool := false
deriving DecidableEq, Repr

/-- A rebuild (R146): a resync of the member, or the integration of a spare. -/
structure Rebuild where
  pos : Nat
  integrate : Bool
  spare : Option Nat := none
  pip0 : Nat
  /-- order of the pip-0 stamps (R149) -/
  stamp0 : Nat
  /-- pip in which step 1 ran; none while the rebuild waits (R149) -/
  started : Option Nat := none
  /-- pips of the step table done -/
  donePips : Nat := 0
  mismatches : Nat := 0
  /-- the step of the next pip repeats the one in progress (R42, R150) -/
  repeatStep : Bool := false
deriving DecidableEq, Repr

structure Trio where
  state : TrioState := .unpowered
  /-- has been DUPLEX since the boot; this clears only at the next (R480) -/
  duplexed : Bool := false
  splitBoot : Bool := false
  a : Member := {}
  b : Member := {}
  c : Member := {}
  /-- `retired` of the trio's logical core at its last rollback (R140, R141) -/
  retryAt : Option Nat := none
  ckPip0 : Option Nat := none
  /-- positions that take part in the checkstop recovery, and those that failed its array check (R142, R150) -/
  ckMembers : List Nat := []
  ckFailed : List Nat := []
  ckLastPip : Nat := 0
  agreeAB : Bool := true
  agreeBC : Bool := true
  agreeAC : Bool := true
  rebuilds : List Rebuild := []
  dissentCount : Nat := 0
  retryCount : Nat := 0
  ckCount : Nat := 0
  idlePips : Nat := 0
  parked : Bool := false
  /-- F[n], CEIL[n], LIM[n] in MHz (R485) -/
  f : Nat := 4800
  ceil : Nat := 4800
  lim : Nat := 4800
  /-- the clock and the voltage committed, the voltage as the frequency it suits in MHz (R486) -/
  clk : Nat := 4800
  volt : Nat := 4800
deriving DecidableEq, Repr

inductive CoreStat where
  | assigned | pool | retired | excluded | absent
deriving DecidableEq, Repr

/-- The clock of a physical core as its selector gives it: the domain of a trio, or with none its own (R38). -/
structure CoreClk where
  dom : Option Nat := none
  on : Bool := true
deriving DecidableEq, Repr

/-- The clocks of the cores: the own domains of SPARE[0]-SPARE[15], in MHz, and the selectors that differ from their place at the boot
(R37, R38). -/
structure Clocks where
  spare : Table Nat := []
  sel : Table CoreClk := []
deriving DecidableEq, Repr

/-! ## Caches and coherence -/

/-- The stable L2 states that hold a copy (R171). -/
inductive L2Stable where
  | s | f | e | m
deriving DecidableEq, Repr

inductive L2St where
  | i
  | st (x : L2Stable)
  | isD
  | imD
  | smG (fromF : Bool)
  | xiA (x : L2Stable)
  | xiN
  | xiW (x : L2Stable)
deriving DecidableEq, Repr

structure L2Line where
  st : L2St := .i
  data : Line := Line.zero
  /-- the outstanding request of IM_D or SM_G carries ZERO (R187) -/
  zero : Bool := false
deriving DecidableEq, Repr

inductive HStable where
  | i
  | s (sharers : List Nat) (f : Option Nat)
  | em (owner : Nat)
deriving DecidableEq, Repr

/-- A request as its request slot holds it (R169). -/
inductive HomeReq where
  | rdShared (a : Nat) (nc : Bool)
  | rdOwn (a : Nat) (zero : Bool)
  | upgrade (a : Nat) (zero : Bool)
  | maint (a : Nat) (m : Maint)
  | wrLine (d : Nat) (bytes : List Byte) (mask : BitVec 128) (alloc : Bool)
  | amo (a : Nat) (pa : Nat) (x : AmoArgs)
  /-- a victim take of the home itself (R164) -/
  | victim
deriving DecidableEq, Repr

/-- A request that its agent has injected, or holds until it has a credit (R226). -/
structure OutReq where
  agent : Nat
  line : Nat
  r : HomeReq
  /-- on VC2, from an express channel (R223) -/
  express : Bool := false
  /-- an instruction of the agent's core waits for it -/
  core : Bool := false
  /-- an AmoReq placed by the predictor, whose CONT moves the counter (R182) -/
  learn : Bool := false
  /-- sent by a row of the table, whose messages arrive by rows of their own -/
  row : Bool := false
  /-- pip in which it was injected (R232) -/
  since : Nat := 0
deriving DecidableEq, Repr

inductive HomeSt where
  | st (x : HStable)
  /-- awaits the requester's Cmp -/
  | bC (req : Nat) (next : HStable)
  /-- awaits a forwarder's reply and, unless NC, the requester's Cmp; the next state omits the agents of `gone` -/
  | bFC (fwd : Nat) (fwdDone reqDone : Bool) (r : HomeReq) (base : HStable) (gone : List Nat)
  /-- awaits the requester's Cmp after FwdOwn -/
  | bOC (owner : Nat) (req : Nat)
  /-- awaits InvalAcks of the targets -/
  | bA (targets : List Nat) (r : HomeReq) (upg : Bool)
  /-- awaits a recalled owner -/
  | bR (owner : Nat) (r : HomeReq)
deriving DecidableEq, Repr

structure Home where
  st : HomeSt := .st .i
  queue : List HomeReq := []
  /-- the line's copy in L3, and whether it is newer than memory (R164) -/
  l3 : Option Line := none
  l3Dirty : Bool := false
deriving DecidableEq, Repr

/-- The messages of R167, as the commands of the table deliver them. -/
inductive MsgKind where
  | rdShared | rdOwn | upgrade | amoReq | wrLine | wbDirty | wbClean | evictNote | fwdShared | fwdOwn | inval
  | invalAck | data | dataExcl | cmp | nack | amoRsp | dataAtHome | cmpAtHome
deriving DecidableEq, Repr

/-- A message in flight: its kind, the agent that sends it to a home or receives it, its line and what it carries. -/
structure CohMsg where
  kind : MsgKind
  agent : Nat
  line : Nat
  data : Line := []
  req : Nat := 0
  variant : FwdVariant := .plain
  old : TWord := TWord.mkRaw 0#64
  status : AmoStatus := .ok
  cont : Bool := false
  /-- a reply matched to its request and not to the line's state (R174) -/
  toRequest : Bool := false
  /-- the agent that sends it to another agent; none: the home -/
  src : Option Nat := none
  /-- pip in which it was sent (R232) -/
  since : Nat := 0
deriving DecidableEq, Repr

structure Coh where
  /-- L2 lines, by agent * 2^45 + line number -/
  l2 : Table L2Line := []
  /-- homes, by line number -/
  homes : Table Home := []
  net : List CohMsg := []
  /-- requests injected and not yet finally answered, each with its credit, and requests that wait for one (R166, R226) -/
  out : List OutReq := []
  held : List OutReq := []
  /-- placement predictor counters, by agent * 4096 + index (R182) -/
  pred : Table Nat := []
  /-- valid lines of the data and instruction L1 of each physical core (R159, R160) -/
  l1d : Table (List Nat) := []
  l1i : Table (List Nat) := []
  /-- corrected array errors (R165): of each L3 slice, of each agent's L2, of each directory slice -/
  l3Ce : Table Nat := []
  l2Ce : Table Nat := []
  dirCe : Table Nat := []
deriving DecidableEq, Repr

/-! ## Memory -/

/-- Main memory by physical address (HBM and CXL): bytes by address, tags and poison by address / 8. -/
structure Mem where
  bytes : List Host.Cell := []
  tags : List (Nat × Tag) := []
  poison : List (Nat × Bool) := []
deriving DecidableEq, Repr

inductive StackState where
  | active | selfRefresh | throttled | fenced | unpowered
deriving DecidableEq, Repr

structure Stack where
  state : StackState := .unpowered
  ceCount : Nat := 0
  ueCount : Nat := 0
  bwPct : Nat := 0
  pendingWeight : Option Nat := none
  weight : Nat := 8
  slow : Bool := false
  slowPips : Nat := 0
  slowNow : Bool := false
  idlePips : Nat := 0
  passCount : Nat := 0
  patrolGroup : Nat := 0
  patrolNext : Nat := 0
  demandProgress : Nat := 0
  demandActive : Bool := false
  droppedWrites : Nat := 0
  limited : Bool := false
deriving DecidableEq, Repr

structure CxlPort where
  capacity : Option Nat := none
  lost : Bool := false
  droppedWb : Nat := 0
deriving DecidableEq, Repr

/-! ## Network -/

structure LinkSt where
  up : Bool := true
  /-- resends of each flit in this pip (R219) -/
  resends : List (Nat × Nat) := []
  resendPip : Nat := 0
  /-- last pip of the retraining in progress (R219) -/
  retrainBy : Option Nat := none
  /-- a failed training keeps the link down until a rejoin -/
  downForRejoin : Bool := false
deriving DecidableEq, Repr

structure Hull where
  dropped : Nat := 0
  isoCount : Nat := 0
  late : Nat := 0
  cause : BitVec 2 := 0#2
  ever : Bool := false
  active : Bool := false
deriving DecidableEq, Repr

inductive Wake where
  | awake
  | asleep
  | waking (since : Nat) (packets : Nat)
deriving DecidableEq, Repr

structure Net where
  /-- links: 0-3 half-to-half, 4 + 4d + 2h + e I/O-to-half, 20-21 mirror -/
  links : Table LinkSt := []
  hulls : Table Hull := []
  /-- targets declared dead and not yet behind a hull, with the cause and the pip of the declaration -/
  dead : List (Nat × BitVec 2 × Nat) := []
  /-- sleeping domains: engine e is e, stack j is 32 + j, trio t is 64 + t -/
  domains : Table Wake := []
  /-- pip in which the last half-to-half link went down (R237) -/
  lastLinkDown : Option Nat := none
  lastRetrain : Nat := 0
  /-- lost dies, fenced halves and die self-stops: H0, H1, IO0-IO3 -/
  lost : Table Bool := []
  lostPip : Table Nat := []
  /-- pip of the last renewal that reached each die (R240, R390) -/
  renewSeen : Table Nat := []
  /-- what the management links reached at the last pip edge: H0, H1, IO0-IO3, and the halves seen healthy over them (R16, R237, R240) -/
  mgmt : BitVec 6 := 0x3F#6
  healthy : BitVec 2 := 3#2
  d2dDegraded : Bool := false
deriving DecidableEq, Repr

/-! ## Channels and path groups -/

inductive PathState where
  | noGroup | down | probing | live | lost
deriving DecidableEq, Repr

/-- A frame the module has sent and not seen acknowledged (R298-R301), or has just put on the wire. -/
structure TxFrame where
  ftype : Nat
  seq : Nat
  sequenced : Bool
  tag : W64
  body : List Byte
  last : Bool := false
  retx : Bool := false
  epoch : Nat := 0
  ackSeq : Nat := 0
  counter : Nat := 0
  /-- outer parts: addresses, 802.1Q tag (VID, priority), EtherType; the path's index; ENC and the key epoch (R290-R295, R325) -/
  dst : BitVec 48 := 0#48
  src : BitVec 48 := 0#48
  vlan : Option (Nat × Nat) := none
  etherType : Nat := 0
  path : Nat := 0
  enc : Bool := false
  keyEpoch : Nat := 0
deriving DecidableEq, Repr

structure Chan where
  slots : Nat := 4
  weight : Nat := 16
  window : Nat := 1024
  vlan : Option (Nat × Nat) := none
  medium : Nat := 1
  autoNeg : Option Bool := none
  precoding : Nat := 2
  pcs : Bool := false
  group : Option Nat := none
  pathIndex : Nat := 0
  state : PathState := .noGroup
  epoch : Nat := 0
  peer : Option (BitVec 48) := none
  /-- next sequence number to send, next expected, oldest unacknowledged -/
  txSeq : Nat := 0
  rxSeq : Nat := 0
  unacked : List TxFrame := []
  /-- sequenced frames that wait for room in the window, oldest first (R277, R300) -/
  queued : List TxFrame := []
  oldestSince : Nat := 0
  rtoCount : Nat := 0
  nakFor : Option Nat := none
  nakPip : Nat := 0
  lastValid : Nat := 0
  hellos : Nat := 0
  helloSent : Option Nat := none
  lastHello : Option Nat := none
  peerHelloRx : Nat := 10
  seenPip : Option Nat := none
  peerIndex : Nat := 0
  peerWindow : Nat := 16
  peerMaxData : Nat := 2048
  peerMaxOpen : Nat := 1
  peerRetain : Nat := 0
  peerStamp : Nat := 0
  peerStampAt : Nat := 0
  rtt : Nat := 0
  nextReady : Bool := false
  avg : Option Nat := none
  lastComplete : Option Nat := none
  slowEdges : Nat := 0
  fastEdges : Nat := 0
  demoted : Bool := false
  cur : Int := 0
  slotsLeft : Nat := 4
  retxCount : Nat := 0
  authFail : Nat := 0
  authFailPip : Nat := 0
  authFailNow : Nat := 0
  lossCount : Nat := 0
  lossReason : Nat := 0
  discards : Nat := 0
  frameCounter : Nat := 1
  /-- frames put on the wire, newest first -/
  wire : List TxFrame := []
  /-- PATH-GONE still to be sent on the other paths: pips left, index, reason -/
  goneLeft : Nat := 0
  goneReason : Nat := 0
  goneSeq : Nat := 0
deriving DecidableEq, Repr

structure Rekey where
  since : Nat
  nextEpoch : Nat
deriving DecidableEq, Repr

structure ResumeQ where
  opKey : Nat
  queryId : Nat
  tags : List W64
  since : Nat
  incarnation : Nat
  sent : Bool
  /-- the channel that carries it -/
  path : Nat := 0
deriving DecidableEq, Repr

structure Group where
  opened : Bool := false
  closing : Bool := false
  chans : List Nat := []
  remote : W64 := 0#64
  mask : BitVec 16 := 0#16
  singleDie : Bool := false
  isProtected : Bool := false
  dPips : Nat := 20
  exchTimeout : Nat := 1000000
  noPathWait : Nat := 1000000
  attemptMax : Nat := 7
  maxData : Nat := 2048
  rto : Nat := 4
  retxMax : Nat := 8
  /-- SLOW_FACTOR in quarters -/
  slowFactor : Nat := 8
  slowPips : Nat := 100
  demoteDiv : Nat := 8
  key : Option Nat := none
  /-- the LINK key read when the group opened (R475) -/
  keyValue : Option (BitVec 512) := none
  rekeyInterval : Nat := 3600000000
  keyEpoch : Nat := 0
  keyPip : Nat := 0
  rekey : Option Rekey := none
  rekeyRetry : Option Nat := none
  oldEpoch : Option Nat := none
  oldSince : Option Nat := none
  lateDiscards : Nat := 0
  staleDiscards : Nat := 0
  abortUnconfirmed : Nat := 0
  farIncarnation : Option Nat := none
  noPathSince : Option Nat := none
  usedEpochs : List (Nat × Nat) := []
  query : Option ResumeQ := none
deriving DecidableEq, Repr

/-! ## Ring pairs and exchanges -/

/-- A watermark's status (R286). -/
structure Wm where
  crossings : Nat := 0
  hit : Bool := false
  peak : Nat := 0
deriving DecidableEq, Repr

structure Ring where
  active : Bool := false
  express : Bool := false
  serve : Nat := 0
  sqBase : Nat := 0
  cqBase : Nat := 0
  sqK : Nat := 6
  cqK : Nat := 6
  source : Nat := 0
  sqTail : W32 := 0#32
  cqHead : W32 := 0#32
  sqHead : W32 := 0#32
  cqTail : W32 := 0#32
  tableStalls : Nat := 0
  cqStalls : Nat := 0
  pairLost : Bool := false
  cqLost : Bool := false
  fetchError : Bool := false
  dbError : Bool := false
  sqWm : Nat := 0
  cqWm : Nat := 0
  sqWmSt : Wm := {}
  cqWmSt : Wm := {}
  /-- fetch waits for the next SQ_TAIL write (R254, R277, R478) -/
  fetchStopped : Bool := false
  tearing : Bool := false
  completionPip : Option Nat := none
  /-- last pips counted in TABLE_STALLS and in CQ_STALLS (R251) -/
  stallPip : Option Nat := none
  cqStallPip : Option Nat := none
deriving DecidableEq, Repr

inductive ExSt where
  | fetched | allocated | mirrored | accepted | inFlight | awaitAck | data | remoteComplete | logged | composed | posted | retired
deriving DecidableEq, Repr

structure AbortSt where
  cause : Nat
  sends : Nat
  since : Nat
deriving DecidableEq, Repr

/-- The result of a local decision or of a COMPLETE: record status and detail (R265). -/
structure ExRes where
  code : Nat
  detail : Nat
  bytes : Nat := 0
  synth : Bool := false
deriving DecidableEq, Repr

structure Exch where
  id : ExId
  part : Nat
  gen : Nat
  seqNo : Nat
  attempt : Nat := 0
  opcode : Nat
  flags : Nat
  group : Nat
  length : Nat
  sgl : Nat
  sglCount : Nat
  pin : Option Nat := none
  timeout : Nat
  remote : W64
  arg : W64
  dpReq : Nat := 0
  cookie : W64
  owner : Nat
  st : ExSt := .fetched
  path : Option Nat := none
  /-- order of acceptance (R270, R274) -/
  order : Nat := 0
  res : Option ExRes := none
  abort : Option AbortSt := none
  /-- the CANCEL that holds this exchange (R280) -/
  cancelledBy : Option ExId := none
  /-- for a CANCEL: its target -/
  target : Option ExId := none
  chainHead : Option ExId := none
  chainPos : Nat := 0
  sentOff : Nat := 0
  lastSent : Bool := false
  rcvd : Nat := 0
  gotLast : Bool := false
  ackNew : Bool := false
  ackDone : Bool := false
  frameSent : Bool := false
  takenOver : Bool := false
  redriven : Bool := false
  terminating : Bool := false
  lastCh : Option Nat := none
  count : Option W32 := none
  record : List Byte := []
  openStamp : Nat := 0
  openPip : Option Nat := none
  waitSince : Option Nat := none
  /-- buffers of the SGL: IOVA and length (R258) -/
  bufs : List (Nat × Nat) := []
  wireLen : Nat := 0
  /-- data of an inline job: a READ's as received, before the engine, or a WRITE's as the engine gives it (R376) -/
  rxData : List Byte := []
  staged : Option Nat := none
  /-- detail of a data-path error found while in flight -/
  dpErr : Option Nat := none
  dataFault : Option ExRes := none
deriving DecidableEq, Repr

/-! ## Partitions, slices and translation -/

inductive PartState where
  | stopped | running | quiesced | held | resetting
deriving DecidableEq, Repr

structure PartE where
  defined : Bool := false
  state : PartState := .stopped
  ranges : Table (Nat × Nat) := []
  lcores : BitVec 128 := 0#128
  homeHalf : Nat := 0
  start : W64 := 0#64
  autostart : Bool := false
  dropped : Nat := 0
  /-- spanning and waiting for its evaluation in M7 (R238) -/
  evaluate : Bool := false
  /-- the husk is to stop the partition (R144) -/
  stopWanted : Bool := false
  /-- a partition reset in progress ends in this state -/
  after : PartState := .stopped
deriving DecidableEq, Repr

inductive SliceState where
  | free | active | held | resetting
deriving DecidableEq, Repr

structure SliceE where
  state : SliceState := .free
  part : Nat := 0
  pid : Nat := 0
  root : Nat := 0
  cxl : Bool := false
  gen : Nat := 0
  faultCount : Nat := 0
  lastFault : Nat := 0
  logOutside : Bool := false
  logOn : Bool := false
  logBuffer : Bool := false
  logIova : Nat := 0
  logPages : Nat := 0
  buf0 : Nat := 0
  buf1 : Nat := 0
deriving DecidableEq, Repr

/-- A cached leaf (R342). -/
structure Leaf where
  slice : Nat
  page : Nat
  shift : Nat
  pa : Nat
  r : Bool
  w : Bool
deriving DecidableEq, Repr

structure InvSlot where
  iova : W64 := 0#64
  pages : W64 := 0#64
  sliceNo : W64 := 0#64
  stamp : W64 := 0#64
  error : Nat := 0
  event : Bool := false
  err : Bool := false
  done : Bool := false
  busy : Bool := false
  goPip : Nat := 0
deriving DecidableEq, Repr

/-! ## Engines -/

inductive EngState where
  | active | sleep | waking | fenced | unpowered
deriving DecidableEq, Repr

structure Eng where
  state : EngState := .unpowered
  /-- input processed, in bytes -/
  bytesIn : Nat := 0
  errors : Nat := 0
  inlineOnly : Bool := false
  maySleep : Bool := true
  /-- pip in which its last job started or ended (R384) -/
  lastBusy : Option Nat := none
  limited : Bool := false
deriving DecidableEq, Repr

structure EqQueue where
  active : Bool := false
  serve : Nat := 0
  base : Nat := 0
  k : Nat := 4
  source : Nat := 0
  eqTail : W32 := 0#32
  eqHead : W32 := 0#32
  statusLost : Bool := false
  pairLost : Bool := false
  fetchError : Bool := false
  dbError : Bool := false
  wm : Nat := 0
  wmSt : Wm := {}
  fetchStopped : Bool := false
  tearing : Bool := false
  donePip : Option Nat := none
deriving DecidableEq, Repr

/-- `ended`: the job's output is written, its final status word is not (R362). -/
inductive JobSt where
  | fetched | accepted | running | ended
deriving DecidableEq, Repr

/-- A key of the key store (R471). -/
structure KeyE where
  kind : Nat
  dirs : Nat
  mask : BitVec 16
  value : BitVec 512
  inst : W32
  stored : Bool
  /-- next reservation and IVs drawn of it in this boot (R474) -/
  reserved : Nat := 0
  drawn : Nat := 0
  /-- stored before a boot from the factory defaults, and so usable by no partition in it (R466) -/
  barred : Bool := false
deriving DecidableEq, Repr

structure Job where
  id : JobId
  part : Nat
  gen : Nat
  desc : List Byte
  die : Nat
  engine : Option Nat := none
  st : JobSt := .fetched
  progress : Nat := 0
  rerun : Bool := false
  /-- pip in which it went to its engine (R232) -/
  since : Nat := 0
  /-- the key that the job has read: a job finishes with it though it is destroyed meanwhile (R475) -/
  key : Option KeyE := none
  /-- the IV drawn for it (R374) -/
  iv : Option (List Byte) := none
  /-- read at its start: output bytes of the earlier parts, the expected tag, and the error that it found (R372, R374) -/
  prev : Nat := 0
  expTag : List Byte := []
  early : Option Nat := none
  /-- its resume record was taken: a rerun starts from the same record (R381) -/
  resumed : Bool := false
  /-- of a job that has ended: the pieces of its result area and its final status word, which wait for the Cmps of its output (R362) -/
  result : List (Nat × List Byte) := []
  word : Nat := 0
deriving DecidableEq, Repr

/-! ## Husks and commands -/

inductive HuskStat where
  | idle | holder | ready | selfTest | rejoin | out
deriving DecidableEq, Repr

structure Husk where
  stat : HuskStat := .idle
  /-- hardware refuses this husk's writes (R388) -/
  refused : Bool := false
  /-- failures of R388 and losses of R389 since boot -/
  failures : Nat := 0
  testSince : Nat := 0
  copySince : Option Nat := none
  /-- pips in a row in which the standby's checksum has matched -/
  matchPips : Nat := 0
deriving DecidableEq, Repr

structure Seed where
  lastRenew : Nat := 0
  /-- pip from which the next renewal is due -/
  due : Nat := 0
  epoch : Nat := 0
  failsA : Nat := 0
  failsB : Nat := 0
  lastChange : Nat := 0
  released : Bool := false
  holder : Nat := 0
deriving DecidableEq, Repr

/-- A queued request with its opcode. -/
structure QReq where
  opcode : Nat
  q : Request
deriving DecidableEq, Repr

/-- The kept reply of one sender identity (R403). -/
structure Kept where
  opcode : Nat
  seq : Nat
  nonce : Nat
  flags : Nat
  status : Nat
  progress : Nat := 0
  resultLength : Nat := 0
  result : List Byte := []
  /-- pip at whose edge the reply becomes readable -/
  readyAt : Nat
  /-- the effects and this record are with the standby, or need not be (R395) -/
  copied : Bool := false
deriving DecidableEq, Repr

inductive LongKind where
  | partStop (p : Nat)
  | partRestart (p : Nat)
  | rangeAdd (p base size : Nat)
  | sliceReset (s : Nat)
  | logSwitch (s : Nat) (stop : Bool)
  | pgClose (g : Nat)
  | ringTeardown (s r : Nat)
  | engqTeardown (s r : Nat)
  | engqAbort (s r : Nat)
  | resumeQuery (g : Nat)
  | park
  | unpark
  | quiesce (mask : Nat)
  | quiesceEnd (mask : Nat)
  | scrub (base length : Nat)
  | unitRejoin (u : Nat)
  | rekey (g : Nat)
deriving DecidableEq, Repr

/-- A long operation, open or kept (R401, R402). -/
structure LongOp where
  key : Nat
  opcode : Nat
  source : Nat
  addr : Nat
  seq : Nat
  nonce : Nat
  kind : LongKind
  progress : Nat := 0
  done : Bool := false
  status : Nat := 0
  result : List Byte := []
  since : Nat := 0
deriving DecidableEq, Repr

structure PrivEntry where
  stamp : W64
  sender : List Byte
  opcode : Nat
  reason : Nat
deriving DecidableEq, Repr

/-- The command mailbox of a partition (R435, R436). -/
structure CmdMbx where
  area : List Byte := List.replicate 64 0#8
  goLost : Bool := false
  queued : Option QReq := none
deriving DecidableEq, Repr

structure MBus where
  i3c : Option Nat := none
  failed : Bool := false
  recovering : Bool := false
  queue : List QReq := []
  /-- the 64 bytes last read on the bus -/
  readOut : List Byte := []
deriving DecidableEq, Repr

structure Husks where
  seed : Seed := {}
  a : Husk := {}
  b : Husk := {}
  mbA : MBus := {}
  mbB : MBus := {}
  mailboxes : Table CmdMbx := []
  kept : Table Kept := []
  /-- the reply to the last request taken from each sender identity, as a read returns it (R400) -/
  shown : Table Kept := []
  longOps : List LongOp := []
  ignored : Nat := 0
  privLog : List PrivEntry := []
  lastSwap : Option W64 := none
  /-- SWAP executed in this pip: the request it answers (R392) -/
  swapReq : Option QReq := none
  /-- mirrored data has changed since the last copy (R394) -/
  mirrorDirty : Bool := false
  /-- class action HUSK waiting for a holder (R391, R443): point, detail, stamp -/
  actions : List (Nat × Half × W64) := []
  /-- writes discarded from the husk that does not hold the seed (R385) -/
  discarded : Nat := 0
  opCount : Nat := 0
deriving DecidableEq, Repr

/-! ## Events and mailboxes -/

structure EvSource where
  pending : W32 := 0#32
  undeliv : Bool := false
  on : Bool := false
  vector : Nat := 0
  task : Nat := 0
  lcore : Nat := 0
  enable : W32 := 0xFFFFFFFF#32
  /-- stamp of the last raise that set a cause (R45, R418) -/
  stamp : W64 := 0#64
  /-- an enabled cause has gone from 0 to 1 since the last delivery, in this pip (R418) -/
  due : Option Nat := none
  /-- pip of the last delivery -/
  delivered : Option Nat := none
deriving DecidableEq, Repr

structure Notice where
  stamp : W64
  cause : Nat
  object : Nat
deriving DecidableEq, Repr

structure NoticeLog where
  entries : Table Notice := []
  count : W32 := 0#32
deriving DecidableEq, Repr

/-- Who sent a message (R430). -/
structure Sender where
  husk : Bool := false
  priv : Bool := false
  task : Nat := 0
  lcore : Nat := 0
  part : Nat := 0
deriving DecidableEq, Repr

structure Mailbox where
  msg : List Byte := List.replicate 64 0#8
  sender : Sender := {}
  stamp : W64 := 0#64
  seq : W32 := 0#32
  collisions : Nat := 0
  collision : Bool := false
  full : Bool := false
  db : W32 := 0#32
  dbMask : W32 := 0xFFFFFFFF#32
  /-- resets of the sender's partition seen when the message was sent (R433) -/
  sentEpoch : Nat := 0
deriving DecidableEq, Repr

structure Send where
  stamp : W64
  pip : Nat
  mbx : Nat
  nomsg : Bool
  db : W32
  msg : List Byte
  sender : Sender
  sentEpoch : Nat
deriving DecidableEq, Repr

structure SendBlock where
  stage : List Byte := List.replicate 64 0#8
  abortCount : Nat := 0
  abortMbx : Nat := 0
  rejected : Bool := false
  aborted : Bool := false
deriving DecidableEq, Repr

structure Events where
  sources : Table EvSource := []
  notices : Table NoticeLog := []
  mailboxes : Table Mailbox := []
  sendQ : List Send := []
  /-- send blocks by logical core * 32 + task set -/
  blocks : Table SendBlock := []
  /-- resets of each partition -/
  resets : Table Nat := []
  /-- entries of the husk's log of its own aborted messages (R433): mailbox numbers -/
  huskLog : List Nat := []
deriving DecidableEq, Repr

/-! ## Fault collector -/

structure FEvent where
  stamp : W64
  point : Nat
  detail : Half
  rep : Nat := 0
deriving DecidableEq, Repr

structure ClassCfg where
  n : Nat
  w : Nat
deriving DecidableEq, Repr

structure FRecord where
  sealStamp : W64
  cls : Nat
  action : Nat
  point : Nat
  detail : Half
  count : Nat
  mode : Nat
  w : Nat
  last : W64
  close : W64
deriving DecidableEq, Repr

structure Faults where
  /-- events that arrived since the last close (R439, R441) -/
  inbox : List FEvent := []
  /-- point and pip of the events of the last closes, of which a late occurrence changes nothing (R448) -/
  taken : List (Nat × Nat) := []
  /-- stored events of each count, by class * 4096 + (1 + point, or 0 under scope CLASS) -/
  counts : Table (List FEvent) := []
  /-- N and W that differ from the Noryth default table, by class (R445) -/
  classes : Table ClassCfg := []
  /-- values set in this pip, in force after the next close (R446) -/
  newClasses : List (Nat × ClassCfg) := []
  history : List FEvent := []
  waiting : List FRecord := []
  /-- written records by INDEX mod 4096: 48 bytes -/
  log : Table (List Byte) := []
  head : W32 := 0#32
  /-- records ever written since standby power came up, up to 4,096 -/
  kept : Nat := 0
  overflow : Nat := 0
  selfOk : Bool := true
  safeCause : W64 := 0#64
  /-- records written in the current pip (R451) -/
  wrotePip : Nat := 0
  wrote : Nat := 0
  huskNone : Bool := false
deriving DecidableEq, Repr

/-! ## Image, boot and keys -/

structure Boot where
  result0 : Nat := 0
  result1 : Nat := 0
  version0 : Nat := 0
  version1 : Nat := 0
  /-- 0, 1 or 0xFF (R476) -/
  used : Nat := 0xFF
  defaulted : Bool := false
  version : Nat := 0
  /-- configuration entries in force that differ from their defaults, by entry number (R467) -/
  entries : Table (List Byte) := []
  payloads : List (Nat × List Byte) := []
  dieFw : List Byte := []
  svn : Nat := 0
  revoke : BitVec 4 := 0#4
  advance : Bool := false
  imageSvn : Nat := 0
  svnFused : Nat := 0
  revoked : BitVec 4 := 0#4
  meas : Table (List Byte) := []
  /-- stages recorded (R469) -/
  stages : Nat := 0
  locked : Bool := false
  keys : Table KeyE := []
  /-- IV reservations used by keys that are not installed now: engine-instance value, key and the next reservation (R474) -/
  ivKept : List (W32 × BitVec 512 × Nat) := []
  /-- entries ignored or trimmed whose CONFIG_INFO is still to be reported, one in a pip (R8, LOG 45) -/
  infos : List Nat := []
  spiDriven : Bool := false
deriving DecidableEq, Repr

/-! ## Modes, power and thermal -/

/-- Outputs committed in a pip, in effect from the next edge (R41): F of the trios that are stepped, the cap, the cooling demand. -/
structure Armed where
  clocks : Table Nat := []
  cap : Nat
  pump : Nat
  fan : Nat
deriving DecidableEq, Repr

structure Power where
  cap : Nat := 2500
  newCap : Option Nat := none
  vinA : Nat := 0
  vinB : Nat := 0
  standby : Nat := 0
  ivrLoss : Nat := 0
  /-- P of the last 1,000 pips, newest first -/
  hist : List Nat := []
  /-- readings latched by the snapshot, in eighths of a degree (R40, R484) -/
  sensors : Table Int := []
  prev : Table Int := []
  invalid : List Nat := []
  /-- measures of R485 in force: 0 none, 1 engines, 2 stacks, 3 CAP_UNMET -/
  measure : Nat := 0
  lowPips : Nat := 0
  throttle : Bool := false
  throttled : List Nat := []
  capUnmet : Bool := false
  belowZero : Bool := false
  pump : Nat := 100
  fan : Nat := 100
  warmPips : Nat := 0
  /-- F[n] decided in this pip's loop and waiting for the commit (R41) -/
  staged : Table Nat := []
  /-- what the commit of this pip has armed for the next edge (R40, R41) -/
  armed : Option Armed := none
  /-- VIN_A, VIN_B and standby power of the snapshot before (R42) -/
  prevIn : Nat × Nat × Nat := (0, 0, 0)
deriving DecidableEq, Repr

/-- The conditions that place the mode in the order of R26. -/
structure ModeS where
  /-- 0-11; the mode of MODE_STATUS -/
  mode : Nat := 1
  prev : Nat := 0
  entryPip : Nat := 0
  safeReason : Nat := 0
  /-- standing conditions of R26 and R479 -/
  split : Bool := false
  parkCond : Bool := false
  parkReq : Bool := false
  /-- an UNPARK has been taken -/
  unparkReq : Bool := false
  /-- partitions of a QUIESCE taken in this pip (R489), and of a QUIESCE_END -/
  quiesceReq : BitVec 16 := 0#16
  quiesceEndReq : BitVec 16 := 0#16
  /-- units in rejoin: 0-1 halves, 2-5 I/O dies, 6-7 husks, 8 the halves after M7 -/
  rejoining : List Nat := []
  /-- free HBM of each half, counted at the commit of M7 (R239) -/
  m7Free : Nat × Nat := (0, 0)
  /-- how far the boot has come: the mode 1-4 that R478's boot path has reached, 5 from service on -/
  base : Nat := 1
deriving DecidableEq, Repr

structure Pins where
  standbyGood : Bool := true
  resetN : Bool := false
  pwrOk : Bool := false
  inA : Bool := true
  inB : Bool := true
  limitA : Bool := false
  limitB : Bool := false
  refclk : Bool := true
  mbaddr : BitVec 3 := 0#3
  thermtripN : Bool := true
  alive : Bool := false
  aliveStopped : Bool := false
  /-- pip of the last level change of ALIVE -/
  aliveAt : Nat := 0
deriving DecidableEq, Repr

structure TimeB where
  pip : Nat := 0
  grain : Nat := 0
  holdover : Bool := false
  realign : Bool := false
  refLost : Bool := false
  overrun : Bool := false
  overrunCount : Nat := 0
  lastOverrun : Nat := 0
  skewMax : Nat := 0
  /-- the replicas of H0, H1 and IO0-IO3 as M3 has trimmed them: grains against the service die's time base, plus 1 (R30) -/
  trims : Table (Fin 3) := []
  /-- activities that overran in the current pip (R42) -/
  overruns : List Nat := []
  /-- windows of the current pip already run -/
  loopPip : Option Nat := none
  eventPip : Option Nat := none
  commitPip : Option Nat := none
deriving DecidableEq, Repr

inductive OrderingCode where
  | aa | ab
deriving DecidableEq, Repr

structure Ident where
  code : OrderingCode := .aa
  moduleId : W64 := Config.moduleId
  incarnation : W32 := 0#32
  boot : Nat := 0
deriving DecidableEq, Repr

/-! ## The state -/

structure State where
  ident : Ident := {}
  pins : Pins := {}
  time : TimeB := {}
  mode : ModeS := {}
  power : Power := {}
  lcores : Table LCore := []
  trios : Table Trio := []
  /-- status of each physical core that is not at its boot value (R151-R153) -/
  cores : Table CoreStat := []
  clocks : Clocks := {}
  coh : Coh := {}
  mem : Mem := {}
  stackTab : Table Stack := []
  cxl : Table CxlPort := []
  net : Net := {}
  chans : Table Chan := []
  groups : Table Group := []
  rings : Table Ring := []
  exchs : List Exch := []
  parts : Table PartE := []
  slices : Table SliceE := []
  /-- last generation that each slice number held since boot (R338) -/
  lastGen : Table Nat := []
  leaves : Table (List Leaf) := []
  invSlots : Table InvSlot := []
  engs : Table Eng := []
  eqs : Table EqQueue := []
  jobs : List Job := []
  husks : Husks := {}
  events : Events := {}
  faults : Faults := {}
  boot : Boot := {}
  /-- Sentry shadow returned in this pip, and the one staged for the next (R41, R502) -/
  shadow : Table Half := []
  stagedShadow : Option (Table Half) := none
  /-- the value that the last register read returned -/
  readOut : W64 := 0#64
  /-- acceptances so far, the order of R270 -/
  accepts : Nat := 0
  /-- the model's own counter of free values used (LOG 9) -/
  free : Nat := 0
  /-- commands that wait, first in first out -/
  pending : List Instr := []
deriving DecidableEq, Repr

/-- Why a step can stop with a fault. -/
inductive Fault where
  /-- Raised by a command whose byte list has another length than the message it stands for can carry (WRLINE, DATA, DATAEXCL,
  DATA_AT_HOME). Safe: no hardware sends such a message. -/
  | malformed
deriving DecidableEq, Repr

/-- Why a step can be refused. -/
inductive Refusal where
  /-- Raised by a dispatch arm whose command has no meaning yet. Safe. -/
  | notModelled (mnemonic : String)
deriving DecidableEq, Repr

/-- The module right after reset: standby power in range, RESET_N low, the dies held in reset, the pip at 0, the mode word
at 1, no request queued (R34, R478, R498, R504); LOG 2. -/
def State.reset : State := {}

abbrev Res := Host.Outcome State Fault Refusal

end Sys2Proof.Machine
end

