-- ==== Sys2Proof/Machine/Decimal.lean ====
section
/-! DEFINITION. Packed decimal words (R51, R95-R99) and the operation of an atomic on one memory word (R81, R181). -/

namespace Sys2Proof.Machine

/-- Nibble `i` of a DEC word: 0 is the sign nibble, n is digit n - 1 (R99). -/
def decNibble (w : W64) (i : Nat) : Nat := (w.toNat >>> (4 * i)) % 16

/-- A digit nibble is 0-9, a sign nibble 0xA-0xF (R95). -/
def decNibbleOk (w : W64) (i : Nat) : Bool := if i = 0 then decide (10 ≤ decNibble w 0) else decide (decNibble w i ≤ 9)

/-- Index of the first invalid nibble, from index 0 upward (R99). -/
def decBad (w : W64) : Option Nat := (List.range 16).find? (fun i => !decNibbleOk w i)

/-- The fifteen digits as a number. -/
def decMag (w : W64) : Nat := (List.range 15).foldr (fun i acc => acc * 10 + decNibble w (i + 1)) 0

def decNeg (w : W64) : Bool := decNibble w 0 == 0xB || decNibble w 0 == 0xD

/-- The value of a DEC word; -0 is 0 (R96). -/
def decVal (w : W64) : Int := if decNeg w then -(decMag w : Int) else (decMag w : Int)

/-- The largest magnitude (R97). -/
def decMax : Nat := 999999999999999

/-- The digits of a number as nibbles, least first, from digit 0. -/
def decDigits : Nat → Nat → Nat
  | 0, _ => 0
  | n + 1, v => v % 10 + 16 * decDigits n (v / 10)

/-- The DEC word of a value: sign 0xC, or 0xD for a negative value (R96). -/
def decOf (z : Int) : W64 := BitVec.ofNat 64 (16 * decDigits 15 z.natAbs + (if z < 0 then 0xD else 0xC))

/-- Whether a value overflows (R97). -/
def decOvf (z : Int) : Bool := decide (decMax < z.natAbs)

/-- SUBCAUSE of DEC_DATA (R99): source, lane, nibble. -/
def decSub (src lane nib : Nat) : Nat := src * 64 + lane * 16 + nib

/-! ## The operation of an atomic -/

/-- Tags RAW, INT and USER0-USER3 hold binary integers. -/
def isUser (t : Tag) : Bool := decide (12 ≤ t.toNat)
def isRawUser (t : Tag) : Bool := t == Tag.raw || isUser t
def isIntRawUser (t : Tag) : Bool := t == Tag.int || isRawUser t

/-- What an atomic does to the memory word `m` (R81): the status, and the word to store if the operation stores.
`tagless` says the word lies in memory that holds no tags (R74, R82). The checks of the operands' own tags have been made at the
instruction. -/
def amoApply (tagless : Bool) (x : AmoArgs) (m : TWord) : AmoStatus × Option TWord :=
  let badStore := tagless && !isRawUser x.operand.tag
  match x.op with
  | .add =>
    if !isIntRawUser m.tag then (.tagMismatch m.tag, none)
    else if m.tag == Tag.int && !inInt64 (sInt m.data + sInt x.operand.data) then (.intOvf, none)
    else (.ok, some { data := m.data + x.operand.data, tag := m.tag })
  | .swap => if badStore then (.tagStore, none) else (.ok, some x.operand)
  | .cas =>
    if m = x.expected then (if badStore then (.tagStore, none) else (.ok, some x.operand)) else (.ok, none)
  | .dadd =>
    if m.tag != Tag.dec then (.tagMismatch m.tag, none)
    else match decBad x.operand.data with
      | some n => (.decData (BitVec.ofNat 8 (decSub 1 0 n)), none)
      | none => match decBad m.data with
        | some n => (.decData (BitVec.ofNat 8 (decSub 2 0 n)), none)
        | none =>
          let v := decVal m.data + decVal x.operand.data
          if decOvf v then (.decOvf, none) else (.ok, some (TWord.mkDec (decOf v)))

/-- The status of an atomic whose memory word cannot be read, if its operand alone decides it: DEC_DATA of rb comes before ISOLATED_ACCESS
and MEM_POISON (R88, R95). -/
def amoUnread (x : AmoArgs) : Option AmoStatus :=
  match x.op, decBad x.operand.data with
  | .dadd, some n => some (.decData (BitVec.ofNat 8 (decSub 1 0 n)))
  | _, _ => none

/-- The status of an atomic that the address alone decides: DAMOADD on memory that holds no tags, and AMOSWAP of a word that it cannot
hold (R74, R82, R88). -/
def amoSure (tagless : Bool) (x : AmoArgs) : Option AmoStatus :=
  match x.op with
  | .dadd => if tagless then some (.tagMismatch Tag.raw) else none
  | .swap => if tagless && !isRawUser x.operand.tag then some .tagStore else none
  | _ => none

/-- The operation on a word as memory gives it, poisoned or not (R81, R88). -/
def amoOn (tagless : Bool) (x : AmoArgs) (m : CWord) : AmoStatus × Option TWord :=
  if m.poison then ((amoUnread x).getD .poison, none) else amoApply tagless x m.w

/-- In memory that holds no tags a stored word is held as RAW (R74, R214). -/
def untagIf (b : Bool) (w : TWord) : TWord := if b then TWord.mkRaw w.data else w

end Sys2Proof.Machine
end

