-- ==== Sys2Proof/Machine/Ops.lean ====
section
/-! DEFINITION. The shared operations: the table accessors, the stamp, the mode word, fault reports, raises of event
sources, partition notices and the configuration entries in force. -/

namespace Sys2Proof.Machine

/-! ## Access to the state's tables -/

def lcore (s : State) (c : Nat) : LCore := tget {} s.lcores c
def trio (s : State) (n : Nat) : Trio := tget {} s.trios n
def chan (s : State) (n : Nat) : Chan := tget {} s.chans n
def group (s : State) (g : Nat) : Group := tget {} s.groups g
def part (s : State) (p : Nat) : PartE := tget {} s.parts p
def sliceE (s : State) (n : Nat) : SliceE := tget {} s.slices n
def stack (s : State) (j : Nat) : Stack := tget {} s.stackTab j
def cxlPort (s : State) (k : Nat) : CxlPort := tget {} s.cxl k
def eng (s : State) (e : Nat) : Eng := tget {} s.engs e
def hull (s : State) (h : Nat) : Hull := tget {} s.net.hulls h
def link (s : State) (l : Nat) : LinkSt := tget {} s.net.links l
def evSource (s : State) (e : Nat) : EvSource := tget {} s.events.sources e
def mailbox (s : State) (m : Nat) : Mailbox := tget {} s.events.mailboxes m
def sendBlock (s : State) (c k : Nat) : SendBlock := tget {} s.events.blocks (c * 32 + k)

/-- Ring pairs and engine queues are keyed by slice and mirror pair, 2s + r (R334, R415). -/
def pairKey (sl r : Nat) : Nat := 2 * sl + r
def ring (s : State) (key : Nat) : Ring := tget {} s.rings key
def eqq (s : State) (key : Nat) : EqQueue := tget {} s.eqs key

def modLCore (s : State) (c : Nat) (f : LCore → LCore) : State := { s with lcores := tmod {} s.lcores c f }
def modTrio (s : State) (n : Nat) (f : Trio → Trio) : State := { s with trios := tmod {} s.trios n f }
def modChan (s : State) (n : Nat) (f : Chan → Chan) : State := { s with chans := tmod {} s.chans n f }
def modGroup (s : State) (g : Nat) (f : Group → Group) : State := { s with groups := tmod {} s.groups g f }
def modPart (s : State) (p : Nat) (f : PartE → PartE) : State := { s with parts := tmod {} s.parts p f }
def modSlice (s : State) (n : Nat) (f : SliceE → SliceE) : State := { s with slices := tmod {} s.slices n f }
def modRing (s : State) (k : Nat) (f : Ring → Ring) : State := { s with rings := tmod {} s.rings k f }
def modEq (s : State) (k : Nat) (f : EqQueue → EqQueue) : State := { s with eqs := tmod {} s.eqs k f }
def modStack (s : State) (j : Nat) (f : Stack → Stack) : State := { s with stackTab := tmod {} s.stackTab j f }
def modCxl (s : State) (k : Nat) (f : CxlPort → CxlPort) : State := { s with cxl := tmod {} s.cxl k f }
def modEng (s : State) (e : Nat) (f : Eng → Eng) : State := { s with engs := tmod {} s.engs e f }
def modNet (s : State) (f : Net → Net) : State := { s with net := f s.net }
def modHull (s : State) (h : Nat) (f : Hull → Hull) : State :=
  { s with net := { s.net with hulls := tmod {} s.net.hulls h f } }
def modLink (s : State) (l : Nat) (f : LinkSt → LinkSt) : State :=
  { s with net := { s.net with links := tmod {} s.net.links l f } }
def modHusks (s : State) (f : Husks → Husks) : State := { s with husks := f s.husks }
def modEvents (s : State) (f : Events → Events) : State := { s with events := f s.events }
def modFaults (s : State) (f : Faults → Faults) : State := { s with faults := f s.faults }
def modBoot (s : State) (f : Boot → Boot) : State := { s with boot := f s.boot }
def modPower (s : State) (f : Power → Power) : State := { s with power := f s.power }
def modPins (s : State) (f : Pins → Pins) : State := { s with pins := f s.pins }
def modTime (s : State) (f : TimeB → TimeB) : State := { s with time := f s.time }
def modModeS (s : State) (f : ModeS → ModeS) : State := { s with mode := f s.mode }
def modCoh (s : State) (f : Coh → Coh) : State := { s with coh := f s.coh }
def modSource (s : State) (e : Nat) (f : EvSource → EvSource) : State :=
  { s with events := { s.events with sources := tmod {} s.events.sources e f } }
def modMailbox (s : State) (m : Nat) (f : Mailbox → Mailbox) : State :=
  { s with events := { s.events with mailboxes := tmod {} s.events.mailboxes m f } }
def modBlock (s : State) (c k : Nat) (f : SendBlock → SendBlock) : State :=
  { s with events := { s.events with blocks := tmod {} s.events.blocks (c * 32 + k) f } }

/-- The entry of an exchange in the exchange tables. -/
def exch (s : State) (x : ExId) : Option Exch := s.exchs.find? (fun e => decide (e.id = x))

def modExch (s : State) (x : ExId) (f : Exch → Exch) : State :=
  { s with exchs := s.exchs.map (fun e => if e.id = x then f e else e) }

def job (s : State) (j : JobId) : Option Job := s.jobs.find? (fun e => decide (e.id = j))

def modJob (s : State) (j : JobId) (f : Job → Job) : State :=
  { s with jobs := s.jobs.map (fun e => if e.id = j then f e else e) }

/-- Apply a change for every number of a list, in order. -/
def forEach (s : State) (l : List Nat) (f : State → Nat → State) : State := l.foldl f s

/-- A value that the spec leaves open, and the counter moved past it (LOG 9). -/
def useFree (s : State) : State × W64 := ({ s with free := s.free + 1 }, Config.free s.free)

/-! ## Time (R34, R35) -/

def stampNat (s : State) : Nat := s.time.pip * 1024 + s.time.grain

/-- The stamp, PIP in [63:10] and GRAIN in [9:0] (R34). -/
def now (s : State) : W64 := BitVec.ofNat 64 (stampNat s)

/-- The replica of a die's time base, H0, H1, IO0-IO3, or with another number the service die's own (R30, R35). Each pip edge and each
grain of the service die reaches it at its trimmed edge, so it leads or lags by one grain at most (LOG 5). -/
def replicaNat (s : State) (d : Nat) : Nat := stampNat s + (tget 1 s.time.trims d).val - 1

/-- TSTAMP of a die (R35). -/
def stampAt (s : State) (d : Nat) : W64 := BitVec.ofNat 64 (replicaNat s d)

/-- The service die, among the seven time bases. -/
def serviceDie : Nat := 6

/-- The I/O die of a channel, as a time base. -/
def chanBase (n : Nat) : Nat := 2 + n / 128

def pip (s : State) : Nat := s.time.pip

/-- The pip in which a stamp was taken. -/
def pipOf (w : W64) : Nat := w.toNat / 1024

/-- The time base runs: standby power in range and RESET_N high (R31, R34). -/
def timeRuns (s : State) : Bool := s.pins.standbyGood && s.pins.resetN

/-- Time passes to grain `g` of the pip, never back. -/
def toGrain (s : State) (g : Nat) : State := modTime s (fun t => { t with grain := max t.grain g })

/-! ## Modes (R25, R26, R479) -/

/-- A die that is lost, by die number (R443). -/
def dieLost (s : State) (d : Nat) : Bool := tget false s.net.lost d

/-- The M6 condition: a DUPLEX trio clears only at the next boot (R480, LOG 52). -/
def degraded (s : State) : Bool :=
  s.trios.any (fun t => t.2.duplexed) || s.net.lost.any (·.2)

/-- The M8 condition: a partition is QUIESCED (R489). -/
def quiescedAny (s : State) : Bool := s.parts.any (fun p => decide (p.2.state = .quiesced))

/-- The mode that R26 and R479 give for the conditions present. -/
def modeFor (s : State) : Nat :=
  if s.mode.mode = 11 then 11
  else if s.mode.base < 3 then s.mode.base
  else if s.mode.base = 5 ∧ s.mode.split then 7
  else if s.mode.rejoining ≠ [] then 10
  else if s.mode.base < 5 then s.mode.base
  else if s.mode.parkCond then 9
  else if quiescedAny s then 8
  else if degraded s then 6
  else 5

/-- The modes in which a contention predictor places atomic operations (R27, R182). -/
def predictorMode (m : Nat) : Bool := m == 2 || m == 3 || m == 4 || m == 7 || m == 10

/-- Show mode `m` in the mode word (R41, R482). Entering a predictor mode from another sets every counter to 0b01 (R182). -/
def setMode (s : State) (m : Nat) : State :=
  if m = s.mode.mode then s
  else
    let s1 := { s with mode := { s.mode with prev := s.mode.mode, mode := m, entryPip := s.time.pip } }
    if predictorMode m && !predictorMode s.mode.mode then modCoh s1 (fun c => { c with pred := [] }) else s1

/-- Take the mode that the standing conditions give. -/
def settle (s : State) : State := setMode s (modeFor s)

/-- The module is in service: application work runs in M5 to M10 (R25, R478, R488). -/
def inService (s : State) : Bool := timeRuns s && decide (s.mode.base = 5 ∧ s.mode.mode ≠ 11)

/-- The effect `x` of an event that can occur only in service; at any other time the event does not occur. -/
def whenServing (s x : State) : State := if inService s then x else s

/-- The compute and I/O dies are powered (R25, R478). -/
def diesPowered (s : State) : Bool := timeRuns s && decide (2 ≤ s.mode.base)

/-- The effect `x` of an event of a powered compute or I/O die. -/
def whenPowered (s x : State) : State := if diesPowered s then x else s

/-! ## The husks (R385) -/

def huskOf (s : State) (h : HuskId) : Husk := match h with | .a => s.husks.a | .b => s.husks.b

def modHusk (s : State) (h : HuskId) (f : Husk → Husk) : State :=
  modHusks s (fun x => match h with | .a => { x with a := f x.a } | .b => { x with b := f x.b })

def otherHusk (h : HuskId) : HuskId := match h with | .a => .b | .b => .a

/-- SEED.HOLDER (R385). -/
def holderId (s : State) : Option HuskId :=
  if s.husks.seed.holder = 1 then some .a else if s.husks.seed.holder = 2 then some .b else none

def huskCode (h : HuskId) : Nat := match h with | .a => 1 | .b => 2

/-- The husk that holds the seed and whose writes the hardware accepts. -/
def actingHusk (s : State) : Option HuskId :=
  match holderId s with
  | some h => if (huskOf s h).refused then none else some h
  | none => none

/-- Activity `a` has overrun in this pip (R42). -/
def overran (s : State) (a : Nat) : Bool := s.time.overruns.contains a

/-! ## Fault points (R438) -/

namespace Pt
def coreDissent (i : Nat) : Nat := i
def coreArray (i : Nat) : Nat := 208 + i
def trioCheckstop (n : Nat) : Nat := 416 + n
def doubleTrap (c : Nat) : Nat := 480 + c
def dirUncorrectable (sl : Nat) : Nat := 608 + sl
def cohProtocol (sl : Nat) : Nat := 672 + sl
def l3Ce (sl : Nat) : Nat := 736 + sl
def hbmCe (j : Nat) : Nat := 800 + j
def hbmUe (j : Nat) : Nat := 808 + j
def hbmCa (j : Nat) : Nat := 816 + j
def stackFenced (j : Nat) : Nat := 824 + j
def cxlWbLost (k : Nat) : Nat := 832 + k
def cxlLink (k : Nat) : Nat := 840 + k
def d2dLink (i : Nat) : Nat := 848 + i
def ioLink (i : Nat) : Nat := 852 + i
def netTimeout (d : Nat) : Nat := 868 + d
def wakeOverrun (d : Nat) : Nat := 874 + d
def wbIsolated (h : Nat) : Nat := 880 + h
def engFault (e : Nat) : Nat := 882 + e
def peerMismatch (c : Nat) : Nat := 914 + c
def rekeyFail (d : Nat) : Nat := 1426 + d
def mirrorLink (d : Nat) : Nat := 1430 + d
def dieFatal (d : Nat) : Nat := 1434 + d
def ivrFault (i : Nat) : Nat := 1440 + i
def sensorFault (i : Nat) : Nat := 1504 + i
def refclkLost : Nat := 1824
def pipOverrun : Nat := 1825
def huskCheck (h : HuskId) : Nat := match h with | .a => 1826 | .b => 1827
def huskNone : Nat := 1828
def huskOut : Nat := 1829
def thermTrip : Nat := 1830
def inputLoss (g : Nat) : Nat := 1831 + g
def imageDefaulted : Nat := 1833
def configInfo : Nat := 1834
def partRange : Nat := 1835
def keystoreFault : Nat := 1836
def mbFail (b : Bus) : Nat := match b with | .mbA => 1837 | .mbB => 1838
/-- first reserved point -/
def reserved : Nat := 1839
end Pt

/-- The die on which a fault point lies, where its reports are stamped (R45, R438). -/
def ptDie (pt : Nat) : Nat :=
  let core := fun (k : Nat) => if 192 ≤ k then (k - 192) / 8 else k / 96
  if pt < 208 then core pt
  else if pt < 416 then core (pt - 208)
  else if pt < 480 then (pt - 416) / 32
  else if pt < 608 then (pt - 480) / 64
  else if pt < 800 then (pt - 608) % 64 / 32
  else if pt < 832 then (pt - 800) % 8 / 4
  else if pt < 848 then 2 + (pt - 832) % 8 / 2
  else if pt < 852 then 0
  else if pt < 868 then 2 + (pt - 852) / 4
  else if pt < 880 then (pt - 868) % 6
  else if pt < 882 then pt - 880
  else if pt < 914 then 2 + (pt - 882) / 8
  else if pt < 1426 then chanBase (pt - 914)
  else if pt < 1434 then 2 + (pt - 1426) % 4
  else if pt < 1440 then pt - 1434
  else if pt < 1504 then (let i := pt - 1440; if i < 32 then i / 16 else 2 + (i - 32) / 8)
  else if pt < 1824 then
    (let i := pt - 1504
     if i < 208 then core i else if i < 240 then (i - 208) / 16 else if i < 272 then (i - 240) / 16
     else if i < 312 then 2 + (i - 272) / 10 else serviceDie)
  else serviceDie

/-- Add an occurrence to the events of the pip: the first is the event, later ones of its point only count (R439). -/
def addEvent (l : List FEvent) (e : FEvent) : List FEvent :=
  if l.any (fun x => x.point == e.point && pipOf x.stamp == pipOf e.stamp) then
    l.map (fun x => if x.point == e.point && pipOf x.stamp == pipOf e.stamp then { x with rep := x.rep + 1 } else x)
  else l ++ [e]

/-- A fault point reports, stamped now by its own die (R437, R439). Reserved points never report, and no stamp is taken while the time
base is held (R34). The report's way to the collector is not modelled (LOG 14). -/
def report (s : State) (pt detail : Nat) : State :=
  if timeRuns s && decide (pt < Pt.reserved) then
    modFaults s (fun f => { f with
      inbox := addEvent f.inbox { stamp := stampAt s (ptDie pt), point := pt, detail := BitVec.ofNat 16 detail }
      huskNone := f.huskNone || pt == Pt.huskNone })
  else s

/-! ## Event sources and notices (R412-R424) -/

namespace Src
def mailbox (m : Nat) : Nat := 1024 + m
def lcore (c : Nat) : Nat := 1152 + c
def notice (p : Nat) : Nat := 1280 + p
def software (p i : Nat) : Nat := 1296 + 15 * p + i
end Src

namespace Notice
def trioDegraded : Nat := 0
def trioRestored : Nat := 1
def lcoreLost : Nat := 2
def memStackLost : Nat := 3
def stackSlow : Nat := 4
def d2dDegraded : Nat := 5
def pgUnprotected : Nat := 6
def pathDemoted : Nat := 7
def pathRestored : Nat := 8
def pairLost : Nat := 9
def invDone : Nat := 10
def undeliverable : Nat := 11
end Notice

/-- Set cause bits of a source at once; a bit of an enabled cause that goes from 0 to 1 makes a delivery due from pip `k`
(R418). A bit already set changes nothing. -/
def raiseMaskAt (s : State) (k die src : Nat) (m : W32) : State :=
  modSource s src (fun e =>
    let new := m &&& ~~~e.pending
    { e with
      pending := e.pending ||| m
      stamp := if new = 0#32 then e.stamp else stampAt s die
      due := if new &&& e.enable = 0#32 then e.due else (match e.due with | none => some k | some j => some (min j k)) })

def raiseMask (s : State) (src : Nat) (m : W32) : State := raiseMaskAt s (pip s) serviceDie src m

/-- Raise one cause on a die, whose stamp it gets. -/
def raiseFrom (s : State) (die src cause : Nat) : State := raiseMaskAt s (pip s) die src (1#32 <<< cause)

def raise (s : State) (src cause : Nat) : State := raiseFrom s serviceDie src cause

/-- A cause on P[p]'s notice source, with its entry in the notice log (R424). -/
def notice (s : State) (p cause object : Nat) : State :=
  let s1 := raise s (Src.notice p) cause
  modEvents s1 (fun e => { e with notices := tmod {} e.notices p (fun l => { l with
    entries := tset l.entries (l.count.toNat % 64) { stamp := now s, cause := cause, object := object }
    count := l.count + 1 }) })

/-- A notice to every partition (LOG 57). -/
def noticeAll (s : State) (cause object : Nat) : State :=
  forEach s (List.range 16) (fun s p => notice s p cause object)

/-! ## Configuration entries in force (R467) -/

def cfg (s : State) (n : Nat) : Option (List Byte) := tfind s.boot.entries n

def cfgNat (s : State) (n dflt : Nat) : Nat := match cfg s n with | some bs => ofLE bs | none => dflt

def trioSplitCfg (s : State) (n : Nat) : Bool := cfgNat s (0x100 + n) 0 == 1
def sparePolicy (s : State) : Nat := cfgNat s 0x200 0
def memAll8 (s : State) : Bool := cfgNat s 0x201 0 == 1
def scrubHours (s : State) : Nat := cfgNat s 0x202 24
def imageWeight (s : State) (j : Nat) : Nat := cfgNat s (0x210 + j) 8
def cxlHome (s : State) (k : Nat) : Nat := cfgNat s (0x220 + k) (if k < 4 then 0 else 1)
def chEtherType (s : State) : Nat := cfgNat s 0x500 0x88B5
def evqQuota (s : State) (p : Nat) : Nat := cfgNat s (0x510 + p) 64
def mbxOwner (s : State) (m : Nat) : Nat := cfgNat s (0x600 + m) (m / 8)
def mbxSenders (s : State) (m : Nat) : Nat := cfgNat s (0x680 + m) (1 <<< mbxOwner s m)

/-- First queue source of P[p]: blocks lie in partition order (R412). -/
def evqBase (s : State) (p : Nat) : Nat := ((List.range p).map (evqQuota s)).foldl (· + ·) 0

/-! ## Partitions (R331) -/

/-- The partition that holds LCORE[c] (R332). -/
def partOf (s : State) (c : Nat) : Option Nat := (s.parts.find? (fun e => e.2.lcores.getLsbD c)).map (·.1)

/-- The partition that owns an event source (R412), none for a queue source outside every block. -/
def srcOwner (s : State) (e : Nat) : Option Nat :=
  if e < 1024 then (List.range 16).find? (fun p => evqBase s p ≤ e ∧ e < evqBase s p + evqQuota s p)
  else if e < 1152 then some (mbxOwner s (e - 1024))
  else if e < 1280 then partOf s (e - 1152)
  else if e < 1296 then some (e - 1280)
  else if e < 1536 then some ((e - 1296) / 15)
  else none

/-- The memory [pa, pa + n) lies in one of the partition's ranges (R331). -/
def inRanges (s : State) (p pa n : Nat) : Bool :=
  (part s p).ranges.any (fun r => decide (r.2.1 ≤ pa ∧ pa + n ≤ r.2.1 + r.2.2))

/-- A half that serves the partition: HBM or CXL memory of its ranges, or a logical core, lies there. -/
def lcoreHalf (c : Nat) : Nat := c / 64

/-! ## Sets and cores -/

def taskSet (s : State) (c k : Nat) : TaskSet := tget {} (lcore s c).sets k

def modSet (s : State) (c k : Nat) (f : TaskSet → TaskSet) : State :=
  modLCore s c (fun l => { l with sets := tmod {} l.sets k f })

/-- The RUNNING set of a logical core. -/
def curSet (s : State) (c : Nat) : TaskSet := taskSet s c (lcore s c).cur

def modCur (s : State) (c : Nat) (f : TaskSet → TaskSet) : State := modSet s c (lcore s c).cur f

def modTstat (t : TaskSet) (f : Tstat → Tstat) : TaskSet := { t with tstat := f t.tstat }

/-- The trio of a logical core. -/
def trioOf (c : Nat) : Nat := c / 2

/-- A trio that is fused off (R7). -/
def trioAbsent (s : State) (n : Nat) : Bool := decide (s.ident.code = .ab) && decide (24 ≤ n % 32)

end Sys2Proof.Machine
end

