-- ==== Sys2Proof/Machine/Map.lean ====
section
/-! DEFINITION. The physical address map (R163, R197-R200, R212, R334) and main memory: reads and writes of tagged, poisoned words
over canonical sparse lists. -/

namespace Sys2Proof.Machine

/-! ## Address map -/

def lineBytes : Nat := 128
def lineOf (pa : Nat) : Nat := pa / 128
def wordOf (pa : Nat) : Nat := pa / 8

/-- 1 KiB units of usable space per stack (R200). -/
def stackUnits : Nat := 33030144

/-- First address above HBM: 252 GiB (R197). -/
def hbmTop : Nat := 8 * stackUnits * 1024

def cxlBase : Nat := 0x8000000000000
def cxlWindow : Nat := 0x1000000000000
def devBase : Nat := 0x7000000000000
def devWindow : Nat := 0x100000000

/-- The port whose window holds an address (R212). -/
def cxlPortOf (pa : Nat) : Option Nat :=
  if cxlBase ≤ pa ∧ pa < cxlBase + 8 * cxlWindow then some ((pa - cxlBase) / cxlWindow) else none

/-- The device window that holds an address, with the offset in it (R334). -/
def devOf (pa : Nat) : Option (Nat × Nat) :=
  if devBase ≤ pa ∧ pa < devBase + 16 * devWindow then some ((pa - devBase) / devWindow, (pa - devBase) % devWindow) else none

/-- Memory without tags, but for the device windows (R74). -/
def isCxl (pa : Nat) : Bool := (cxlPortOf pa).isSome

/-- The stacks of the range that holds an HBM address, and the base of that range (R197). -/
def rangeStacks (all8 : Bool) (pa : Nat) : List Nat × Nat :=
  if all8 then (List.range 8, 0)
  else if pa < 4 * stackUnits * 1024 then (List.range 4, 0)
  else ([4, 5, 6, 7], 4 * stackUnits * 1024)

/-- RING of R200: stack numbers in order, one for each entry. -/
def weightRing (w : Nat → Nat) (stackTab : List Nat) : List Nat :=
  (List.range 8).flatMap (fun p => stackTab.filter (fun j => decide (p < w j)))

/-- The tail walk of R200: stack and local unit. -/
def tailWalk (w : Nat → Nat) (rounds : Nat) : List Nat → Nat → Option (Nat × Nat)
  | [], _ => none
  | j :: js, t =>
    let tail := stackUnits - rounds * w j
    if t < tail then some (j, rounds * w j + t) else tailWalk w rounds js (t - tail)

/-- Stack and line within the stack of an HBM address (R200). -/
def hbmPlace (s : State) (pa : Nat) : Option (Nat × Nat) :=
  if pa < hbmTop then
    let (stackTab, base) := rangeStacks (memAll8 s) pa
    let w := fun j => (stack s j).weight
    let rg := weightRing w stackTab
    let sw := rg.length
    let rounds := ((stackTab.filter (fun j => decide (0 < w j))).map (fun j => stackUnits / w j)).foldl min stackUnits
    let u := (pa - base) / 1024
    let sub := (pa - base) / 128 % 8
    if u < rounds * sw then
      let k := u % sw
      let j := rg.getD k 0
      let rank := ((rg.take k).filter (fun i => i == j)).length
      some (j, (u / sw * w j + rank) * 8 + sub)
    else (tailWalk w rounds stackTab (u - rounds * sw)).map (fun p => (p.1, p.2 * 8 + sub))
  else none

def stackOf (s : State) (pa : Nat) : Option Nat := (hbmPlace s pa).map (·.1)

/-- The home half of a line (R163, R198, R213). -/
def homeHalf (s : State) (ln : Nat) : Nat :=
  match cxlPortOf (ln * 128) with
  | some k => cxlHome s k
  | none => match stackOf s (ln * 128) with
    | some j => j / 4
    | none => 0

/-- Slice number within the half: the XOR of nine 5-bit fields of the address (R163). -/
def homeSliceInHalf (ln : Nat) : Nat :=
  (List.range 9).foldl (fun acc i => acc ^^^ ((ln >>> (5 * i)) % 32)) 0

/-- The L3 slice of a line, 32h + number (R438). -/
def homeSlice (s : State) (ln : Nat) : Nat := 32 * homeHalf s ln + homeSliceInHalf ln

/-! ## Hull positions (LOG 20) -/

namespace HullAt
def die (d : Nat) : Nat := d
def stack (j : Nat) : Nat := 8 + j
def cxl (k : Nat) : Nat := 16 + k
def d2d (i : Nat) : Nat := 24 + i
def l3 (sl : Nat) : Nat := 32 + sl
def engine (e : Nat) : Nat := 96 + e
def l2 (a : Nat) : Nat := 128 + a
end HullAt

/-- A target is dead: declared so, or behind a hull (R232, R233). -/
def targetDead (s : State) (h : Nat) : Bool := (hull s h).active || s.net.dead.any (fun e => e.1 == h)

def halfLost (s : State) (h : Nat) : Bool := dieLost s h

/-- The home of a line does not answer half `h` (2 or more: an I/O die): its slice or die is dead, or the halves are split (R235, R238). -/
def homeDead (s : State) (h ln : Nat) : Bool :=
  let hh := homeHalf s ln
  targetDead s (HullAt.l3 (homeSlice s ln)) || targetDead s (HullAt.die hh) ||
  (decide (h < 2 ∧ h ≠ hh) && targetDead s (HullAt.d2d 0))

/-- A line of a window at or above the capacity of the port's device, or of a port without one (R212). -/
def cxlUnmapped (s : State) (ln : Nat) : Bool :=
  match cxlPortOf (ln * 128) with
  | some k => (match (cxlPort s k).capacity with
    | some cap => decide (cap ≤ ln * 128 - cxlBase - k * cxlWindow)
    | none => true)
  | none => false

/-- Whether an access to a line from half `h` (2 or more: from an I/O die) is answered ISOLATED (R212, R235, R238). Port k sits on
IO[k/2]. -/
def isolatedFrom (s : State) (h ln : Nat) : Bool :=
  homeDead s h ln || cxlUnmapped s ln ||
  (match cxlPortOf (ln * 128) with
   | some k => targetDead s (HullAt.cxl k) || (cxlPort s k).lost || targetDead s (HullAt.die (2 + k / 2))
   | none => match stackOf s (ln * 128) with
     | some j => targetDead s (HullAt.stack j) || decide ((stack s j).state = .fenced)
     | none => true)

/-! ## Main memory -/

/-- What an unlisted byte reads as (LOG 7). -/
def memDefault : Byte := 0#8

namespace Memory

def byte (m : Mem) (a : Nat) : Byte := tget memDefault m.bytes a
def tag (m : Mem) (wi : Nat) : Tag := tget Tag.raw m.tags wi
def poisoned (m : Mem) (wi : Nat) : Bool := tget false m.poison wi

def setByte (m : Mem) (a : Nat) (b : Byte) : Mem := { m with bytes := cset memDefault m.bytes a b }
def setTag (m : Mem) (wi : Nat) (t : Tag) : Mem := { m with tags := cset Tag.raw m.tags wi t }
def setPoison (m : Mem) (wi : Nat) (b : Bool) : Mem := { m with poison := cset false m.poison wi b }

/-- Bytes from address `a` upward. -/
def bytesAt (m : Mem) (a : Nat) : Nat → List Byte
  | 0 => []
  | n + 1 => byte m a :: bytesAt m (a + 1) n

def setBytes (m : Mem) (a : Nat) : List Byte → Mem
  | [] => m
  | b :: bs => setBytes (setByte m a b) (a + 1) bs

/-- One word with its tag and poison mark; a word is little-endian in memory (R52). -/
def word (m : Mem) (wi : Nat) : CWord :=
  { w := { data := BitVec.ofNat 64 (ofLE (bytesAt m (wi * 8) 8)), tag := tag m wi }, poison := poisoned m wi }

def setWord (m : Mem) (wi : Nat) (c : CWord) : Mem :=
  setPoison (setTag (setBytes m (wi * 8) (leBytes 8 c.w.data.toNat)) wi c.w.tag) wi c.poison

def lineFrom (m : Mem) (wi : Nat) : Nat → Line
  | 0 => []
  | n + 1 => word m wi :: lineFrom m (wi + 1) n

/-- The 16 words of a line. -/
def line (m : Mem) (ln : Nat) : Line := lineFrom m (ln * 16) 16

def setWords (m : Mem) (wi : Nat) : Line → Mem
  | [] => m
  | c :: cs => setWords (setWord m wi c) (wi + 1) cs

def setLine (m : Mem) (ln : Nat) (l : Line) : Mem := setWords m (ln * 16) l

/-- Write every word of [base, base + size) with data 0, tag RAW and no poison (R337). -/
def zeroRange (m : Mem) (base size : Nat) : Mem :=
  { bytes := cclear m.bytes base (base + size)
    tags := cclear m.tags (base / 8) ((base + size) / 8)
    poison := cclear m.poison (base / 8) ((base + size) / 8) }

/-- The canonical form: keys rising, no entry equal to what an unlisted key reads as. -/
def wf (m : Mem) : Bool := cwf memDefault m.bytes && cwf Tag.raw m.tags && cwf false m.poison

end Memory

/-! ## Words and bytes of a line -/

def lineWord (l : Line) (k : Nat) : CWord := l.getD k CWord.zero

def lineSet (l : Line) (k : Nat) (c : CWord) : Line := l.set k c

def wordByte (c : CWord) (i : Nat) : Byte := BitVec.ofNat 8 (c.w.data.toNat >>> (8 * i))

/-- The 128 data bytes of a line. -/
def lineToBytes (l : Line) : List Byte := l.flatMap (fun c => leBytes 8 c.w.data.toNat)

/-- Merge masked bytes into one word (R178, R196): a touched word becomes RAW; its poison clears when all eight bytes are written. -/
def mergeWord (c : CWord) (bs : List Byte) (mask : List Bool) : CWord :=
  if mask.all (· == false) then c
  else
    let data := ofLE ((List.range 8).map (fun i =>
      if mask.getD i false then bs.getD i 0#8 else wordByte c i))
    { w := TWord.mkRaw (BitVec.ofNat 64 data), poison := c.poison && !mask.all id }

/-- The line after a WrLine of masked bytes (R178). -/
def mergeLine (l : Line) (bs : List Byte) (mask : BitVec 128) : Line :=
  (List.range 16).map (fun k =>
    mergeWord (lineWord l k) (slice bs (8 * k) 8) ((List.range 8).map (fun i => mask.getLsbD (8 * k + i))))

/-- In CXL memory a line holds only RAW tags (R214). -/
def cxlLine (pa : Nat) (l : Line) : Line :=
  if isCxl pa then l.map (fun c => { c with w := TWord.mkRaw c.w.data }) else l

end Sys2Proof.Machine
end

