-- ==== Sys2Proof/Machine/Coherence.lean ====
section
/-! DEFINITION. The coherence protocol: the arrays and their capacity (R159-R164), the cache side of R172-R174, the home side of
R175-R177, the takes of I/O writes, atomic operations and maintenance (R178-R188), the credits (R166, R226), and the whole
transactions that a core's access or an I/O die's access runs. -/

namespace Sys2Proof.Machine

/-! ## L2 lines and L1 arrays -/

def l2Key (a ln : Nat) : Nat := a * 2 ^ 45 + ln

def l2Line (s : State) (a ln : Nat) : L2Line := tget {} s.coh.l2 (l2Key a ln)

/-- The physical cores whose L1 arrays an L2 fills: the split core, or the members in lockstep (R134, R160). -/
def l1Members (s : State) (a : Nat) : List Nat :=
  let t := trio s (a / 2)
  let num := fun (m : Member) => match m.core with | .core n => [n] | _ => []
  if t.state = .split then (if a % 2 = 0 then num t.a else num t.b)
  else [t.a, t.b, t.c].flatMap (fun m => if m.lockstep then num m else [])

/-- Both L1 arrays of a physical core are invalid. -/
def l1Clear (s : State) (k : Nat) : State := modCoh s (fun c => { c with l1d := tset c.l1d k [], l1i := tset c.l1i k [] })

/-- Drop a line from the data and instruction L1 of every member (R160). In M9 the L1 arrays sit in retention and receive no
invalidation (R162). -/
def l1Drop (s : State) (a ln : Nat) : State :=
  if s.mode.mode = 9 then s
  else
    let drop := fun (t : Table (List Nat)) =>
      (l1Members s a).foldl (fun t n => tmod [] t n (fun l => l.filter (fun x => x != ln))) t
    modCoh s (fun c => { c with l1d := drop c.l1d, l1i := drop c.l1i })

/-- An array of R159: its number of sets and of ways. -/
structure CacheArray where
  no : Nat
  sets : Nat
  ways : Nat
deriving DecidableEq, Repr

def l1Array : CacheArray := { no := 0, sets := 64, ways := 8 }
/-- 16 ways of a voted trio, or the 8 ways of one core of a split one (R159). -/
def l2Array (s : State) (a : Nat) : CacheArray := { no := 1, sets := 2048, ways := if (trio s (a / 2)).state = .split then 8 else 16 }
def l3Array : CacheArray := { no := 2, sets := 4096, ways := 12 }
def dirArray : CacheArray := { no := 3, sets := 4096, ways := 16 }

/-- Set of a line in an array (LOG 119). -/
def setOf (x : CacheArray) (ln : Nat) : Nat := Config.cacheSet x.no ln % x.sets

/-- The lines that share the set of `ln`, of those in an array, when they fill it; the spec gives no rule for the one that leaves, so it is
a free value (LOG 119). -/
def fullSet (x : CacheArray) (held : List Nat) (ln : Nat) : List Nat :=
  if held.length < x.ways then []
  else
    let same := held.filter (fun k => decide (setOf x k = setOf x ln))
    if same.length < x.ways then [] else same

/-- One of some lines. -/
def pickLine (s : State) (l : List Nat) : State × Nat :=
  let (s1, w) := useFree s
  (s1, l.getD (w.toNat % l.length) 0)

/-- Write one L1 array of a core. -/
def setL1 (s : State) (inst : Bool) (n : Nat) (l : List Nat) : State :=
  modCoh s (fun c => if inst then { c with l1i := tset c.l1i n l } else { c with l1d := tset c.l1d n l })

/-- Fill a line into one L1 array of a core; a full set gives up one of its lines. -/
def l1Put (ln : Nat) (inst : Bool) (s : State) (n : Nat) : State :=
  let l := tget [] (if inst then s.coh.l1i else s.coh.l1d) n
  if l.contains ln then s
  else match fullSet l1Array l ln with
    | [] => setL1 s inst n (ln :: l)
    | v :: vs => setL1 (pickLine s (v :: vs)).1 inst n (ln :: l.filter (· != (pickLine s (v :: vs)).2))

/-- Fill a line into one L1 array of each member, which all choose the same victim (R134, R159). -/
def l1Into (s : State) (a ln : Nat) (inst : Bool) : State := (l1Members s a).foldl (l1Put ln inst) s

/-- A load fills the line into the data L1 of every member. -/
def l1Fill (s : State) (a ln : Nat) : State := l1Into s a ln false

/-- Invalidate the instruction L1, and with `both` the data L1 as well, of every member (R160, R162). -/
def l1Invalidate (s : State) (a : Nat) (both : Bool) : State :=
  modCoh s (fun c => { c with
    l1i := (l1Members s a).foldl (fun t n => tset t n []) c.l1i
    l1d := if both then (l1Members s a).foldl (fun t n => tset t n []) c.l1d else c.l1d })

def l2Holds (x : L2St) : Bool :=
  match x with
  | .st _ | .smG _ | .xiA _ | .xiN | .xiW _ => true
  | .i | .isD | .imD => false

def setL2 (s : State) (a ln : Nat) (x : L2Line) : State :=
  let s1 := modCoh s (fun c => { c with
    l2 := if x.st = .i then tdel c.l2 (l2Key a ln) else tset c.l2 (l2Key a ln) x })
  if l2Holds x.st then s1 else l1Drop s1 a ln

def setL2St (s : State) (a ln : Nat) (x : L2St) : State := setL2 s a ln { l2Line s a ln with st := x }

/-! ## Homes -/

def homeOf (s : State) (ln : Nat) : Home := tget {} s.coh.homes ln
def modHome (s : State) (ln : Nat) (f : Home → Home) : State :=
  modCoh s (fun c => { c with homes := tmod {} c.homes ln f })
def setHomeSt (s : State) (ln : Nat) (x : HomeSt) : State := modHome s ln (fun h => { h with st := x })

/-- Domain number of a stack. -/
def stackDomain (j : Nat) : Nat := 32 + j

/-- A packet reaches a domain by its number: one that sleeps starts its wake, and later packets wait at its boundary (R229). In M9 vectors do
not wake a trio (R230). -/
def domainPacket (s : State) (k : Nat) : State :=
  let put := fun (w : Wake) => modNet s (fun n => { n with domains := tset n.domains k w })
  match tget .awake s.net.domains k with
  | .awake => s
  | .asleep =>
    if s.mode.parkCond ∧ 64 ≤ k then s
    else
      let s1 := put (.waking (pip s) 1)
      if k < 32 ∧ (eng s k).state = .sleep then modEng s1 k (fun x => { x with state := .waking }) else s1
  | .waking p n => put (.waking p (n + 1))

/-- The stack of a line sleeps or is waking. -/
def lineAsleep (s : State) (ln : Nat) : Bool :=
  match stackOf s (ln * 128) with
  | some j => decide (tget .awake s.net.domains (stackDomain j) ≠ .awake)
  | none => false

/-- A packet for the stack of a line. -/
def linePacket (s : State) (ln : Nat) : State := match stackOf s (ln * 128) with | some j => domainPacket s (stackDomain j) | none => s

/-- Write a line to its stack or CXL device; a write to a fenced stack or a lost device is dropped and counted (R206, R215). -/
def memWriteLine (s0 : State) (ln : Nat) (l : Line) : State :=
  let s := linePacket s0 ln
  match cxlPortOf (ln * 128) with
  | some k =>
    if (cxlPort s k).lost then
      report (modCxl s k (fun p => { p with droppedWb := p.droppedWb + 1 })) (Pt.cxlWbLost k) (ln % 65536)
    else { s with mem := Memory.setLine s.mem ln (cxlLine (ln * 128) l) }
  | none => match stackOf s (ln * 128) with
    | some j =>
      if (stack s j).state = .fenced then modStack s j (fun x => { x with droppedWrites := x.droppedWrites + 1 })
      else { s with mem := Memory.setLine s.mem ln l }
    | none => s

/-- What the home reads: its L3 copy, or memory. -/
def homeData (s : State) (ln : Nat) : Line :=
  match (homeOf s ln).l3 with
  | some l => l
  | none => Memory.line s.mem ln

/-- L3 takes a clean copy of what the home reads. -/
def fillL3 (s : State) (ln : Nat) : State := modHome s ln (fun h => { h with l3 := some (homeData s ln) })

def writeL3 (s : State) (ln : Nat) (l : Line) : State :=
  modHome s ln (fun h => { h with l3 := some (cxlLine (ln * 128) l), l3Dirty := true })

/-- A modified L3 copy is written to memory (R164, R188). -/
def cleanL3 (s : State) (ln : Nat) : State :=
  let h := homeOf s ln
  match h.l3 with
  | some l => if h.l3Dirty then modHome (memWriteLine s ln l) ln (fun h => { h with l3Dirty := false }) else s
  | none => s

def dropL3 (s : State) (ln : Nat) : State := modHome s ln (fun h => { h with l3 := none, l3Dirty := false })

/-! ## Messages -/

def sendAll (s : State) (ms : List CohMsg) : State :=
  modCoh s (fun c => { c with net := c.net ++ ms.map (fun m => { m with since := pip s }) })

def send (s : State) (m : CohMsg) : State := sendAll s [m]

/-- The virtual channels (R223). -/
inductive Vc where
  | request | response | express | management
deriving DecidableEq, Repr

/-- The virtual channel of a message; an express channel's RdShared and WrLine go on VC2 (R167, R223). -/
def vcOf (k : MsgKind) (express : Bool) : Vc :=
  match k with
  | .rdShared | .wrLine => if express then .express else .request
  | .rdOwn | .upgrade | .amoReq => .request
  | .fwdShared | .fwdOwn | .inval => .express
  | .wbDirty | .wbClean | .evictNote | .invalAck | .data | .dataAtHome | .dataExcl | .cmp | .cmpAtHome | .nack | .amoRsp => .response

/-- The message goes to the home of its line. -/
def toHome (k : MsgKind) : Bool :=
  match k with
  | .rdShared | .rdOwn | .upgrade | .amoReq | .wrLine | .wbDirty | .wbClean | .evictNote | .invalAck | .dataAtHome | .cmpAtHome => true
  | .fwdShared | .fwdOwn | .inval | .data | .dataExcl | .cmp | .nack | .amoRsp => false

/-- The row of a message in R167, which DETAIL carries (R516). -/
def msgNo (k : MsgKind) : Nat :=
  match k with
  | .rdShared => 0 | .rdOwn => 1 | .upgrade => 2 | .amoReq => 3 | .wrLine => 4 | .wbDirty => 5 | .wbClean => 6
  | .evictNote => 7 | .fwdShared => 8 | .fwdOwn => 9 | .inval => 10 | .invalAck => 11 | .data => 12 | .dataAtHome => 12
  | .dataExcl => 13 | .cmp => 14 | .cmpAtHome => 14 | .nack => 15 | .amoRsp => 16

/-- An impossible message is discarded and reported on the line's home slice (R170, R516). -/
def impossible (s : State) (k : MsgKind) (agent ln : Nat) (atHome : Bool) : State :=
  report s (Pt.cohProtocol (homeSlice s ln)) (agent + 256 * msgNo k + (if atHome then 0x2000 else 0))

/-- The two halves of the agents; I/O dies lie in neither. -/
def agentHalf (a : Nat) : Nat := a / 64

/-! ## Requests and their credits (R166, R226) -/

/-- What kind of answer a request draws: 0 data or a grant for the line, 1 the Cmp of a maintenance request, 2 AmoRsp, 3 an I/O
read's Data, 4 a WrLine's Cmp. -/
def answerKind (r : HomeReq) : Nat :=
  match r with
  | .rdShared _ nc => if nc then 3 else 0
  | .rdOwn .. | .upgrade .. => 0
  | .maint _ m => if m = .none then 0 else 1
  | .amo .. => 2
  | .wrLine .. => 4
  | .victim => 5

/-- Request credits of an agent at each home slice: 4 of a voted L2, 2 of each split half, 8 of an I/O die, and 4 express slots of an I/O
die for VC2 (R166, R226). -/
def creditsOf (s : State) (a : Nat) (express : Bool) : Nat :=
  if 128 ≤ a then (if express then 4 else 8) else if (trio s (a / 2)).state = .split then 2 else 4

/-- Credits of an agent that its outstanding requests hold at a slice. -/
def creditsHeld (s : State) (a sl : Nat) (express : Bool) : Nat :=
  (s.coh.out.filter (fun o => o.agent == a && o.express == express && homeSlice s o.line == sl)).length

/-- A credit at the line's home is free. Each credit stands for a receive buffer of the agent too (R226). -/
def hasCredit (s : State) (o : OutReq) : Bool :=
  decide (creditsHeld s o.agent (homeSlice s o.line) o.express < creditsOf s o.agent o.express)

/-- The outstanding request of an agent for a line that an answer of this kind ends. -/
def outFor (s : State) (a ln k : Nat) : Option OutReq :=
  s.coh.out.find? (fun o => o.agent == a && o.line == ln && answerKind o.r == k)

/-- The final response returns the credit (R226). -/
def returnCredit (s : State) (a ln k : Nat) : State :=
  match outFor s a ln k with
  | some o => modCoh s (fun c => { c with out := c.out.erase o })
  | none => s

/-- A core's own request for a line is outstanding or waits for its credit. -/
def coreAsks (s : State) (c ln : Nat) : Bool :=
  (s.coh.out ++ s.coh.held).any (fun o => o.core && o.agent == c && o.line == ln)

/-- The waiting access of a core gets the answer to its request. -/
def coreReply (s : State) (c ln : Nat) (isolated : Bool) : State :=
  match (lcore s c).wait with
  | some (k, _) => if k = ln then modLCore s c (fun l => { l with reply := some isolated }) else s
  | none => s

/-! ## The placement predictor (R182) -/

/-- Index into an L2's predictor counters (R182). -/
def predIndex (pa : Nat) : Nat := (pa / 2 ^ 7 % 4096) ^^^ (pa / 2 ^ 19 % 4096)

def predKey (a pa : Nat) : Nat := a * 4096 + predIndex pa

/-- A counter; each is 0b01 when the module enters the predictor modes. -/
def predOf (s : State) (a pa : Nat) : Nat := tget 1 s.coh.pred (predKey a pa)

def predMove (s : State) (a pa : Nat) (up : Bool) : State :=
  let p := predOf s a pa
  modCoh s (fun x => { x with pred := tset x.pred (predKey a pa) (if up then min (p + 1) 3 else p - 1) })

/-- The AmoRsp of an agent's AmoReq: the credit returns, CONT moves the counter of a placed one, and the replay buffer of the core that
waits takes the old word and the status (R139, R182). -/
def amoAnswer (s : State) (m : CohMsg) : State :=
  match outFor s m.agent m.line 2 with
  | none => impossible s .amoRsp m.agent m.line false
  | some o =>
    let s1 := returnCredit s m.agent m.line 2
    let s2 := match o.r with
      | .amo a pa _ => if o.learn then predMove s1 a pa m.cont else s1
      | _ => s1
    if o.core then
      modLCore s2 m.agent (fun l => { l with
        replay := l.replay.map (fun r => if r.amo.isSome then { r with arrived := true, value := m.old, status := m.status } else r) })
    else s2

/-! ## The cache side (R172, R173) -/

/-- How stable state X answers a FwdShared: the messages and its next state; `evicting` chooses the two right-hand columns
of R173. -/
def answerFwdShared (x : L2Stable) (v : FwdVariant) (evicting : Bool) (a ln req : Nat) (d : Line) :
    Option (List CohMsg × L2Stable) :=
  let toReq : CohMsg := { kind := .data, agent := req, line := ln, data := d, src := some a }
  let dataHome : CohMsg := { kind := .dataAtHome, agent := a, line := ln, data := d }
  let cmpHome : CohMsg := { kind := .cmpAtHome, agent := a, line := ln }
  match v, x with
  | .plain, .s => none
  | .plain, .f => some ([toReq, cmpHome], .s)
  | .plain, .e => some ([toReq, dataHome], .s)
  | .plain, .m => some ([toReq, dataHome], .s)
  | .nc, .e => some ([toReq, cmpHome], .e)
  | .nc, .m => some ([toReq, if evicting then dataHome else cmpHome], .m)
  | .clean, .e => some ([cmpHome], .e)
  | .clean, .m => some ([dataHome], .e)
  | _, _ => none

def answerFwdOwn (x : L2Stable) (a ln req : Nat) (d : Line) : Option (List CohMsg) :=
  match x with
  | .e | .m => some [{ kind := .dataExcl, agent := req, line := ln, data := d, src := some a }]
  | .s | .f => none

def answerInval (x : L2Stable) (a ln : Nat) (d : Line) : List CohMsg :=
  match x with
  | .m => [{ kind := .dataAtHome, agent := a, line := ln, data := d }]
  | _ => [{ kind := .invalAck, agent := a, line := ln }]

/-- A message received by the L2 of agent `m.agent` (R172, R173). -/
def l2Recv (s : State) (m : CohMsg) : State :=
  let a := m.agent
  let ln := m.line
  let l := l2Line s a ln
  let bad := impossible s m.kind a ln false
  let cmpHome : CohMsg := { kind := .cmpAtHome, agent := a, line := ln }
  let granted := returnCredit s a ln 0
  if 128 ≤ a then (match m.kind with | .data => returnCredit s a ln 3 | .cmp => returnCredit s a ln 4 | _ => bad)
  else if m.kind = .amoRsp then amoAnswer s m
  else if m.toRequest then
    (match outFor s a ln 1 with
     | some o => (let s1 := returnCredit s a ln 1; if o.core then coreReply s1 a ln false else s1)
     | none => s)
  else match m.kind with
  | .data => match l.st with
    | .isD => send (setL2 granted a ln { st := .st .f, data := m.data }) cmpHome
    | _ => bad
  | .dataExcl => match l.st with
    | .isD => send (setL2 granted a ln { st := .st .e, data := m.data }) cmpHome
    | .imD => send (setL2 granted a ln { st := .st .m, data := if l.zero then Line.zero else m.data }) cmpHome
    | _ => bad
  | .cmp => match l.st with
    | .imD => if l.zero then send (setL2 granted a ln { st := .st .m, data := Line.zero }) cmpHome else bad
    | .smG _ => send (setL2 granted a ln { st := .st .m, data := if l.zero then Line.zero else l.data }) cmpHome
    | .xiA _ => setL2 s a ln {}
    | _ => bad
  | .nack => match l.st with
    | .xiA x => setL2St s a ln (.xiW x)
    | .xiN => setL2 s a ln {}
    | _ => bad
  | .fwdShared => match l.st with
    | .st x => (match answerFwdShared x m.variant false a ln m.req l.data with
      | some (ms, y) => sendAll (setL2St s a ln (.st y)) ms
      | none => bad)
    | .smG true => if m.variant = .plain then
        sendAll (setL2St s a ln (.smG false)) [{ kind := .data, agent := m.req, line := ln, data := l.data, src := some a }, cmpHome]
        else bad
    | .xiA x => (match answerFwdShared x m.variant true a ln m.req l.data with
      | some (ms, _) => sendAll (setL2St s a ln .xiN) ms
      | none => bad)
    | .xiW x => (match answerFwdShared x m.variant true a ln m.req l.data with
      | some (ms, _) => sendAll (setL2 s a ln {}) ms
      | none => bad)
    | _ => bad
  | .fwdOwn => match l.st with
    | .st x => (match answerFwdOwn x a ln m.req l.data with
      | some ms => sendAll (setL2 s a ln {}) ms
      | none => bad)
    | .xiA x => (match answerFwdOwn x a ln m.req l.data with
      | some ms => sendAll (setL2St s a ln .xiN) ms
      | none => bad)
    | .xiW x => (match answerFwdOwn x a ln m.req l.data with
      | some ms => sendAll (setL2 s a ln {}) ms
      | none => bad)
    | _ => bad
  | .inval => match l.st with
    | .st x => sendAll (setL2 s a ln {}) (answerInval x a ln l.data)
    | .smG _ => send (setL2 s a ln { st := .imD, zero := l.zero }) { kind := .invalAck, agent := a, line := ln }
    | .xiA x => sendAll (setL2St s a ln .xiN) (answerInval x a ln l.data)
    | .xiW x => sendAll (setL2 s a ln {}) (answerInval x a ln l.data)
    | _ => bad
  | _ => bad

/-! ## The home side (R175-R177) -/

/-- Send Inval to every agent of a list. -/
def invalAll (s : State) (ln : Nat) (l : List Nat) : State :=
  sendAll s (l.map (fun a => { kind := .inval, agent := a, line := ln }))

/-- Carry out a take once every copy is gathered (R164, R178, R181, R188); the line ends in I. -/
def performTake (s : State) (ln : Nat) (r : HomeReq) : State :=
  let s0 := setHomeSt s ln (.st .i)
  let h := homeOf s0 ln
  match r with
  | .wrLine d bs mask alloc =>
    let l := cxlLine (ln * 128) (mergeLine (homeData s0 ln) bs mask)
    let s1 :=
      if alloc then writeL3 s0 ln l
      else
        let s1 := memWriteLine s0 ln l
        (match h.l3 with
         | some _ => modHome s1 ln (fun h => { h with l3 := some l, l3Dirty := false })
         | none => s1)
    send s1 { kind := .cmp, agent := 128 + d, line := ln, toRequest := true }
  | .amo a pa x =>
    let l := homeData s0 ln
    let k := wordOf pa % 16
    let c := lineWord l k
    let cont := !h.queue.isEmpty
    let rsp := fun (st : AmoStatus) =>
      ({ kind := .amoRsp, agent := a, line := ln, old := c.w, status := st, cont := cont, toRequest := true } : CohMsg)
    let s1 := fillL3 s0 ln
    match amoOn (isCxl pa) x c with
    | (st, some w) => send (writeL3 s1 ln (lineSet l k { w := untagIf (isCxl pa) w, poison := false })) (rsp st)
    | (st, none) => send s1 (rsp st)
  | .maint a _ => send (dropL3 (cleanL3 s0 ln) ln) { kind := .cmp, agent := a, line := ln, toRequest := true }
  | _ => s0

def isInv (r : HomeReq) : Bool := match r with | .maint _ .inv => true | _ => false

/-- RdOwn, and an Upgrade of an agent that is no sharer, at a stable home. -/
def homeRdOwn (s : State) (ln : Nat) (a : Nat) (zero : Bool) (x : HStable) : State :=
  match x with
  | .i =>
    let s1 := setHomeSt s ln (.bC a (.em a))
    if zero then send s1 { kind := .cmp, agent := a, line := ln }
    else send s1 { kind := .dataExcl, agent := a, line := ln, data := homeData s ln }
  | .s sh _ => invalAll (setHomeSt s ln (.bA sh (.rdOwn a zero) false)) ln sh
  | .em o => send (setHomeSt s ln (.bOC o a)) { kind := .fwdOwn, agent := o, line := ln, req := a }

def homeTake (s : State) (ln : Nat) (r : HomeReq) (x : HStable) : State :=
  match x with
  | .i => performTake s ln r
  | .s sh _ => if sh.isEmpty then performTake s ln r else invalAll (setHomeSt s ln (.bA sh r false)) ln sh
  | .em o => send (setHomeSt s ln (.bR o r)) { kind := .inval, agent := o, line := ln }

/-- A request taken by a home in stable state `x` (R175, R176, R179, R188). -/
def homeRequest (s : State) (ln : Nat) (r : HomeReq) (x : HStable) : State :=
  match r with
  | .rdShared a nc =>
    (match x with
     | .i =>
       if nc then send s { kind := .data, agent := a, line := ln, data := homeData s ln }
       else send (setHomeSt s ln (.bC a (.em a))) { kind := .dataExcl, agent := a, line := ln, data := homeData s ln }
     | .s sh f =>
       if nc then send s { kind := .data, agent := a, line := ln, data := homeData s ln }
       else
         let fromF := match f with
           | some o => if agentHalf o = agentHalf a ∧ homeHalf s ln ≠ agentHalf a then some o else none
           | none => none
         (match fromF with
          | some o => send (setHomeSt s ln (.bFC o false false r x []))
              { kind := .fwdShared, agent := o, line := ln, req := a }
          | none => send (setHomeSt s ln (.bC a (.s (a :: sh.filter (· != a)) (some a))))
              { kind := .data, agent := a, line := ln, data := homeData s ln })
     | .em o => send (setHomeSt s ln (.bFC o false nc r x []))
         { kind := .fwdShared, agent := o, line := ln, req := a, variant := if nc then .nc else .plain })
  | .rdOwn a zero => homeRdOwn s ln a zero x
  | .upgrade a zero =>
    (match x with
     | .s sh _ =>
       if sh.contains a then
         let others := sh.filter (· != a)
         if others.isEmpty then send (setHomeSt s ln (.bC a (.em a))) { kind := .cmp, agent := a, line := ln }
         else invalAll (setHomeSt s ln (.bA others r true)) ln others
       else homeRdOwn s ln a zero x
     | _ => homeRdOwn s ln a zero x)
  | .maint a .clean =>
    (match x with
     | .em o => send (setHomeSt s ln (.bFC o false true r x []))
         { kind := .fwdShared, agent := o, line := ln, req := a, variant := .clean }
     | _ => send (cleanL3 s ln) { kind := .cmp, agent := a, line := ln, toRequest := true })
  | .maint a .none => homeRdOwn s ln a false x
  | .maint _ .flush => homeTake s ln r x
  | .maint _ .inv => homeTake s ln r x
  | .wrLine .. => homeTake s ln r x
  | .amo .. => homeTake s ln r x
  | .victim => homeTake s ln r x

/-- A request at a home in I without an L3 copy needs the line from a stack that sleeps: it waits for the stack's wake (R229). -/
def needsStack (s : State) (ln : Nat) (r : HomeReq) (x : HStable) : Bool :=
  lineAsleep s ln && (homeOf s ln).l3.isNone && decide (x = .i) &&
  (match r with
   | .rdShared .. | .amo .. | .wrLine .. => true
   | .rdOwn _ zero | .upgrade _ zero => !zero
   | .maint .. | .victim => false)

/-- While the home is stable it takes the head of the line's queue (R169, R175). -/
def drainFrom : Nat → State → Nat → State
  | 0, s, _ => s
  | n + 1, s, ln =>
    let h := homeOf s ln
    match h.st, h.queue with
    | .st x, r :: rs =>
      if needsStack s ln r x then s else drainFrom n (homeRequest (modHome s ln (fun h => { h with queue := rs })) ln r x) ln
    | _, _ => s

def drainHome (s : State) (ln : Nat) : State := drainFrom (homeOf s ln).queue.length s ln

/-- A request reaches the home in its slot: it waits its turn in the line's queue, and a stable home takes it at once (R169). -/
def homeRecvReq (s : State) (ln : Nat) (r : HomeReq) : State :=
  let s1 := modHome s ln (fun h => { h with queue := h.queue ++ [r] })
  match (homeOf s ln).st with
  | .st x => if needsStack s ln r x then linePacket s1 ln else drainHome s1 ln
  | _ => s1

/-- The home becomes stable in `x`, and takes what waits. -/
def homeBecomes (s : State) (ln : Nat) (x : HStable) : State := drainHome (setHomeSt s ln (.st x)) ln

def dropSharer (x : HStable) (a : Nat) : HStable :=
  match x with
  | .s sh f =>
    let r := sh.filter (· != a)
    if r.isEmpty then .i else .s r (if f = some a then none else f)
  | .em o => if o = a then .i else x
  | .i => .i

def dropSharers (x : HStable) (l : List Nat) : HStable := l.foldl dropSharer x

def holdsIn (x : HStable) (a : Nat) : Bool :=
  match x with
  | .i => false
  | .s sh _ => sh.contains a
  | .em o => o == a

/-- The line's CXL device is lost: what is written back to it is dropped (R215). -/
def deviceLost (s : State) (ln : Nat) : Bool := match cxlPortOf (ln * 128) with | some k => (cxlPort s k).lost | none => false

/-- What an eviction does to a stable state that records its sender: the owner's data is written to L3, or dropped for a lost device; a
sharer is removed. -/
def applyEvict (s : State) (ln : Nat) (m : CohMsg) : State :=
  let s1 := match m.kind with
    | .wbDirty => if deviceLost s ln then memWriteLine s ln m.data else writeL3 s ln m.data
    | .wbClean => modHome s ln (fun h => { h with l3 := some m.data })
    | _ => s
  send s1 { kind := .cmp, agent := m.agent, line := ln }

/-- Whether a stable home applies this eviction: WbDirty and WbClean from the owner, EvictNote in S (R175). -/
def evictFits (x : HStable) (m : CohMsg) : Bool :=
  match x with
  | .i => false
  | .s _ _ => m.kind = .evictNote
  | .em o => m.kind ≠ .evictNote && o == m.agent

/-- The requester that a request's answers go to. -/
def reqAgent (r : HomeReq) : Nat :=
  match r with
  | .rdShared a _ | .rdOwn a _ | .upgrade a _ | .maint a _ | .amo a _ _ => a
  | .wrLine d .. => 128 + d
  | .victim => 256

/-- An eviction reaches the home; never queued (R169, R175, R177). In B_FC a forwarder that has answered and a requester whose Cmp is
noted evict what they then hold. -/
def homeEvict (s : State) (m : CohMsg) : State :=
  let ln := m.line
  let a := m.agent
  let bad := impossible s m.kind a ln true
  let nack : CohMsg := { kind := .nack, agent := a, line := ln }
  match (homeOf s ln).st with
  | .st x => if evictFits x m then homeBecomes (applyEvict s ln m) ln (dropSharer x a) else bad
  | .bC req nx =>
    if evictFits nx m && holdsIn nx a && a != req then setHomeSt (applyEvict s ln m) ln (.bC req (dropSharer nx a)) else bad
  | .bFC fwd fd rd r base gone =>
    if a = fwd ∧ fd = false then send (setHomeSt s ln (.bFC fwd fd rd r base (a :: gone))) nack
    else if m.kind = .evictNote ∧ (a = fwd ∨ a = reqAgent r ∧ rd = true) then
      setHomeSt (applyEvict s ln m) ln (.bFC fwd fd rd r base (a :: gone))
    else if evictFits base m then setHomeSt (applyEvict s ln m) ln (.bFC fwd fd rd r (dropSharer base a) gone)
    else bad
  | .bOC o _ => if a = o ∧ m.kind ≠ .evictNote then send s nack else bad
  | .bA ts _ _ => if ts.contains a then send s nack else if m.kind = .evictNote then applyEvict s ln m else bad
  | .bR o _ => if a = o ∧ m.kind ≠ .evictNote then send s nack else bad

/-- The next stable state once B_FC has every reply it awaits (R175). -/
def fwdDone (s : State) (ln : Nat) (r : HomeReq) (base : HStable) (gone : List Nat) : State :=
  match r with
  | .rdShared a false =>
    let old := match base with
      | .em o => [o]
      | .s sh _ => sh
      | .i => []
    homeBecomes s ln (dropSharers (.s (a :: old.filter (· != a)) (some a)) gone)
  | .rdShared _ true => homeBecomes s ln (dropSharers base gone)
  | .maint a _ =>
    let s1 := send (cleanL3 s ln) { kind := .cmp, agent := a, line := ln, toRequest := true }
    homeBecomes s1 ln (dropSharers base gone)
  | _ => homeBecomes s ln base

def homeInvalAck (s : State) (a ln : Nat) : State :=
  let bad := impossible s .invalAck a ln true
  match (homeOf s ln).st with
  | .bA ts r upg =>
    if ts.contains a then
      let rest := ts.filter (· != a)
      if rest.isEmpty then
        (match r with
         | .rdOwn q zero =>
           let s1 := setHomeSt s ln (.bC q (.em q))
           if zero then send s1 { kind := .cmp, agent := q, line := ln }
           else send s1 { kind := .dataExcl, agent := q, line := ln, data := homeData s ln }
         | .upgrade q _ => send (setHomeSt s ln (.bC q (.em q))) { kind := .cmp, agent := q, line := ln }
         | .maint q .none =>
           send (setHomeSt s ln (.bC q (.em q))) { kind := .dataExcl, agent := q, line := ln, data := homeData s ln }
         | _ => drainHome (performTake s ln r) ln)
      else setHomeSt s ln (.bA rest r upg)
    else bad
  | .bR o r => if a = o then drainHome (performTake s ln r) ln else bad
  | _ => bad

def homeDataRecv (s : State) (m : CohMsg) : State :=
  let ln := m.line
  let bad := impossible s .dataAtHome m.agent ln true
  match (homeOf s ln).st with
  | .bFC fwd fd rd r base gone =>
    if m.agent = fwd ∧ fd = false then
      let s1 := writeL3 s ln m.data
      if rd then fwdDone s1 ln r base gone else setHomeSt s1 ln (.bFC fwd true rd r base gone)
    else bad
  | .bR o r =>
    if m.agent = o then
      let s1 := if isInv r then s else writeL3 s ln m.data
      drainHome (performTake s1 ln r) ln
    else bad
  | _ => bad

def homeCmpRecv (s : State) (a ln : Nat) : State :=
  let bad := impossible s .cmpAtHome a ln true
  match (homeOf s ln).st with
  | .bC req nx => if a = req then homeBecomes s ln nx else bad
  | .bFC fwd fd rd r base gone =>
    if a = fwd ∧ fd = false then
      if rd then fwdDone s ln r base gone else setHomeSt s ln (.bFC fwd true rd r base gone)
    else if a = reqAgent r ∧ rd = false then
      if fd then fwdDone s ln r base gone else setHomeSt s ln (.bFC fwd fd true r base gone)
    else bad
  | .bOC _ req => if a = req then homeBecomes s ln (.em req) else bad
  | _ => bad

/-! ## ISOLATED answers (R233-R235) -/

/-- A request completes at its requester with ISOLATED: its credit returns, the requesting L2 holds no line of it, and the access of a core
that waits is told (R234). -/
def isoEnd (s : State) (r : HomeReq) (ln : Nat) : State :=
  let a := reqAgent r
  let k := answerKind r
  match outFor s a ln k with
  | none => s
  | some o =>
    let s1 := returnCredit s a ln k
    let s2 := match (l2Line s1 a ln).st with
      | .isD | .imD | .smG _ => if k = 0 then setL2 s1 a ln {} else s1
      | _ => s1
    if !o.core then s2
    else if (lcore s2 a).replay.any (fun p => p.amo.any (fun w => lineOf w.pa == ln)) then
      modLCore s2 a (fun l => { l with replay := l.replay.map (fun p => { p with arrived := true, isolated := true }) })
    else coreReply s2 a ln true

/-- A home's forward or Inval to an agent behind a hull is answered ISOLATED: an Inval counts as acknowledged, and a request that needed
the agent's data completes with ISOLATED (R234; LOG 121). -/
def homeAnswerIso (s : State) (a ln : Nat) : State :=
  match (homeOf s ln).st with
  | .bA ts _ _ => if ts.contains a then homeInvalAck s a ln else s
  | .bFC fwd fd _ r base _ => if a = fwd ∧ fd = false then homeBecomes (isoEnd s r ln) ln (dropSharer base a) else s
  | .bOC o q => if a = o then homeBecomes (isoEnd s (.rdOwn q false) ln) ln .i else s
  | .bR o r => if a = o then homeBecomes (isoEnd s r ln) ln .i else s
  | _ => s

/-! ## Messages on their way -/

/-- Half-to-half links that are up. -/
def d2dUp (s : State) : Nat := ((List.range 4).filter (fun i => (link s i).up)).length

/-- The half-to-half link that carries every message about a line: one of those that are up, by a hash of the line (R220; LOG 120). -/
def lineLink (s : State) (ln : Nat) : Nat :=
  match (List.range 4).filter (fun i => (link s i).up) with
  | [] => Config.linkHash ln % 4
  | l => l.getD (Config.linkHash ln % l.length) 0

/-- Hull positions of an agent: its own and its die's. -/
def agentHulls (a : Nat) : List Nat := if 128 ≤ a then [HullAt.die (2 + (a - 128))] else [HullAt.l2 a, HullAt.die (a / 64)]

def homeHulls (s : State) (ln : Nat) : List Nat := [HullAt.l3 (homeSlice s ln), HullAt.die (homeHalf s ln)]

/-- Where a message comes from and where it goes: hull positions and half (2 and more: an I/O die). -/
def msgFrom (s : State) (m : CohMsg) : List Nat × Nat :=
  if toHome m.kind then (agentHulls m.agent, agentHalf m.agent)
  else match m.src with
    | some a => (agentHulls a, agentHalf a)
    | none => (homeHulls s m.line, homeHalf s m.line)

def msgTo (s : State) (m : CohMsg) : List Nat × Nat :=
  if toHome m.kind then (homeHulls s m.line, homeHalf s m.line) else (agentHulls m.agent, agentHalf m.agent)

def crosses (s : State) (m : CohMsg) : Bool :=
  let a := (msgFrom s m).2
  let b := (msgTo s m).2
  decide (a < 2 ∧ b < 2 ∧ a ≠ b)

/-- Count at the first hull in place of some positions. -/
def atHull (s : State) (l : List Nat) (f : Hull → Hull) : State :=
  match l.find? (fun h => (hull s h).active) with
  | some h => modHull s h f
  | none => s

/-- An access from half `h` is answered ISOLATED at a hull, which counts it (R233). -/
def countIso (s : State) (h ln : Nat) : State :=
  let unit := match cxlPortOf (ln * 128) with
    | some k => [HullAt.cxl k, HullAt.die (2 + k / 2)]
    | none => (match stackOf s (ln * 128) with | some j => [HullAt.stack j] | none => [])
  let link := if h < 2 ∧ h ≠ homeHalf s ln then [HullAt.d2d (lineLink s ln)] else []
  atHull s (link ++ homeHulls s ln ++ unit) (fun x => { x with isoCount := x.isoCount + 1 })

/-- An eviction whose home does not answer drops the line and reports WB_ISOLATED (R235). -/
def evictIsolated (s : State) (a ln : Nat) : State :=
  report (setL2 (countIso s (agentHalf a) ln) a ln {}) (Pt.wbIsolated (agentHalf a)) (ln % 65536)

/-- An eviction of a line is answered ISOLATED: its home does not answer, or no device lies there (R212, R235). -/
def evictDead (s : State) (a ln : Nat) : Bool := homeDead s (agentHalf a) ln || cxlUnmapped s ln

def removeMsg (s : State) (m : CohMsg) : State := modCoh s (fun c => { c with net := c.net.erase m })

/-- Deliver one message. -/
def deliver (s : State) (m : CohMsg) : State :=
  match m.kind with
  | .invalAck => homeInvalAck s m.agent m.line
  | .dataAtHome => homeDataRecv s m
  | .cmpAtHome => homeCmpRecv s m.agent m.line
  | .wbDirty | .wbClean | .evictNote => homeEvict s m
  | _ => l2Recv s m

/-- A message moves: one from a dead target is discarded and counted in LATE, one for a dead target is dropped and counted, a forward or
Inval for it is answered ISOLATED, and one that must cross while no link is up stays where it is (R220, R233, R234). -/
def move (s : State) (m : CohMsg) : Option State :=
  let s1 := removeMsg s m
  let cut := crosses s m && targetDead s (HullAt.d2d (lineLink s m.line))
  let gone := (msgTo s m).1 ++ (if cut then [HullAt.d2d (lineLink s m.line)] else [])
  if (msgFrom s m).1.any (targetDead s) then
    some (atHull s1 (msgFrom s m).1 (fun x => { x with late := x.late + 1 }))
  else if cut || (msgTo s m).1.any (targetDead s) then
    (match m.kind with
     | .fwdShared | .fwdOwn | .inval => some (homeAnswerIso (atHull s1 gone (fun x => { x with isoCount := x.isoCount + 1 })) m.agent m.line)
     | .wbDirty | .wbClean | .evictNote => some (evictIsolated s1 m.agent m.line)
     | _ => some (atHull s1 gone (fun x => { x with dropped := x.dropped + 1 })))
  else if crosses s m && d2dUp s == 0 then none
  else some (deliver s1 m)

/-- Deliver a line's messages, oldest first, until none can move. -/
def runLine : Nat → State → Nat → State
  | 0, s, _ => s
  | n + 1, s, ln =>
    match s.coh.net.findSome? (fun m => if m.line == ln then move s m else none) with
    | none => s
    | some s1 => runLine n s1 ln

/-- Messages of one transaction: at most an Inval and an answer for each agent, and the grant. -/
def lineFuel : Nat := 400

/-- The message in flight of a kind, agent and line, oldest first. -/
def inFlight (s : State) (k : MsgKind) (a ln : Nat) : Option CohMsg :=
  s.coh.net.find? (fun m => m.kind = k && m.agent == a && m.line == ln)

/-- A message arrives, after what its sender sent before it on VC1 to the same home about the same line (R168). -/
def arriveInOrder (s : State) (m : CohMsg) : State :=
  let older := (s.coh.net.takeWhile (· != m)).filter (fun x => toHome m.kind && toHome x.kind && x.agent == m.agent && x.line == m.line)
  (older ++ [m]).foldl (fun s x => (move s x).getD s) s

/-! ## Lines in transition -/

def l2Transient (x : L2St) : Bool := match x with | .i | .st _ => false | _ => true

/-- The L2 is giving the line up. -/
def l2Leaving (x : L2St) : Bool := match x with | .xiA _ | .xiN | .xiW _ => true | _ => false

/-- The line is stable everywhere: at its home, in every L2, with nothing in flight. -/
def quiet (s : State) (ln : Nat) : Bool :=
  (match (homeOf s ln).st with | .st _ => true | _ => false) && (homeOf s ln).queue.isEmpty &&
  s.coh.net.all (fun m => m.line != ln) &&
  s.coh.l2.all (fun e => !(e.1 % 2 ^ 45 == ln && l2Transient e.2.st))

/-- The line as the L2 holds it. -/
def l2Data (s : State) (a ln : Nat) : Line := (l2Line s a ln).data

/-- Store a word into a line that the L2 holds in M. -/
def l2Store (s : State) (a ln k : Nat) (c : CWord) : State :=
  let l := l2Line s a ln
  setL2 s a ln { l with st := .st .m, data := lineSet l.data k c }

/-- Lines of an L2, by the state that holds them. -/
def linesOf (s : State) (a : Nat) (f : L2St → Bool) : List Nat :=
  (s.coh.l2.filter (fun e => decide (e.1 / 2 ^ 45 = a) && f e.2.st)).map (fun e => e.1 % 2 ^ 45)

/-- The lines that an L2 holds in M. -/
def modifiedLines (s : State) (a : Nat) : List Nat := linesOf s a (fun x => decide (x = .st .m))

/-- Every line that an L2 holds in a stable state. -/
def heldLines (s : State) (a : Nat) : List Nat := linesOf s a (fun x => !l2Transient x)

/-! ## Room in L3 and in the directory (R164) -/

/-- The home invalidates every copy of a line that its L3 or directory gives up: a victim take, run to its end. -/
def victimTake (s : State) (ln : Nat) : State :=
  match (homeOf s ln).st with
  | .st .i => s
  | _ => runLine lineFuel (homeRecvReq s ln .victim) ln

/-- Homes of one slice with a property, but for `ln` and lines in transition. -/
def peersOf (s : State) (ln : Nat) (f : Home → Bool) : List Nat :=
  (s.coh.homes.filter (fun e => f e.2 && homeSlice s e.1 == homeSlice s ln)).map (·.1)

/-- L3 holds more lines in the set than it has ways: it drops one, written to memory if it is newer, after a victim take of its sharers; a
line in E or M needs no copy (R164; LOG 119). -/
def trimL3 (s : State) (ln : Nat) : State :=
  if s.coh.homes.length ≤ l3Array.ways then s
  else
    let l := fullSet l3Array ((peersOf s ln (fun h => h.l3.isSome)).filter (· != ln)) ln
    match if (homeOf s ln).l3.isSome then l.filter (quiet s) else [] with
    | [] => s
    | c =>
      let (s1, v) := pickLine s c
      let s2 := match (homeOf s1 v).st with | .st (.s _ _) => victimTake s1 v | _ => s1
      dropL3 (cleanL3 s2 v) v

/-- The directory has an entry for each line that an L2 holds; a full set gives one up by a victim take. -/
def trimDir (s : State) (ln : Nat) : State :=
  if s.coh.homes.length ≤ dirArray.ways then s
  else
    let used := fun (h : Home) => decide (h.st ≠ .st .i)
    match if used (homeOf s ln) then (fullSet dirArray ((peersOf s ln used).filter (· != ln)) ln).filter (quiet s) else [] with
    | [] => s
    | c => (let (s1, v) := pickLine s c; victimTake s1 v)

/-- Run a line's transaction to its end and make room for what it left. -/
def settleLine (s : State) (ln : Nat) : State := trimDir (trimL3 (runLine lineFuel s ln) ln) ln

/-! ## Evictions (R166, R172) -/

/-- The one entry of the eviction buffer at a line's slice is taken: an eviction of the agent is outstanding there (R166). -/
def evictBusy (s : State) (a ln : Nat) : Bool := (linesOf s a l2Leaving).any (fun k => homeSlice s k == homeSlice s ln)

/-- The eviction that an L2 in this stable state sends (R172). -/
def evictKind (x : L2Stable) : MsgKind := match x with | .s | .f => .evictNote | .e => .wbClean | .m => .wbDirty

/-- Replace at an L2: the message of the cache-side table and the XI_A state (R172). -/
def startEvict (s : State) (a ln : Nat) : State :=
  let l := l2Line s a ln
  match l.st with
  | .st x => send (setL2St s a ln (.xiA x)) { kind := evictKind x, agent := a, line := ln, data := l.data }
  | _ => s

/-- Evict a line: run to its end when nothing else was in flight for it; it stays while the agent has an eviction outstanding at the slice. -/
def evictRun (s : State) (a ln : Nat) : State :=
  if evictDead s a ln then evictIsolated s a ln
  else if evictBusy s a ln then s
  else if quiet s ln then settleLine (startEvict s a ln) ln
  else startEvict s a ln

/-- A way for a line that the L2 is to receive: the set has room, or a stable line leaves it; none where no line can leave (R159, R174; LOG
119). -/
def makeRoom (s : State) (a ln : Nat) : Option State :=
  match fullSet (l2Array s a) (linesOf s a (fun x => !l2Leaving x)) ln with
  | [] => some s
  | l => match l.filter (fun k => !l2Transient (l2Line s a k).st && !evictBusy s a k) with
    | [] => none
    | c => (let (s1, v) := pickLine s c; some (evictRun s1 a v))

/-! ## Requests (R167, R172, R226) -/

/-- The state in which a request leaves the line of its L2 (R172). -/
def requestState (s : State) (o : OutReq) : State :=
  let a := o.agent
  let l := l2Line s a o.line
  match o.r, l.st with
  | .rdShared _ false, .i => if a < 128 then setL2 s a o.line { st := .isD } else s
  | .rdOwn _ zero, .i => if a < 128 then setL2 s a o.line { st := .imD, zero := zero } else s
  | .upgrade _ zero, .st .s => setL2 s a o.line { l with st := .smG false, zero := zero }
  | .upgrade _ zero, .st .f => setL2 s a o.line { l with st := .smG true, zero := zero }
  | _, _ => s

/-- The L2 needs a way for the line it asks for. -/
def needsWay (s : State) (o : OutReq) : Bool :=
  decide (o.agent < 128) && decide ((l2Line s o.agent o.line).st = .i) &&
  (match o.r with | .rdShared _ nc => !nc | .rdOwn .. => true | _ => false)

/-- A request that is answered ISOLATED, at a hull or for want of a device (R212, R233). -/
def bounce (s : State) (o : OutReq) : State :=
  let s1 := countIso s (agentHalf o.agent) o.line
  isoEnd (modCoh s1 (fun c => { c with out := c.out ++ [o] })) o.r o.line

/-- Inject a request: only with its credit, a way for its line, and a link up where it crosses (R167, R220, R226); one
that a dead target would receive is answered ISOLATED. -/
def inject (s : State) (o : OutReq) : Option State :=
  let h := agentHalf o.agent
  if isolatedFrom s h o.line then some (bounce s o)
  else if !hasCredit s o || (decide (h < 2 ∧ h ≠ homeHalf s o.line) && d2dUp s == 0) then none
  else match (if needsWay s o then makeRoom s o.agent o.line else some s) with
    | none => none
    | some s1 =>
      let s2 := modCoh s1 (fun c => { c with out := c.out ++ [{ o with since := pip s }] })
      some (homeRecvReq (requestState s2 o) o.line o.r)

/-- An agent sends a request, or holds it until it can be injected. One on a line that is stable everywhere runs to its end, unless a row of
the table stands for each of its messages. -/
def launch (s : State) (o : OutReq) : State :=
  let q := quiet s o.line
  match inject s o with
  | some s1 => if q && !o.row then settleLine s1 o.line else s1
  | none => modCoh s (fun c => { c with held := c.held ++ [o] })

/-- Requests held for want of a credit are injected in their order. -/
def pump (s : State) : State :=
  s.coh.held.foldl (fun s o =>
    let s0 := modCoh s (fun c => { c with held := c.held.erase o })
    let q := quiet s0 o.line
    match inject s0 o with
    | some s1 => if q && !o.row then settleLine s1 o.line else s1
    | none => s) s

/-- A core's access asks for a line that its L2 cannot serve: RdShared, or for a store RdOwn or Upgrade; in E a store and ZLINE take it to M
at once, and a line in transition is waited for (R172, R187). -/
def obtain (s : State) (c ln : Nat) (own zero : Bool) : State :=
  let l := l2Line s c ln
  if coreAsks s c ln then s
  else match l.st with
    | .i => launch s { agent := c, line := ln, r := if own then .rdOwn c zero else .rdShared c false, core := true }
    | .st .s | .st .f => if own then launch s { agent := c, line := ln, r := .upgrade c zero, core := true } else s
    | .st .e | .st .m => if own then setL2 s c ln { l with st := .st .m, data := if zero then Line.zero else l.data } else s
    | _ => s

/-! ## Accesses by I/O dies (R178, R179) -/

/-- The WrLines that reached the home before now and wait there, applied in their order. -/
def queuedWrites (s : State) (ln : Nat) (l : Line) : Line :=
  let h := homeOf s ln
  let now := match h.st with | .bA _ r _ => [r] | .bR _ r => [r] | _ => []
  (now ++ h.queue).foldl (fun l r => match r with
    | .wrLine _ bs mask _ => cxlLine (ln * 128) (mergeLine l bs mask)
    | _ => l) l

/-- The newest value of a line: an L2's modified or exclusive copy, data in flight, the L3 copy, memory, and what waits to be written. -/
def lineNow (s : State) (ln : Nat) : Line :=
  queuedWrites s ln (
    match s.coh.l2.find? (fun e => e.1 % 2 ^ 45 == ln && (match e.2.st with
        | .st .m | .st .e | .xiA .m | .xiA .e | .xiW .m | .xiW .e => true | _ => false)) with
    | some e => e.2.data
    | none => match s.coh.net.find? (fun m => m.line == ln && (m.kind = .dataExcl || m.kind = .dataAtHome)) with
      | some m => m.data
      | none => homeData s ln)

def byteNow (s : State) (pa : Nat) : Byte := wordByte (lineWord (lineNow s (lineOf pa)) (wordOf pa % 16)) (pa % 8)

def wordNow (s : State) (pa : Nat) : CWord := lineWord (lineNow s (lineOf pa)) (wordOf pa % 16)

/-- Bytes at a physical address as an I/O die reads them. -/
def ioRead (s : State) (pa n : Nat) : List Byte := (List.range n).map (fun i => byteNow s (pa + i))

/-- The packets of an I/O die's access wake the stacks it reaches; its data does not change meanwhile, so the access is whole (R229; LOG
122). -/
def ioPackets (s : State) (pa n : Nat) : State :=
  (List.range (n / 1024 + 2)).foldl (fun s i => let a := (pa / 1024 + i) * 1024; if a < pa + n then linePacket s (lineOf a) else s) s

/-- A poisoned word lies in [pa, pa + n). -/
def ioPoisoned (s : State) (pa n : Nat) : Bool :=
  (List.range (n / 8 + 2)).any (fun i => decide (8 * (wordOf pa + i) < pa + n) && (wordNow s (8 * (wordOf pa + i))).poison)

/-- A WrLine of IO[d]: run to its Cmp when the line is stable, else left at the home (R169, R178). Only express groups ask for ALLOC, on VC2
(R327). -/
def ioWriteLine (s : State) (d ln : Nat) (bs : List Byte) (mask : BitVec 128) (alloc : Bool) : State :=
  launch s { agent := 128 + d, line := ln, r := .wrLine d bs mask alloc, express := alloc }

/-- The WrLines that write bytes at a physical address, line by line. -/
def ioWrite (alloc : Bool) : Nat → State → Nat → Nat → List Byte → State
  | 0, s, _, _, _ => s
  | _ + 1, s, _, _, [] => s
  | n + 1, s, d, pa, bs =>
    let off := pa % 128
    let k := min (128 - off) bs.length
    let body := List.replicate off 0#8 ++ bs.take k
    let mask := BitVec.ofNat 128 ((2 ^ k - 1) <<< off)
    ioWrite alloc n (ioWriteLine s d (lineOf pa) (padTo 128 body) mask alloc) d (pa + k) (bs.drop k)

/-- Write bytes from IO[d] at a physical address. -/
def ioWriteBytes (s : State) (d pa : Nat) (bs : List Byte) (alloc : Bool := false) : State :=
  ioWrite alloc (bs.length / 128 + 2) s d pa bs

/-! ## Agents that vanish (R234, R238, R494) -/

/-- The requests of vanished agents end, and the homes that wait for such an agent go on without it: `gone a ln` says that agent `a` can no
longer speak with the home of line `ln`. With `forget` the stable records of those agents go too (LOG 79, LOG 121). -/
def cutHome (gone : Nat → Nat → Bool) (forget : Bool) (s : State) (ln : Nat) : State :=
  let lost := fun a => gone a ln
  let s1 := ((homeOf s ln).queue.filter (fun r => lost (reqAgent r))).foldl (fun s r => isoEnd s r ln) s
  let s2 := modHome s1 ln (fun h => { h with queue := h.queue.filter (fun r => !lost (reqAgent r)) })
  let strip := fun (x : HStable) => match x with
    | .i => HStable.i
    | .em o => if lost o then .i else x
    | .s sh _ => dropSharers x (sh.filter lost)
  let s3 := match (homeOf s2 ln).st with
    | .st x => if forget then setHomeSt s2 ln (.st (strip x)) else s2
    | .bC req nx =>
      if lost req then homeBecomes (isoEnd s2 (.rdOwn req false) ln) ln (strip nx)
      else if forget then setHomeSt s2 ln (.bC req (strip nx)) else s2
    | .bFC fwd fd rd r base g =>
      if lost fwd ∧ fd = false then homeAnswerIso s2 fwd ln
      else if lost (reqAgent r) ∧ rd = false then
        (if fd then fwdDone (isoEnd s2 r ln) ln r base (reqAgent r :: g)
         else setHomeSt (isoEnd s2 r ln) ln (.bFC fwd fd true r base (reqAgent r :: g)))
      else s2
    | .bOC o q =>
      if lost o then homeAnswerIso s2 o ln
      else if lost q then
        homeBecomes (isoEnd s2 (.rdOwn q false) ln) ln (if l2Holds (l2Line s2 o ln).st then .em o else .i)
      else s2
    | .bA ts r upg =>
      let s4 := if lost (reqAgent r) then setHomeSt (isoEnd s2 r ln) ln (.bA ts .victim false) else setHomeSt s2 ln (.bA ts r upg)
      (ts.filter lost).foldl (fun s a => homeAnswerIso s a ln) s4
    | .bR o r =>
      if lost o then homeAnswerIso s2 o ln
      else if lost (reqAgent r) then setHomeSt (isoEnd s2 r ln) ln (.bR o .victim) else s2
  drainHome s3 ln

/-- Every request outstanding or held that can no longer reach its home ends with ISOLATED (R234). -/
def cutRequests (gone : Nat → Nat → Bool) (s : State) : State :=
  let s1 := (s.coh.out.filter (fun o => gone o.agent o.line)).foldl (fun s o => isoEnd s o.r o.line) s
  (s1.coh.held.filter (fun o => gone o.agent o.line)).foldl (fun s o =>
    isoEnd (modCoh s (fun c => { c with held := c.held.erase o, out := c.out ++ [o] })) o.r o.line) s1

end Sys2Proof.Machine
end

