-- ==== Sys2Proof/Machine/Task.lean ====
section
/-! DEFINITION. Task sets, special registers, traps and their entry (R86-R90, R104, R112-R116, R129-R132), the issue of an
instruction, and the translation of a core's address (R333, R335, R339). -/

namespace Sys2Proof.Machine

/-! ## Registers -/

/-- Read a general register: G0 is RAW 0 (R55). -/
def gread (t : TaskSet) (r : Nat) : TWord := if r = 0 then TWord.mkRaw 0#64 else tget TWord.void t.g r

/-- Write a general register: a write to G0 is discarded (R55). -/
def gwrite (t : TaskSet) (r : Nat) (w : TWord) : TaskSet := if r = 0 then t else { t with g := tset t.g r w }

def vread (t : TaskSet) (r : Nat) : BitVec 256 := tget 0#256 t.v r

/-- Write a V register. -/
def vwrite (t : TaskSet) (r : Nat) (x : BitVec 256) : TaskSet := { t with v := tset t.v r x }

def setVused (t : TaskSet) : TaskSet := modTstat t (fun x => { x with vused := true })

def setPc (t : TaskSet) (pc : W64) : TaskSet := { t with pc := TWord.mkCode pc }

def stateCode (x : SetState) : Nat := match x with | .empty => 0 | .ready => 1 | .running => 2 | .held => 3
def stateOf (n : Nat) : SetState := match n with | 0 => .empty | 1 => .ready | 2 => .running | _ => .held

/-- TSTAT as MFSR reads it (R115). -/
def tstatWord (k : Nat) (x : Tstat) : W64 :=
  BitVec.ofNat 64 (place x.tallow.toNat 32 + flag x.mcpend 16 + flag x.evpend 15 + flag x.pevmask 14 + flag x.evmask 13 +
    flag x.intrap 12 + flag x.nanmode 11 + flag x.vused 10 + flag x.ppriv 9 + flag x.priv 8 + place (stateCode x.state) 5 + k)

/-- MTSR of TSTAT at level S: every RW field but STATE (R115). -/
def tstatWrite (x : Tstat) (w : W64) : Tstat :=
  { x with
    tallow := BitVec.ofNat 32 (field w 63 32), pevmask := bitOf w 14, evmask := bitOf w 13, intrap := bitOf w 12,
    nanmode := bitOf w 11, vused := bitOf w 10, ppriv := bitOf w 9, priv := bitOf w 8 }

/-- FSTAT as MFSR reads it (R104). -/
def fstatWord (f : Fstat) : W64 :=
  BitVec.ofNat 64 (flag (f.pend != 0#5) 18 + place f.pend.toNat 13 + place f.rm.toNat 10 + place f.enable.toNat 5 + f.flags.toNat)

/-- A write of FSTAT: the data bits of RM, ENABLE and FLAGS are stored, those of the RO fields ignored (R104, R127; LOG 17). -/
def fstatWrite (f : Fstat) (w : W64) : Fstat :=
  { f with
    rm := BitVec.ofNat 3 (field w 12 10), enable := BitVec.ofNat 5 (field w 9 5), flags := BitVec.ofNat 5 (field w 4 0) }

/-- RM values 0b101-0b111 are reserved (R104). -/
def fstatBadRm (w : W64) : Bool := decide (5 ≤ field w 12 10)

/-! ## Traps (R87) -/

namespace Trap
def illegalOp : Nat := 0
def priv : Nat := 1
def tagMismatch : Nat := 2
def intOvf : Nat := 3
def divZero : Nat := 4
def decData : Nat := 5
def decOvf : Nat := 6
def align : Nat := 7
def pageFault : Nat := 8
def partRange : Nat := 9
def tagStore : Nat := 10
def trapi : Nat := 11
def fpTrap : Nat := 12
def machineCheck : Nat := 13
def event : Nat := 14
def brk : Nat := 15
def isolated : Nat := 16
def memPoison : Nat := 17
end Trap

/-- A trap as its instruction raises it: number, SUBCAUSE, TINFO, and for TAG_MISMATCH the register and the tag found;
`after` says that TEPC points at the next instruction (R87, R89). OPREG is 0 for an offending PC or TEPC word, which is no general
register, and names the register of the other set for TSAVE's G2 (LOG 113). -/
structure TrapRec where
  no : Nat
  sub : Nat := 0
  info : TWord := TWord.mkRaw 0#64
  opreg : Nat := 0
  tagf : Tag := 0#4
  after : Bool := false
deriving DecidableEq, Repr

abbrev Ex (α : Type) := Except TrapRec α

/-- The trap of a failed atomic (R81, R87). -/
def amoTrap (st : AmoStatus) : Option TrapRec :=
  match st with
  | .ok => none
  | .tagMismatch f => some { no := Trap.tagMismatch, sub := 4, tagf := f }
  | .intOvf => some { no := Trap.intOvf }
  | .decData x => some { no := Trap.decData, sub := x.toNat }
  | .decOvf => some { no := Trap.decOvf }
  | .tagStore => some { no := Trap.tagStore }
  | .poison => some { no := Trap.memPoison }

/-- TCAUSE (R89). -/
def tcauseWord (r : TrapRec) (fpPending long : Bool) : W64 :=
  BitVec.ofNat 64 (place r.tagf.toNat 24 + place r.opreg 18 + flag fpPending 17 + flag long 16 + place (r.sub % 256) 8 + r.no)

/-- TVEC holds a CODE word with bits [10:0] zero (R116). -/
def tvecOk (t : TaskSet) : Bool := t.tvec.tag == Tag.code && field t.tvec.data 10 0 == 0

/-- What an entry consumes: MACHINE_CHECK clears MCPEND, EVENT clears EVPEND and takes the staged vector (R132, R420). -/
def consume (t : TaskSet) (no : Nat) : TaskSet :=
  if no = Trap.machineCheck then modTstat t (fun x => { x with mcpend := false })
  else if no = Trap.event then { modTstat t (fun x => { x with evpend := false }) with staged := none }
  else t

/-- The registers that a trap entry writes, in one step (R129). -/
def entrySet (t : TaskSet) (r : TrapRec) (tepc : W64) (long : Bool) : TaskSet :=
  let t := consume t r.no
  { t with
    tepc := TWord.mkCode tepc
    tinfo := r.info
    tcause := tcauseWord r (t.fstat.pend != 0#5) long
    pc := TWord.mkCode (t.tvec.data + BitVec.ofNat 64 (64 * r.no))
    tstat := { t.tstat with ppriv := t.tstat.priv, priv := true, intrap := true, pevmask := t.tstat.evmask, evmask := true } }

/-! ## Translation and checks of a core's address -/

inductive Acc where
  | read | write | exec | amo
deriving DecidableEq, Repr

/-- SUBCAUSE of a missing or refused translation (R87). -/
def accSub (a : Acc) : Nat := match a with | .read => 1 | .write => 2 | .exec => 3 | .amo => 2

/-- The permission bits of an entry admit the access: R, W, X, or both R and W for an atomic, and U at level U (R339). -/
def permits (e : W64) (a : Acc) (priv : Bool) : Bool :=
  (match a with
   | .read => bitOf e 1
   | .write => bitOf e 2
   | .exec => bitOf e 3
   | .amo => bitOf e 1 && bitOf e 2) && (priv || bitOf e 4)

def ea (va : W64) : TWord := TWord.mkAddr va

/-- The physical address of an entry, bits [51:12]. -/
def entryPa (e : W64) : Nat := field e 51 12 * 4096

/-- A table entry is well formed at its level: the zero fields are zero and LEAF is where R339 lets it be. -/
def entryShapeOk (e : W64) (level : Nat) : Bool :=
  field e 11 6 == 0 && field e 63 52 == 0 &&
  (match level with
   | 1 => !bitOf e 5
   | 4 => bitOf e 5
   | _ => true)

/-- Page shift of a leaf found at a level. -/
def leafShift (level : Nat) : Nat := match level with | 2 => 30 | 3 => 21 | _ => 12

/-- The memory [pa, pa + n) may be reached by a core of partition `p`: its ranges or its own device window (R333). -/
def coreReach (s : State) (p : Option Nat) (pa n : Nat) : Bool :=
  match p with
  | none => false
  | some p => inRanges s p pa n || (match devOf pa with | some (q, _) => q == p | none => false)

/-- The walk of a core's tables (R335, R339) from level `4 - fuel + 1`; a table word outside the partition raises PART_RANGE, one
behind a hull ISOLATED_ACCESS, a poisoned one MEM_POISON (LOG 16). -/
def walkCore : Nat → State → Nat → Option Nat → Nat → W64 → Acc → Bool → Ex Nat
  | 0, _, _, _, _, va, a, _ => .error { no := Trap.pageFault, sub := accSub a, info := ea va }
  | n + 1, s, half, p, table, va, a, priv =>
    let level := 4 - n
    let idx := field va (12 + 9 * n + 8) (12 + 9 * n)
    let pa := table + 8 * idx
    let bad : TrapRec := { no := Trap.pageFault, sub := accSub a, info := ea va }
    if !coreReach s p pa 8 || (devOf pa).isSome then .error { no := Trap.partRange, info := ea va }
    else if isolatedFrom s half (lineOf pa) then .error { no := Trap.isolated, info := ea va }
    else
      let c := wordNow s pa
      let e := c.w.data
      if c.poison then .error { no := Trap.memPoison, info := ea va }
      else if !bitOf e 0 || !entryShapeOk e level then .error bad
      else if bitOf e 5 then
        let sh := leafShift level
        if !permits e a priv then .error bad
        else if entryPa e % 2 ^ sh ≠ 0 then .error bad
        else .ok (entryPa e + va.toNat % 2 ^ sh)
      else walkCore n s half p (entryPa e) va a priv

/-- Virtual to physical: equal while VROOT carries another tag than ADDR (R335). -/
def translate (s : State) (c : Nat) (va : W64) (a : Acc) : Ex Nat :=
  let l := lcore s c
  if l.vroot.tag == Tag.addr then
    if field va 63 48 ≠ 0 then .error { no := Trap.pageFault, sub := accSub a, info := ea va }
    else walkCore 4 s (lcoreHalf c) (partOf s c) (entryPa l.vroot.data) va a (curSet s c).tstat.priv
  else .ok va.toNat

/-- Translation and range check of `n` bytes at `va` (R88, R333). -/
def physical (s : State) (c : Nat) (va : W64) (n : Nat) (a : Acc) : Ex Nat := do
  let pa ← translate s c va a
  if coreReach s (partOf s c) pa n then pure pa
  else .error { no := Trap.partRange, info := ea va }

/-- The line of the next instruction fills the instruction L1 of each member when the L2 holds it (R159, R160). The commands bring the
instructions themselves, so a fetch that misses the L2 asks for no line (LOG 124). -/
def fetchNext (s : State) (c : Nat) : State :=
  let pc := (curSet s c).pc
  match (if pc.tag == Tag.code then physical s c pc.data 2 .exec else .error { no := Trap.pageFault }) with
  | .ok pa => if l2Holds (l2Line s c (lineOf pa)).st then l1Into s c (lineOf pa) true else s
  | .error _ => s

/-! ## Entry -/

/-- Number of the lowest READY set (R130). -/
def lowestReady (s : State) (c : Nat) : Option Nat :=
  (List.range 32).find? (fun k => decide ((taskSet s c k).tstat.state = .ready))

/-- A double trap (R130): the set is HELD, DOUBLE_TRAP is raised, and execution passes to the lowest READY set, or the logical
core stops. The second component is whether it still runs. -/
def doubleTrap (s : State) (c : Nat) : State × Bool :=
  let k := (lcore s c).cur
  let s1 := raiseFrom (modCur s c (fun t => modTstat t (fun x => { x with state := .held }))) (lcoreHalf c) (Src.lcore c) 0
  if k = 0 then (report (modLCore s1 c (fun l => { l with stopped := true })) (Pt.doubleTrap c) 0, false)
  else match lowestReady s1 c with
    | none => (report (modLCore s1 c (fun l => { l with stopped := true })) (Pt.doubleTrap c) (0x20 + k), false)
    | some j =>
      (modSet (modLCore s1 c (fun l => { l with cur := j })) c j (fun t => modTstat t (fun x => { x with state := .running })), true)

/-- The MACHINE_CHECK or EVENT that the RUNNING set enters: MACHINE_CHECK first (R119, R132). A set that execution passes to
(`passed`) enters it whatever its INTRAP (R119); in any other the machine check waits for the next RETT while INTRAP is set, and the
event behind it (R131, R132; LOG 56). The SUBCAUSE is the core's last cause, also where MCPEND came from a frame (LOG 116). -/
def pendingEntry (l : LCore) (t : TaskSet) (passed : Bool) : Option TrapRec :=
  if t.tstat.mcpend then
    (if passed || !t.tstat.intrap then some { no := Trap.machineCheck, sub := l.mcCause } else none)
  else if t.tstat.evpend && !t.tstat.evmask then some { no := Trap.event, sub := t.staged.getD 0 }
  else none

/-- The retire point of a logical core advances: an instruction retires, or a trap, event or machine check is entered (R137); the next
instruction is fetched. -/
def advance (s : State) (c : Nat) : State := fetchNext (modLCore s c (fun l => { l with retired := l.retired + 1 })) c

/-- Enter a trap in the RUNNING set, or take the double trap of R130, which changes no register of the set and leaves its event and
machine check pending; a set that execution passes to enters what it has pending. No instruction traps at the entry of EVENT or
MACHINE_CHECK, whose LONG is 0 (LOG 112). The number bounds the sets that can fall one after the other. -/
def takeTrap : Nat → State → Nat → TrapRec → W64 → Bool → State
  | 0, s, _, _, _, _ => s
  | n + 1, s, c, r, tepc, long =>
    let t := curSet s c
    if (t.tstat.intrap && r.no != Trap.fpTrap) || !tvecOk t then
      let (s1, runsOn) := doubleTrap s c
      if runsOn then
        (match pendingEntry (lcore s1 c) (curSet s1 c) true with
         | some r1 => takeTrap n s1 c r1 (curSet s1 c).pc.data false
         | none => advance s1 c)
      else s1
    else advance (modCur s c (fun t => entrySet t r tepc long)) c

/-- Every set of a core can fall once. -/
def trapFuel : Nat := 33

/-- Enter what is pending in the RUNNING set before its next instruction. -/
def enterPending (s : State) (c : Nat) (passed : Bool) : State :=
  match pendingEntry (lcore s c) (curSet s c) passed with
  | some r => takeTrap trapFuel s c r (curSet s c).pc.data false
  | none => s

/-! ## Issue -/

/-- A logical core exists: even numbers belong to present trios, odd ones only to a trio that boots SPLIT (R8, R154). -/
def lcoreExists (s : State) (c : Nat) : Bool :=
  !trioAbsent s (trioOf c) && decide ((trio s (trioOf c)).state ≠ .absent) && (c % 2 == 0 || trioSplitCfg s (trioOf c))

/-- The trio's state lets its logical cores execute. -/
def trioRuns (x : TrioState) : Bool :=
  match x with
  | .voted | .resync | .integrate | .duplex | .split => true
  | .absent | .checkstop | .failed | .unpowered => false

/-- Modes in which tasks run (R25). -/
def taskMode (m : Nat) : Bool := m == 5 || m == 6 || m == 7 || m == 8 || m == 10

/-- LCORE[c] executes instructions now: its partition has been started and the core is not stopped, held, failed, waiting for
an access or a device response, or in checkstop; its trio runs and is not parked; its half stands; and the mode lets tasks run
(R25, R113, R130, R142, R155, R230, R240, R490). -/
def runs (s : State) (c : Nat) : Bool :=
  let l := lcore s c
  let t := trio s (trioOf c)
  s.pins.resetN && taskMode s.mode.mode && s.mode.base == 5 && !s.mode.parkCond &&
  l.started && !l.stopped && !l.held && !l.failed && l.wait.isNone && l.replay.isNone && l.ckPip0.isNone &&
  trioRuns t.state && !t.parked && !dieLost s (lcoreHalf c) && lcoreExists s c &&
  decide ((curSet s c).tstat.state = .running)

/-- Bytes of an instruction (R66). -/
def sizeBytes (z : Size) : Nat := match z with | .short => 2 | .long => 4

def pcOf (s : State) (c : Nat) : W64 := (curSet s c).pc.data

/-- An instruction retires: the counts behind R106 and R137 move. An instruction that traps is not counted among the 64 of R106,
TRAPI and BREAK among them (LOG 115). -/
def retire (s : State) (c k : Nat) : State :=
  modSet (advance s c) c k
    (fun t => { t with fpAge := if t.fstat.pend = 0#5 then 0 else t.fpAge + 1 })

/-- A trap of an instruction; PART_RANGE also writes a fault-log entry (R87, R516). -/
def raiseTrap (s : State) (c : Nat) (z : Size) (r : TrapRec) : State :=
  let pc := pcOf s c
  let s1 :=
    if r.no = Trap.partRange then
      report s Pt.partRange ((partOf s c).getD 0 + 16 * c + 2048 * (lcore s c).cur)
    else s
  takeTrap trapFuel s1 c r (if r.after then pc + BitVec.ofNat 64 (sizeBytes z) else pc) (decide (z = .long))

/-- The floating-point trap is due: the instruction that wrote FEPC and the 63 after it have retired (R106). -/
def fpDue (t : TaskSet) : Bool := t.fstat.pend != 0#5 && decide (64 ≤ t.fpAge)

/-- Take the pending floating-point trap instead of the instruction at this point: SUBCAUSE receives PEND, and PEND is then
cleared (R106). -/
def takeFpTrap (s : State) (c : Nat) (z : Size) : State :=
  let t := curSet s c
  let r : TrapRec := { no := Trap.fpTrap, sub := t.fstat.pend.toNat }
  if tvecOk t then
    advance (modCur s c (fun t => { entrySet t r t.pc.data (decide (z = .long)) with
      fstat := { t.fstat with pend := 0#5 }, fpAge := 0 })) c
  else takeTrap trapFuel s c r t.pc.data (decide (z = .long))

/-- Issue one instruction on LCORE[c]. `body` gives the state after the instruction, its program counter written, or the trap it
raises. A precise trap is taken at once, a floating-point trap that is due instead of an instruction that meets none (R88, R106, R108;
LOG 93). A core that does not run executes nothing (LOG 15). -/
def issue (s : State) (c : Nat) (z : Size) (body : State → Ex State) : State :=
  if !runs s c then s
  else match body s with
    | .ok s1 => if fpDue (curSet s c) then takeFpTrap s c z else retire s1 c (lcore s c).cur
    | .error r => raiseTrap s c z r

/-- The set moved past the instruction. -/
def pastPc (t : TaskSet) (z : Size) : TaskSet := setPc t (t.pc.data + BitVec.ofNat 64 (sizeBytes z))

/-- An instruction that only changes its own set and falls through (LOG 54). -/
def issueSet (s : State) (c : Nat) (z : Size) (f : TaskSet → Ex TaskSet) : State :=
  issue s c z (fun s => do
    let t ← f (curSet s c)
    pure (modCur s c (fun _ => pastPc t z)))

/-- An instruction that falls through and may change more than its set. -/
def issueNext (s : State) (c : Nat) (z : Size) (body : State → Ex State) : State :=
  issue s c z (fun s => do
    let s1 ← body s
    pure (modSet s1 c (lcore s c).cur (fun t => pastPc t z)))

end Sys2Proof.Machine
end

