-- ==== Sys2Proof/Machine/Operands.lean ====
section
/-! DEFINITION. The operand forms of the instructions: which tags an operand register may hold (R61, R90), the two-register, immediate and shift
forms (R68, R85), and the results of the classes A and L (R53, R61, R91). -/

namespace Sys2Proof.Machine

/-! ## Tag checks (R61, R90) -/

def isReservedTag (t : Tag) : Bool := decide (8 ≤ t.toNat ∧ t.toNat ≤ 11)
def isVoidish (t : Tag) : Bool := t == Tag.void || isReservedTag t

/-- SUBCAUSE of an operand whose tag is not accepted (R90). -/
def badTagSub (t : Tag) : Nat := if t == Tag.void then 2 else if isReservedTag t then 3 else 1

def tagTrap (r : Nat) (t : Tag) (sub : Nat) : TrapRec := { no := Trap.tagMismatch, sub := sub, opreg := r, tagf := t }

/-- An operand register whose tag must be accepted. -/
def operand (t : TaskSet) (r : Nat) (acc : Tag → Bool) : Ex TWord :=
  let w := gread t r
  if acc w.tag then .ok w else .error (tagTrap r w.tag (badTagSub w.tag))

/-- A base register: ADDR, or subcause 0x05 (R90). -/
def baseReg (t : TaskSet) (r : Nat) : Ex W64 :=
  let w := gread t r
  if w.tag == Tag.addr then .ok w.data else .error (tagTrap r w.tag 5)

/-- A jump target: CODE, or subcause 0x06 (R90). -/
def codeReg (t : TaskSet) (r : Nat) : Ex W64 :=
  let w := gread t r
  if w.tag == Tag.code then .ok w.data else .error (tagTrap r w.tag 6)

def accAny (t : Tag) : Bool := !isVoidish t
def accA (t : Tag) : Bool := isIntRawUser t
def accL (t : Tag) : Bool := isIntRawUser t || t == Tag.char
def accDec (t : Tag) : Bool := t == Tag.dec
def accBfp (t : Tag) : Bool := t == Tag.bfp

/-! ## Shared forms -/

/-- Destination and the two source registers of a two-register form: in the short form rd is the first operand (R68). -/
def rformRegs (f : RForm) : Nat × Nat × Nat × Size :=
  match f with
  | .short rd rs => (rd, rd, rs, .short)
  | .long rd ra rb => (rd, ra, rb, .long)

/-- The result word of class A, or INT_OVF (R91). -/
def intResult (z : Int) : Ex TWord := if inInt64 z then .ok (TWord.mkInt (ofInt64 z)) else .error { no := Trap.intOvf }

/-- Two operands of one accepted set, checked in the order ra, rb (R90). -/
def operands2 (t : TaskSet) (ra rb : Nat) (acc : Tag → Bool) : Ex (TWord × TWord) := do
  let a ← operand t ra acc
  let b ← operand t rb acc
  pure (a, b)

/-- A class A instruction on two operands, read as signed. -/
def classA (t : TaskSet) (rd ra rb : Nat) (f : Int → Int → Ex Int) : Ex TaskSet := do
  let (a, b) ← operands2 t ra rb accA
  let z ← f (sInt a.data) (sInt b.data)
  let w ← intResult z
  pure (gwrite t rd w)

/-- The result tag of class L: the first operand's tag if it is INT, CHAR or USERn and the second operand counts as RAW or
carries the same tag; a second operand with a USER tag counts as RAW (R53, R61). -/
def logicTag (a b : Tag) : Tag :=
  if (a == Tag.int || a == Tag.char || isUser a) && (isRawUser b || a == b) then a else Tag.raw

def classL (t : TaskSet) (rd ra rb : Nat) (f : W64 → W64 → W64) : Ex TaskSet := do
  let (a, b) ← operands2 t ra rb accL
  pure (gwrite t rd { data := f a.data b.data, tag := logicTag a.tag b.tag })

/-- Class L with an immediate, which counts as a second operand tagged RAW (R61). -/
def classLImm (t : TaskSet) (rd ra : Nat) (imm : W64) (f : W64 → W64 → W64) : Ex TaskSet := do
  let a ← operand t ra accL
  pure (gwrite t rd { data := f a.data imm, tag := logicTag a.tag Tag.raw })

def shiftBy (k : ShKind) (a : W64) (n : Nat) : W64 :=
  match k with
  | .shl => a <<< n
  | .shr => a >>> n
  | .sar => a.sshiftRight n

/-- A shift in either form (R68, R85). -/
def shiftForm (t : TaskSet) (f : ShForm) (k : ShKind) : Ex TaskSet :=
  match f with
  | .short rd n => classLImm t rd rd (zx n) (fun a b => shiftBy k a b.toNat)
  | .long rd ra rb => classL t rd ra rb (fun a b => shiftBy k a (b.toNat % 64))

def shSize (f : ShForm) : Size := match f with | .short .. => .short | .long .. => .long

def rSize (f : RForm) : Size := (rformRegs f).2.2.2

/-- A two-register form of class A or class L. -/
def rformA (s : State) (c : LC) (f : RForm) (op : Int → Int → Ex Int) : State :=
  let (rd, ra, rb, z) := rformRegs f
  issueSet s c z (fun t => classA t rd ra rb op)

def rformL (s : State) (c : LC) (f : RForm) (op : W64 → W64 → W64) : State :=
  let (rd, ra, rb, z) := rformRegs f
  issueSet s c z (fun t => classL t rd ra rb op)

end Sys2Proof.Machine
end

