-- ==== Sys2Proof/Machine/Alu.lean ====
section
/-! DEFINITION. Moves, integer, carry, logic, shift, address-forming, tag, branch and jump instructions (R57-R70, R85, R91-R94). -/

namespace Sys2Proof.Machine

/-! ## Moves and integer arithmetic -/

def execMov (c : LC) (rd rs : Reg) (s : State) : Res :=
  .next (issueSet s c .short (fun t => do
    let w ← operand t rs accAny
    pure (gwrite t rd w)))

def execAdd (c : LC) (f : RForm) (s : State) : Res := .next (rformA s c f (fun a b => .ok (a + b)))

def execSub (c : LC) (f : RForm) (s : State) : Res := .next (rformA s c f (fun a b => .ok (a - b)))

def execAnd (c : LC) (f : RForm) (s : State) : Res := .next (rformL s c f (fun a b => a &&& b))

def execOr (c : LC) (f : RForm) (s : State) : Res := .next (rformL s c f (fun a b => a ||| b))

def execXor (c : LC) (f : RForm) (s : State) : Res := .next (rformL s c f (fun a b => a ^^^ b))

/-- NOT takes rb = G0, a second operand that is RAW (R85). -/
def execNot (c : LC) (rd ra : Reg) (s : State) : Res :=
  .next (issueSet s c .long (fun t => classLImm t rd ra 0#64 (fun a _ => ~~~a)))

def execNeg (c : LC) (rd ra : Reg) (s : State) : Res :=
  .next (issueSet s c .long (fun t => classA t rd ra 0 (fun a _ => .ok (-a))))

def execMovi (c : LC) (rd : Reg) (imm : BitVec 7) (s : State) : Res :=
  .next (issueSet s c .short (fun t => .ok (gwrite t rd (TWord.mkInt (sx imm)))))

/-- ADDI in either form. -/
def addi (t : TaskSet) (rd ra : Nat) (imm : W64) : Ex TaskSet := do
  let a ← operand t ra accA
  let w ← intResult (sInt a.data + sInt imm)
  pure (gwrite t rd w)

def execAddi (c : LC) (f : IForm) (s : State) : Res :=
  match f with
  | .short rd imm => .next (issueSet s c .short (fun t => addi t rd rd (sx imm)))
  | .long rd ra imm => .next (issueSet s c .long (fun t => addi t rd ra (sx imm)))

def execAndi (c : LC) (rd ra : Reg) (imm : BitVec 14) (s : State) : Res :=
  .next (issueSet s c .long (fun t => classLImm t rd ra (sx imm) (fun a b => a &&& b)))

def execOri (c : LC) (rd ra : Reg) (imm : BitVec 14) (s : State) : Res :=
  .next (issueSet s c .long (fun t => classLImm t rd ra (sx imm) (fun a b => a ||| b)))

def execXori (c : LC) (rd ra : Reg) (imm : BitVec 14) (s : State) : Res :=
  .next (issueSet s c .long (fun t => classLImm t rd ra (sx imm) (fun a b => a ^^^ b)))

def execShl (c : LC) (f : ShForm) (s : State) : Res := .next (issueSet s c (shSize f) (fun t => shiftForm t f .shl))

def execShr (c : LC) (f : ShForm) (s : State) : Res := .next (issueSet s c (shSize f) (fun t => shiftForm t f .shr))

def execSar (c : LC) (f : ShForm) (s : State) : Res := .next (issueSet s c (shSize f) (fun t => shiftForm t f .sar))

def execShifti (c : LC) (rd ra : Reg) (k : ShKind) (count : BitVec 6) (s : State) : Res :=
  .next (issueSet s c .long (fun t => classLImm t rd ra (zx count) (fun a b => shiftBy k a b.toNat)))

/-- LUI gives INT (R61). -/
def execLui (c : LC) (rd : Reg) (imm : BitVec 19) (s : State) : Res :=
  .next (issueSet s c .long (fun t => .ok (gwrite t rd (TWord.mkInt (sx imm <<< 14)))))

def execMul (c : LC) (rd ra rb : Reg) (s : State) : Res :=
  .next (issueSet s c .long (fun t => classA t rd ra rb (fun a b => .ok (a * b))))

/-- Bits [127:64] of the signed product; never traps (R92). -/
def execMulh (c : LC) (rd ra rb : Reg) (s : State) : Res :=
  .next (issueSet s c .long (fun t => classA t rd ra rb (fun a b => .ok (a * b / 2 ^ 64))))

/-- DIV truncates toward zero (R93). -/
def execDiv (c : LC) (rd ra rb : Reg) (s : State) : Res :=
  .next (issueSet s c .long (fun t => classA t rd ra rb (fun a b =>
    if b = 0 then .error { no := Trap.divZero } else .ok (a.tdiv b))))

/-- REM has the sign of the dividend (R93). -/
def execRem (c : LC) (rd ra rb : Reg) (s : State) : Res :=
  .next (issueSet s c .long (fun t => classA t rd ra rb (fun a b =>
    if b = 0 then .error { no := Trap.divZero } else .ok (a.tmod b))))

/-! ## Multi-word arithmetic (R94) -/

/-- Three operands of class C, in the order ra, rb, rc. -/
def operandsC (t : TaskSet) (ra rb rc : Nat) : Ex (Nat × Nat × Nat) := do
  let (a, b) ← operands2 t ra rb accA
  let x ← operand t rc accA
  pure (a.data.toNat, b.data.toNat, x.data.toNat % 2)

def execAddc (c : LC) (rd ra rb rc : Reg) (s : State) : Res :=
  .next (issueSet s c .long (fun t => do
    let (a, b, k) ← operandsC t ra rb rc
    let sum := a + b + k
    pure (gwrite (gwrite t rd (TWord.mkRaw (BitVec.ofNat 64 sum))) rc (TWord.mkRaw (BitVec.ofNat 64 (sum / 2 ^ 64))))))

def execSubc (c : LC) (rd ra rb rc : Reg) (s : State) : Res :=
  .next (issueSet s c .long (fun t => do
    let (a, b, k) ← operandsC t ra rb rc
    let dif : Int := (a : Int) - b - k
    pure (gwrite (gwrite t rd (TWord.mkRaw (BitVec.ofInt 64 dif))) rc (TWord.mkRaw (if dif < 0 then 1#64 else 0#64)))))

/-- rd = rc is illegal (R85). rc is written only, so it is no operand. -/
def execMulw (c : LC) (rd ra rb rc : Reg) (s : State) : Res :=
  .next (issueSet s c .long (fun t =>
    if rd = rc then .error { no := Trap.illegalOp }
    else do
      let (a, b) ← operands2 t ra rb accA
      let p := a.data.toNat * b.data.toNat
      pure (gwrite (gwrite t rd (TWord.mkRaw (BitVec.ofNat 64 (p / 2 ^ 64)))) rc (TWord.mkRaw (BitVec.ofNat 64 p)))))

/-! ## Address forming (R57, R58, R61) -/

def execLeai (c : LC) (rd : Reg) (imm : BitVec 7) (s : State) : Res :=
  .next (issueSet s c .short (fun t => do
    let b ← baseReg t rd
    pure (gwrite t rd (TWord.mkAddr (b + sx imm * 8#64)))))

def execLea (c : LC) (rd ra : Reg) (imm : BitVec 14) (s : State) : Res :=
  .next (issueSet s c .long (fun t => do
    let b ← baseReg t ra
    pure (gwrite t rd (TWord.mkAddr (b + sx imm)))))

def execAdda (c : LC) (rd ra rb : Reg) (sh : BitVec 2) (s : State) : Res :=
  .next (issueSet s c .long (fun t => do
    let b ← baseReg t ra
    let i ← operand t rb accA
    pure (gwrite t rd (TWord.mkAddr (b + (i.data <<< sh.toNat))))))

def execLeap (c : LC) (rd : Reg) (imm : BitVec 19) (s : State) : Res :=
  .next (issueSet s c .long (fun t => .ok (gwrite t rd (TWord.mkAddr (t.pc.data + sx imm * 2#64)))))

def execLeac (c : LC) (rd : Reg) (imm : BitVec 19) (s : State) : Res :=
  .next (issueSet s c .long (fun t => .ok (gwrite t rd (TWord.mkCode (t.pc.data + sx imm * 2#64)))))

/-! ## Tag instructions (R54, R59, R61, R62) -/

def tgetOf (t : TaskSet) (rd ra : Nat) : TaskSet :=
  gwrite t rd (TWord.mkInt (BitVec.ofNat 64 (gread t ra).tag.toNat))

def execTget (c : LC) (f : UForm) (s : State) : Res :=
  match f with
  | .short rd rs => .next (issueSet s c .short (fun t => .ok (tgetOf t rd rs)))
  | .long rd ra => .next (issueSet s c .long (fun t => .ok (tgetOf t rd ra)))

/-- A reserved tag is ILLEGAL_OP; ADDR and CODE at level U are PRIV (R59, R88). -/
def execTset (c : LC) (rd ra : Reg) (g : Tag) (s : State) : Res :=
  .next (issueSet s c .long (fun t =>
    if isReservedTag g then .error { no := Trap.illegalOp }
    else if !t.tstat.priv && (g == Tag.addr || g == Tag.code) then .error { no := Trap.priv }
    else do
      let w ← operand t ra accAny
      pure (gwrite t rd { data := w.data, tag := g })))

/-- A word of any tag is tested against the mask (R61). -/
def execTchk (c : LC) (ra : Reg) (mask : Half) (s : State) : Res :=
  .next (issueSet s c .long (fun t =>
    let w := gread t ra
    if mask.getLsbD w.tag.toNat then .ok t else .error (tagTrap ra w.tag 1)))

/-! ## Branches (R64, R65) -/

def accEq (t : Tag) : Bool := accL t || t == Tag.addr || t == Tag.code
def accLtu (t : Tag) : Bool := accEq t

/-- A pair is refused though each operand is accepted: OPREG and TAGFOUND name rb (R90). -/
def pairTrap (rb : Nat) (t : Tag) : TrapRec := tagTrap rb t 1

/-- EQ and NE: the same tag, or either RAW or USERn (R64). -/
def eqPair (a b : Tag) : Bool := a == b || isRawUser a || isRawUser b

/-- LTU and GEU: INT, RAW, CHAR, USERn among themselves, ADDR with ADDR, CODE with CODE (R64). -/
def ltuPair (a b : Tag) : Bool := (accL a && accL b) || (a == Tag.addr && b == Tag.addr) || (a == Tag.code && b == Tag.code)

def compare2 (t : TaskSet) (ra rb : Nat) (acc : Tag → Bool) (pair : Tag → Tag → Bool) (f : W64 → W64 → Bool) : Ex Bool := do
  let (a, b) ← operands2 t ra rb acc
  if pair a.tag b.tag then pure (f a.data b.data) else .error (pairTrap rb b.tag)

def condHolds (t : TaskSet) (ra : Nat) (k : BCond) : Ex Bool :=
  match k with
  | .eq rb => compare2 t ra rb accEq eqPair (fun a b => a == b)
  | .ne rb => compare2 t ra rb accEq eqPair (fun a b => a != b)
  | .lt rb => compare2 t ra rb accA (fun _ _ => true) (fun a b => decide (sInt a < sInt b))
  | .ge rb => compare2 t ra rb accA (fun _ _ => true) (fun a b => decide (sInt b ≤ sInt a))
  | .ltu rb => compare2 t ra rb accLtu ltuPair (fun a b => decide (a.toNat < b.toNat))
  | .geu rb => compare2 t ra rb accLtu ltuPair (fun a b => decide (b.toNat ≤ a.toNat))
  | .tageq g => .ok ((gread t ra).tag == g)
  | .tagne g => .ok ((gread t ra).tag != g)

/-- Branch by a displacement in halfwords from the branch's own address, or fall through. -/
def branchTo (t : TaskSet) (z : Size) (taken : Bool) (disp : W64) : TaskSet :=
  if taken then setPc t (t.pc.data + disp * 2#64) else pastPc t z

/-- An instruction that writes its set's program counter itself. -/
def issuePc (s : State) (c : Nat) (z : Size) (f : TaskSet → Ex TaskSet) : State :=
  issue s c z (fun s => do
    let t ← f (curSet s c)
    pure (modCur s c (fun _ => t)))

def execBcmp (c : LC) (ra : Reg) (cond : BCond) (disp : BitVec 11) (s : State) : Res :=
  .next (issuePc s c .long (fun t => do
    let b ← condHolds t ra cond
    pure (branchTo t .long b (sx disp))))

def execBz (c : LC) (rs : Reg) (disp : BitVec 7) (s : State) : Res :=
  .next (issuePc s c .short (fun t => do
    let w ← operand t rs accEq
    pure (branchTo t .short (w.data == 0#64) (sx disp))))

def execBnz (c : LC) (rs : Reg) (disp : BitVec 7) (s : State) : Res :=
  .next (issuePc s c .short (fun t => do
    let w ← operand t rs accEq
    pure (branchTo t .short (w.data != 0#64) (sx disp))))

/-! ## Jumps -/

/-- A target with bit 0 set raises ALIGN at the jump, with the target in TINFO (R87). -/
def jumpTo (t : TaskSet) (target : W64) : Ex TaskSet :=
  if bitOf target 0 then .error { no := Trap.align, info := ea target } else .ok (setPc t target)

def execJmp (c : LC) (disp : BitVec 24) (s : State) : Res :=
  .next (issuePc s c .long (fun t => jumpTo t (t.pc.data + sx disp * 2#64)))

/-- CALL writes its link into G1 (R56). -/
def execCall (c : LC) (disp : BitVec 24) (s : State) : Res :=
  .next (issuePc s c .long (fun t => jumpTo (gwrite t 1 (TWord.mkCode (t.pc.data + 4#64))) (t.pc.data + sx disp * 2#64)))

def execJalr (c : LC) (rd ra : Reg) (imm : BitVec 14) (s : State) : Res :=
  .next (issuePc s c .long (fun t => do
    let b ← codeReg t ra
    jumpTo (gwrite t rd (TWord.mkCode (t.pc.data + 4#64))) (b + sx imm * 2#64)))

/-- JR: if rd is not G0 it receives the link; the target is read first (R68). -/
def execJr (c : LC) (rd rs : Reg) (s : State) : Res :=
  .next (issuePc s c .short (fun t => do
    let b ← codeReg t rs
    jumpTo (gwrite t rd (TWord.mkCode (t.pc.data + 2#64))) b))

def execRet (c : LC) (r : Reg) (s : State) : Res :=
  .next (issuePc s c .short (fun t => do
    let b ← codeReg t r
    jumpTo t b))

def execNop (c : LC) (s : State) : Res := .next (issueSet s c .short (fun t => .ok t))

/-! ## Traps and the time (R35, R87) -/

/-- TEPC points at the next instruction (R87). -/
def execTrapi (c : LC) (num : Byte) (s : State) : Res :=
  .next (issue s c .long (fun _ => .error { no := Trap.trapi, sub := num.toNat, after := true }))

def execBreak (c : LC) (s : State) : Res :=
  .next (issue s c .long (fun _ => .error { no := Trap.brk, after := true }))

def execRdtime (c : LC) (rd : Reg) (s : State) : Res :=
  .next (issueSet s c .long (fun t => .ok (gwrite t rd (TWord.mkInt (stampAt s (lcoreHalf c))))))

/-- R67: an encoding that is not assigned, or a nonzero field marked zero. -/
def execIllegalInstruction (c : LC) (z : Size) (s : State) : Res :=
  .next (issue s c z (fun _ => .error { no := Trap.illegalOp }))

end Sys2Proof.Machine
end

