-- ==== Sys2Proof/Machine/Crypto.lean ====
section
/-! DEFINITION. The cipher and digest functions that the spec takes from the standards it names: SHA-256 and SHA-384
(FIPS 180-4), SHA3-256 (FIPS 202), AES-256 (FIPS 197) with GCM (SP 800-38D), XTS (IEEE 1619) and key unwrapping (SP 800-38F), and
HMAC with the counter-mode derivation of R324. PRESUMED from those standards (LOG 10). -/

namespace Sys2Proof.Machine

/-! ## SHA-2 -/

/-- Largest x with x^k at most n, by bits from `b` down. -/
def rootBits (k n : Nat) : Nat → Nat → Nat
  | 0, x => x
  | b + 1, x => let y := x + 2 ^ b; if y ^ k ≤ n then rootBits k n b y else rootBits k n b x

def isPrime (n : Nat) : Bool := decide (2 ≤ n) && (List.range n).all (fun d => decide (d < 2) || n % d != 0)

/-- The primes below 420, which are more than 80. -/
def primes : List Nat := (List.range 420).filter isPrime

/-- `w` bits of the fraction of the k-th root of each of `n` primes. -/
def rootFractions (w k n : Nat) : List (BitVec w) :=
  (primes.take n).map (fun p => BitVec.ofNat w (rootBits k (p * 2 ^ (k * w)) (w + 10) 0))

/-- The parameters of one width of SHA-2. -/
structure Sha2 where
  w : Nat
  rounds : Nat
  big0 : Nat × Nat × Nat
  big1 : Nat × Nat × Nat
  small0 : Nat × Nat × Nat
  small1 : Nat × Nat × Nat
deriving DecidableEq, Repr

def sha2w32 : Sha2 := { w := 32, rounds := 64, big0 := (2, 13, 22), big1 := (6, 11, 25), small0 := (7, 18, 3), small1 := (17, 19, 10) }
def sha2w64 : Sha2 := { w := 64, rounds := 80, big0 := (28, 34, 39), big1 := (14, 18, 41), small0 := (1, 8, 7), small1 := (19, 61, 6) }

def rot3 {w : Nat} (r : Nat × Nat × Nat) (x : BitVec w) : BitVec w :=
  x.rotateRight r.1 ^^^ x.rotateRight r.2.1 ^^^ x.rotateRight r.2.2

def rotShift {w : Nat} (r : Nat × Nat × Nat) (x : BitVec w) : BitVec w :=
  x.rotateRight r.1 ^^^ x.rotateRight r.2.1 ^^^ (x >>> r.2.2)

/-- The message schedule, newest word first. -/
def schedule (p : Sha2) : Nat → List (BitVec p.w) → List (BitVec p.w)
  | 0, ws => ws
  | n + 1, ws =>
    let g := fun i => ws.getD i 0
    schedule p n ((rotShift p.small1 (g 1) + g 6 + rotShift p.small0 (g 14) + g 15) :: ws)

def shaRound (p : Sha2) (h : List (BitVec p.w)) (kw : BitVec p.w × BitVec p.w) : List (BitVec p.w) :=
  match h with
  | [a, b, c, d, e, f, g, x] =>
    let t1 := x + rot3 p.big1 e + ((e &&& f) ^^^ (~~~e &&& g)) + kw.1 + kw.2
    let t2 := rot3 p.big0 a + ((a &&& b) ^^^ (a &&& c) ^^^ (b &&& c))
    [t1 + t2, a, b, c, d + t1, e, f, g]
  | _ => h

/-- Big-endian words of a block. -/
def beWords (w : Nat) (bs : List Byte) : List (BitVec w) :=
  (List.range (bs.length / (w / 8))).map (fun i => BitVec.ofNat w (ofBE (slice bs (i * (w / 8)) (w / 8))))

def shaBlock (p : Sha2) (k : List (BitVec p.w)) (h : List (BitVec p.w)) (blk : List Byte) : List (BitVec p.w) :=
  let ws := (schedule p (p.rounds - 16) (beWords p.w blk).reverse).reverse
  List.zipWith (· + ·) h ((List.zip k ws).foldl (shaRound p) h)

/-- Blocks of `n` bytes. -/
def chunks (n : Nat) (bs : List Byte) : List (List Byte) :=
  (List.range (cdiv bs.length n)).map (fun i => slice bs (i * n) n)

def shaPad (p : Sha2) (bs : List Byte) : List Byte :=
  let blk := p.w * 2
  let len := p.w / 4
  let z := (blk - (bs.length + 1 + len) % blk) % blk
  bs ++ 0x80#8 :: (List.replicate z 0#8 ++ beBytes len (8 * bs.length))

def sha2 (p : Sha2) (iv : List (BitVec p.w)) (bs : List Byte) : List Byte :=
  let k := rootFractions p.w 3 p.rounds
  ((chunks (2 * p.w) (shaPad p bs)).foldl (shaBlock p k) iv).flatMap (fun x => beBytes (p.w / 8) x.toNat)

def sha256 (bs : List Byte) : List Byte := sha2 sha2w32 (rootFractions 32 2 8) bs

def sha384 (bs : List Byte) : List Byte := (sha2 sha2w64 ((rootFractions 64 2 16).drop 8) bs).take 48

/-! ## SHA3-256 -/

/-- Rotation offsets of the Keccak lanes, in the order of the pi walk, with the lane that the walk visits. -/
def keccakWalk : Nat → Nat × Nat → Nat → List (Nat × Nat × Nat)
  | 0, _, _ => []
  | n + 1, (x, y), t => (x, y, (t + 1) * (t + 2) / 2 % 64) :: keccakWalk n (y, (2 * x + 3 * y) % 5) (t + 1)

def keccakRot (x y : Nat) : Nat :=
  match (keccakWalk 24 (1, 0) 0).find? (fun e => e.1 == x && e.2.1 == y) with
  | some e => e.2.2
  | none => 0

/-- One step of the round-constant register. -/
def keccakLfsr (r : Nat) : Nat := let s := r <<< 1; if s < 256 then s else (s ^^^ 0x171) % 256

def keccakRc (round : Nat) : BitVec 64 :=
  (List.range 7).foldl (fun acc j =>
    let bit := (Nat.repeat keccakLfsr (7 * round + j) 1) % 2
    acc ||| BitVec.ofNat 64 (bit <<< (2 ^ j - 1))) 0#64

def keccakRound (a : List (BitVec 64)) (round : Nat) : List (BitVec 64) :=
  let at' := fun (l : List (BitVec 64)) x y => l.getD (x % 5 + 5 * (y % 5)) 0
  let c := (List.range 5).map (fun x => at' a x 0 ^^^ at' a x 1 ^^^ at' a x 2 ^^^ at' a x 3 ^^^ at' a x 4)
  let d := fun x => c.getD ((x + 4) % 5) 0 ^^^ (c.getD ((x + 1) % 5) 0).rotateLeft 1
  let b := (List.range 25).map (fun i =>
    -- the lane (x, y) that pi moves to position i = X + 5Y
    let y := i % 5
    let x := ((i / 5 + 2 * 5 - 3 * y % 5) * 3) % 5
    (at' a x y ^^^ d x).rotateLeft (keccakRot x y))
  (List.range 25).map (fun i =>
    let x := i % 5
    let y := i / 5
    at' b x y ^^^ (~~~at' b (x + 1) y &&& at' b (x + 2) y) ^^^ (if i = 0 then keccakRc round else 0#64))

def keccak (a : List (BitVec 64)) : List (BitVec 64) := (List.range 24).foldl keccakRound a

def sha3Absorb (a : List (BitVec 64)) (blk : List Byte) : List (BitVec 64) :=
  keccak ((List.range 25).map (fun i => a.getD i 0 ^^^ (if i < 17 then BitVec.ofNat 64 (leAt blk (8 * i) 8) else 0)))

def sha3 (bs : List Byte) : List Byte :=
  let z := 136 - (bs.length + 1) % 136
  let pad := if z = 136 then [0x86#8] else 0x06#8 :: (List.replicate (z - 1) 0#8 ++ [0x80#8])
  let st := (chunks 136 (bs ++ pad)).foldl sha3Absorb (List.replicate 25 0#64)
  ((st.take 4).flatMap (fun x => leBytes 8 x.toNat))

/-! ## AES-256 -/

/-! A block is the number whose byte `i`, lowest first, is byte `i` of the block; a column of the state is a 32-bit word of it. -/

/-- The S-box and its inverse, entry `i` in byte `i`. -/
def sboxTable : Nat :=
    0xc072a49cafa2d4adf04759fa7dc982ca76abd7fe2b670130c56f6bf27b777c63 <<< 0 |||
    0x75b227ebe28012079a059618c323c7041531d871f1e5a534ccf73f362693fdb7 <<< 256 |||
    0xcf584c4a39becb6a5bb1fc20ed00d153842fe329b3d63b52a05a6e1b1a2c8309 <<< 512 |||
    0xd2f3ff1021dab6bcf5389d928f40a351a89f3c507f02f94585334d43fbaaefd0 <<< 768 |||
    0xdb0b5ede14b8ee4688902a22dc4f816073195d643d7ea7c41744975fec130ccd <<< 1024 |||
    0x08ae7a65eaf4566ca94ed58d6d37c8e779e4959162acd3c25c2406490a3a32e0 <<< 1280 |||
    0x9e1dc186b95735610ef6034866b53e708a8bbd4b1f74dde8c6b4a61c2e2578ba <<< 1536 |||
    0x16bb54b00f2d99416842e6bf0d89a18cdf2855cee9871e9b948ed9691198f8e1 <<< 1792
def sboxInvTable : Nat :=
    0xcbe9dec444438e3487ff2f9b8239e37cfbd7f3819ea340bf38a53630d56a0952 <<< 0 |||
    0x25d18b6d49a25b76b224d92866a12e084ec3fa420b954cee3d23c2a632947b54 <<< 256 |||
    0x849d8da75746155edab9edfd5048706c92b6655dcc5ca4d41698688664f6f872 <<< 512 |||
    0x6b8a130103bdafc1020f3fca8f1e2cd00645b3b80558e4f70ad3bc8c00abd890 <<< 768 |||
    0x6edf751ce837f9e28535ade72274ac9673e6b4f0cecff297eadc674f4111913a <<< 1024 |||
    0xf45acd78fec0db9a2079d2c64b3e56fc1bbe18aa0e62b76f89c5291d711af147 <<< 1280 |||
    0xef9cc9939f7ae52d0d4ab519a97f51605fec8027591012b131c7078833a8dd1f <<< 1536 |||
    0x7d0c2155631469e126d677ba7e042b17619953833cbbebc8b0f52aae4d3be0a0 <<< 1792

/-- The block whose byte `i` is the S-box of byte `at_ i` of `v`. -/
def subBytes (table : Nat) (at_ : Nat → Nat) (n v : Nat) : Nat :=
  (List.range n).foldl (fun acc i => acc ||| ((table >>> (8 * (v >>> (8 * at_ i) % 256))) % 256) <<< (8 * i)) 0

/-- SubBytes and ShiftRows, and their inverses. -/
def subShift (v : Nat) : Nat := subBytes sboxTable (fun i => (i + 4 * (i % 4)) % 16) 16 v
def subShiftInv (v : Nat) : Nat := subBytes sboxInvTable (fun i => (i + 64 - 4 * (i % 4)) % 16) 16 v

/-- Each byte of a block multiplied by x in the AES field. -/
def xtimeAll (v : Nat) : Nat :=
  ((v &&& 0x7F7F7F7F7F7F7F7F7F7F7F7F7F7F7F7F) <<< 1) ^^^ (((v >>> 7) &&& 0x01010101010101010101010101010101) * 0x1B)

/-- Each column turned by one byte: byte r takes byte r + 1. -/
def turnColumns (v : Nat) : Nat :=
  ((v >>> 8) &&& 0x00FFFFFF00FFFFFF00FFFFFF00FFFFFF) ||| ((v &&& 0x000000FF000000FF000000FF000000FF) <<< 24)

def mixColumns (v : Nat) : Nat :=
  let r := turnColumns v
  xtimeAll (v ^^^ r) ^^^ r ^^^ turnColumns r ^^^ turnColumns (turnColumns r)

/-- The inverse of `mixColumns`: its matrix is that of `mixColumns` times the circulant of 5, 0, 4, 0. -/
def mixColumnsInv (v : Nat) : Nat := mixColumns (v ^^^ xtimeAll (xtimeAll (v ^^^ turnColumns (turnColumns v))))

/-- The key schedule of AES-256: 60 words, newest first. -/
def expandKey : Nat → Nat → List Nat → List Nat
  | 0, _, ws => ws
  | n + 1, i, ws =>
    let last := ws.getD 0 0
    let t :=
      if i % 8 = 0 then subBytes sboxTable (fun k => (k + 1) % 4) 4 last ^^^ 2 ^ (i / 8 - 1)
      else if i % 8 = 4 then subBytes sboxTable id 4 last
      else last
    expandKey n (i + 1) ((ws.getD 7 0 ^^^ t) :: ws)

/-- The 15 round keys of a 32-byte key. -/
def roundKeys (key : List Byte) : List Nat :=
  let ws := (expandKey 52 8 ((chunks 4 key).map ofLE).reverse).reverse
  (List.range 15).map (fun i => (List.range 4).foldl (fun acc j => acc ||| ws.getD (4 * i + j) 0 <<< (32 * j)) 0)

def aesEncrypt (rk : List Nat) (blk : List Byte) : List Byte :=
  let k := fun i => rk.getD i 0
  leBytes 16 (subShift ((List.range 13).foldl (fun v i => mixColumns (subShift v) ^^^ k (i + 1)) (ofLE blk ^^^ k 0)) ^^^ k 14)

def aesDecrypt (rk : List Nat) (blk : List Byte) : List Byte :=
  let k := fun i => rk.getD i 0
  leBytes 16 (subShiftInv ((List.range 13).foldl (fun v i => mixColumnsInv (subShiftInv v ^^^ k (13 - i))) (ofLE blk ^^^ k 14)) ^^^ k 0)

def xorBytes (a b : List Byte) : List Byte := List.zipWith (· ^^^ ·) a b

/-! ## GCM -/

/-- Multiplication in the field of GHASH, bit 0 being the most significant (SP 800-38D). -/
def ghashMul (x y : BitVec 128) : BitVec 128 :=
  ((List.range 128).foldl (fun (zv : BitVec 128 × BitVec 128) i =>
    (if x.getLsbD (127 - i) then zv.1 ^^^ zv.2 else zv.1,
     if zv.2.getLsbD 0 then (zv.2 >>> 1) ^^^ (0xE1#128 <<< 120) else zv.2 >>> 1)) (0#128, y)).1

def block128 (b : List Byte) : BitVec 128 := BitVec.ofNat 128 (ofBE (padTo 16 b))

def ghash (h : BitVec 128) (blocks : List (List Byte)) : BitVec 128 :=
  blocks.foldl (fun acc b => ghashMul (acc ^^^ block128 b) h) 0#128

def counterBlock (iv : List Byte) (n : Nat) : List Byte := padTo 12 iv ++ beBytes 4 n

/-- Counter mode from counter 2 on. -/
def gcmStream (rk : List Nat) (iv : List Byte) (bs : List Byte) : List Byte :=
  ((chunks 16 bs).zipIdx.map (fun c => xorBytes c.1 (aesEncrypt rk (counterBlock iv (c.2 + 2))))).flatMap id

/-- The tag over associated data and ciphertext. -/
def gcmTag (key iv aad ct : List Byte) : List Byte :=
  let rk := roundKeys key
  let h := block128 (aesEncrypt rk (List.replicate 16 0#8))
  let x := ghash h (chunks 16 aad ++ chunks 16 ct ++ [beBytes 8 (8 * aad.length) ++ beBytes 8 (8 * ct.length)])
  xorBytes (beBytes 16 x.toNat) (aesEncrypt rk (counterBlock iv 1))

/-! ## XTS -/

/-- Multiply a tweak by x; the tweak is a little-endian number. -/
def xtsNext (t : BitVec 128) : BitVec 128 := if t.getLsbD 127 then (t <<< 1) ^^^ 0x87#128 else t <<< 1

def xexBlock (f : List Byte → List Byte) (t : BitVec 128) (b : List Byte) : List Byte :=
  let tb := leBytes 16 t.toNat
  xorBytes (f (xorBytes b tb)) tb

/-- The whole blocks of a unit, with the tweak of the next. -/
def xtsBlocks (f : List Byte → List Byte) : List (List Byte) → BitVec 128 → List Byte → List Byte × BitVec 128
  | [], t, acc => (acc, t)
  | b :: bs, t, acc => xtsBlocks f bs (xtsNext t) (acc ++ xexBlock f t b)

/-- One data unit of 16 bytes or more, with ciphertext stealing at its end (R374). -/
def xtsUnit (enc : Bool) (key : List Byte) (unit : Nat) (bs : List Byte) : List Byte :=
  let rk := roundKeys (key.take 32)
  let f := if enc then aesEncrypt rk else aesDecrypt rk
  let t0 := BitVec.ofNat 128 (ofLE (aesEncrypt (roundKeys (key.drop 32)) (leBytes 16 unit)))
  let r := bs.length % 16
  if r = 0 then (xtsBlocks f (chunks 16 bs) t0 []).1
  else
    let m := bs.length / 16
    let (head, t) := xtsBlocks f (chunks 16 (bs.take (16 * (m - 1)))) t0 []
    let lastFull := slice bs (16 * (m - 1)) 16
    let part := bs.drop (16 * m)
    if enc then
      let cc := xexBlock f t lastFull
      head ++ xexBlock f (xtsNext t) (part ++ cc.drop r) ++ cc.take r
    else
      let pp := xexBlock f (xtsNext t) lastFull
      head ++ xexBlock f t (part ++ pp.drop r) ++ pp.take r

/-! ## HMAC, the link keys and key unwrapping -/

def hmac256 (key msg : List Byte) : List Byte :=
  let k := padTo 64 key
  sha256 (k.map (· ^^^ 0x5C#8) ++ sha256 (k.map (· ^^^ 0x36#8) ++ msg))

/-- The PRF input of R324. -/
def linkKeyInput (moduleId remote : W64) (incarnation keyEpoch : Nat) (fromFarEnd : Bool) : List Byte :=
  beBytes 4 1 ++ [0x50#8, 0x4B#8, 0x58#8, 0x2D#8, 0x4C#8, 0x49#8, 0x4E#8, 0x4B#8] ++ [0#8] ++ beBytes 8 moduleId.toNat ++
  beBytes 8 remote.toNat ++ beBytes 4 incarnation ++ beBytes 4 keyEpoch ++ [if fromFarEnd then 2#8 else 1#8] ++ beBytes 4 0x100

/-- The key of one direction of an encrypted group (R324). -/
def linkKey (groupKey : List Byte) (moduleId remote : W64) (incarnation keyEpoch : Nat) (fromFarEnd : Bool) : List Byte :=
  hmac256 groupKey (linkKeyInput moduleId remote incarnation keyEpoch fromFarEnd)

/-- One inner step of unwrapping: the integrity register and the semiblocks, of which the last is taken and put first. -/
def unwrapStep (rk : List Nat) (st : List Byte × List (List Byte)) (t : Nat) : List Byte × List (List Byte) :=
  match st.2.getLast? with
  | none => st
  | some r =>
    let b := aesDecrypt rk (xorBytes st.1 (beBytes 8 t) ++ r)
    (b.take 8, b.drop 8 :: st.2.dropLast)

/-- AES-256 key unwrapping (KW-AD of SP 800-38F): the key, or none where the integrity check fails. -/
def unwrapKey (kek bs : List Byte) : Option (List Byte) :=
  let semi := chunks 8 bs
  let n := semi.length - 1
  if bs.length % 8 ≠ 0 ∨ n < 2 then none
  else
    let (a, r) := ((List.range (6 * n)).reverse.map (· + 1)).foldl (unwrapStep (roundKeys kek)) (semi.getD 0 [], semi.drop 1)
    if a = List.replicate 8 0xA6#8 then some (r.flatMap id) else none

end Sys2Proof.Machine
end

