-- ==== Sys2Proof/Machine/Deflate.lean ====
section
/-! DEFINITION. The DEFLATE compressor of the engines (R367, R368): the search of a level over its hash chains, and the blocks of RFC 1951
that its symbols make. -/

namespace Sys2Proof.Machine

/-! ## The tables of RFC 1951 -/

def lenBase : List Nat :=
  [3, 4, 5, 6, 7, 8, 9, 10, 11, 13, 15, 17, 19, 23, 27, 31, 35, 43, 51, 59, 67, 83, 99, 115, 131, 163, 195, 227, 258]

def lenExtra (i : Nat) : Nat := if i < 8 ∨ i = 28 then 0 else (i - 4) / 4
def distBase (i : Nat) : Nat := if i < 2 then i + 1 else 2 ^ (i / 2) + (i % 2) * 2 ^ (i / 2 - 1) + 1
def distExtra (i : Nat) : Nat := if i < 2 then 0 else i / 2 - 1

/-! ## The search (R368) -/

/-- A literal, or a match of a length at a distance. -/
inductive Sym where
  | lit (b : Byte)
  | ref (len dist : Nat)
deriving DecidableEq, Repr

/-- The row of a level; `steps` is how often a held match may give way, 0 without lazy matching. -/
structure Level where
  probes : Nat
  lazyLimit : Nat
  good : Nat
  nice : Nat
  steps : Nat
deriving DecidableEq, Repr

def levelRow (lv : Nat) : Level :=
  match lv with
  | 0 | 1 => ⟨4, 0, 0, 16, 0⟩
  | 2 => ⟨6, 0, 0, 32, 0⟩
  | 3 => ⟨8, 0, 0, 32, 0⟩
  | 4 => ⟨16, 16, 8, 64, 1⟩
  | 5 => ⟨32, 32, 8, 128, 1⟩
  | 6 => ⟨64, 64, 8, 128, 1⟩
  | 7 => ⟨128, 128, 16, 258, 1⟩
  | 8 => ⟨512, 258, 32, 258, 2⟩
  | _ => ⟨1024, 258, 32, 258, 2⟩

/-- The head of the hash table to which a position's next 3 bytes belong. -/
def hashAt (a : Array Byte) (p : Nat) : BitVec 15 := Config.hash3 (a.getD p 0#8) (a.getD (p + 1) 0#8) (a.getD (p + 2) 0#8)

/-- The chain of a position: the earlier ones of its head within the 32 KiB window, the nearest first. Every position of the block is
entered in its chain (LOG 11). -/
def chainAt (a : Array Byte) (p : Nat) : List Nat :=
  ((List.range (min p 32768)).map (fun i => p - 1 - i)).filter (fun q => hashAt a q == hashAt a p)

/-- Bytes that agree from two positions on, `n` at most. -/
def commonRun (a : Array Byte) : Nat → Nat → Nat → Nat
  | 0, _, _ => 0
  | n + 1, p, q => if a.getD p 0#8 = a.getD q 0#8 then commonRun a n (p + 1) (q + 1) + 1 else 0

/-- The longest match of the entries examined, the nearest of equal ones; a match of the nice length ends the search. -/
def longest (a : Array Byte) (p nice : Nat) : List Nat → Option (Nat × Nat) → Option (Nat × Nat)
  | [], b => b
  | q :: qs, b =>
    let l := commonRun a (min 258 (a.size - p)) p q
    let b1 := if 3 ≤ l ∧ (b.map (·.1)).getD 0 < l then some (l, p - q) else b
    if b1.any (fun m => decide (nice ≤ m.1)) then b1 else longest a p nice qs b1

/-- The match that the search finds at a position, with at most so many probes. -/
def searchAt (a : Array Byte) (r : Level) (probes p : Nat) : Option (Nat × Nat) :=
  if a.size < p + 3 then none else longest a p r.nice ((chainAt a p).take probes) none

/-- Lazy matching: a held match shorter than the limit gives way to a longer one at the next position, and the literals before the one that
is taken are counted. From the good length on the search uses a quarter of the probes. -/
def hold (a : Array Byte) (r : Level) : Nat → Nat → Nat × Nat → Nat × (Nat × Nat)
  | 0, _, m => (0, m)
  | n + 1, p, m =>
    if m.1 < r.lazyLimit then
      match searchAt a r (if r.good ≤ m.1 then r.probes / 4 else r.probes) (p + 1) with
      | some m1 => if m.1 < m1.1 then (let (k, m2) := hold a r n (p + 1) m1; (k + 1, m2)) else (0, m)
      | none => (0, m)
    else (0, m)

/-- The symbols of a block from a position on. -/
def symbolsFrom (a : Array Byte) (r : Level) : Nat → Nat → List Sym
  | 0, _ => []
  | n + 1, p =>
    if a.size ≤ p then []
    else match searchAt a r r.probes p with
      | none => .lit (a.getD p 0#8) :: symbolsFrom a r n (p + 1)
      | some m =>
        let (k, m1) := hold a r r.steps p m
        (List.range k).map (fun i => Sym.lit (a.getD (p + i) 0#8)) ++ .ref m1.1 m1.2 :: symbolsFrom a r n (p + k + m1.1)

def symbols (lv : Nat) (bs : List Byte) : List Sym := symbolsFrom bs.toArray (levelRow lv) bs.length 0

/-! ## The stream (R367) -/

def bitsLow (n v : Nat) : List Bool := (List.range n).map v.testBit
def bitsHigh (n v : Nat) : List Bool := (bitsLow n v).reverse

/-- The fixed code of a literal or length symbol. -/
def fixedCode (s : Nat) : List Bool :=
  if s < 144 then bitsHigh 8 (0x30 + s) else if s < 256 then bitsHigh 9 (0x190 + (s - 144))
  else if s < 280 then bitsHigh 7 (s - 256) else bitsHigh 8 (0xC0 + (s - 280))

/-- The last of the first `n` bases that does not exceed `v`. -/
def baseIndex (base : Nat → Nat) (n v : Nat) : Nat := ((List.range n).filter (fun i => decide (base i ≤ v))).length - 1

def fixedSym (x : Sym) : List Bool :=
  match x with
  | .lit b => fixedCode b.toNat
  | .ref len dist =>
    let i := baseIndex (fun i => lenBase.getD i 0) 29 len
    let j := baseIndex distBase 30 dist
    fixedCode (257 + i) ++ bitsLow (lenExtra i) (len - lenBase.getD i 0) ++ bitsHigh 5 j ++ bitsLow (distExtra j) (dist - distBase j)

def fixedBody (l : List Sym) : List Bool := l.flatMap fixedSym ++ fixedCode 256

/-- A symbol as the dynamic codes' constant takes it: a literal has length 0. -/
def symPair (x : Sym) : Nat × Nat := match x with | .lit b => (0, b.toNat) | .ref len dist => (len, dist)

/-- One DEFLATE block: fixed codes where they are shorter, else new dynamic ones, whose choice is left open (LOG 11). -/
def blockBits (final : Bool) (l : List Sym) : List Bool :=
  let f := fixedBody l
  let d := Config.dynamicBits (l.map symPair)
  final :: (if f.length < d.length then [true, false] ++ f else [false, true] ++ d)

/-- Blocks of 16,384 symbols, the last with BFINAL set. -/
def streamBits : List (List Sym) → List Bool
  | [] => blockBits true []
  | [l] => blockBits true l
  | l :: t => blockBits false l ++ streamBits t

/-- Pieces of `n` items. -/
def cut {α : Type} (n : Nat) (l : List α) : List (List α) := (List.range (cdiv l.length n)).map (fun i => (l.drop (i * n)).take n)

/-- Bits to bytes, from bit 0 up. -/
def packBits (bits : List Bool) : List Byte :=
  (cut 8 bits).map (fun c => BitVec.ofNat 8 ((c.zipIdx.map (fun x => flag x.1 x.2)).foldl (· + ·) 0))

/-- The DEFLATE stream of a block, or under RAW of a whole input, at a level (R367, R368). -/
def deflate (lv : Nat) (bs : List Byte) : List Byte := packBits (streamBits (cut 16384 (symbols lv bs)))

end Sys2Proof.Machine
end

