-- ==== Sys2Proof/Machine/Inflate.lean ====
section
/-! DEFINITION. The DEFLATE decoder of the engines (RFC 1951) with the error codes and bit offsets of R369 and R370, and the block
container of R366. -/

namespace Sys2Proof.Machine

namespace EngErr
def illegalCode : Nat := 0x01
def distanceTooFar : Nat := 0x02
def lengthOverrun : Nat := 0x03
def badBlockType : Nat := 0x04
def storedLength : Nat := 0x05
def truncated : Nat := 0x06
def containerCrc : Nat := 0x07
def badContainer : Nat := 0x08
def lengthShort : Nat := 0x09
def authFail : Nat := 0x10
def keyRefused : Nat := 0x11
def badLength : Nat := 0x12
def badJob : Nat := 0x20
def translation : Nat := 0x21
def isolated : Nat := 0x22
def overlap : Nat := 0x23
def resumeMismatch : Nat := 0x24
def memPoison : Nat := 0x25
def outputFull : Nat := 0x26
end EngErr

/-- How a decoding stops: an error with its bit offset, or no room for the next symbol. -/
inductive InfStop where
  | err (code bit : Nat)
  | full
deriving DecidableEq, Repr

/-- The decoder between two symbols: input bits [pos, lim) of the whole input, output newest first, and the count of output bytes of
the open block (or of the job, under RAW). -/
structure Inf where
  pos : Nat
  out : List Byte
  made : Nat
deriving DecidableEq, Repr

/-- What a decoding works under: the input, the end of its bits, the offset reported for a truncated input, the most bytes the block may
give with the offset of its ORIG_LENGTH field, none under RAW, and the bytes left in the output area. -/
structure InfEnv where
  inp : List Byte
  lim : Nat
  truncAt : Nat
  orig : Option (Nat × Nat)
  room : Nat
deriving DecidableEq, Repr

abbrev InfM (α : Type) := Except (InfStop × Inf) α

def infErr {α : Type} (st : Inf) (code bit : Nat) : InfM α := .error (.err code bit, st)

/-- `n` bits, the first the least significant. -/
def infBits (e : InfEnv) (st : Inf) (n : Nat) : InfM (Nat × Inf) :=
  if e.lim < st.pos + n then infErr st EngErr.truncated e.truncAt
  else
    let v := (List.range n).foldl (fun acc i =>
      let p := st.pos + i
      if (e.inp.getD (p / 8) 0#8).getLsbD (p % 8) then acc + 2 ^ i else acc) 0
    .ok (v, { st with pos := st.pos + n })

/-- The canonical code of a list of lengths: (length, code, symbol). -/
def canonical (lens : List Nat) : List (Nat × Nat × Nat) :=
  let go := fun (acc : List (Nat × Nat × Nat) × Nat) (l : Nat) =>
    let syms := (List.range lens.length).filter (fun i => lens.getD i 0 == l)
    (acc.1 ++ syms.zipIdx.map (fun x => (l, 2 * acc.2 + x.2, x.1)), 2 * acc.2 + syms.length)
  ((List.range 16).drop 1 |>.foldl go ([], 0)).1

/-- 2^15 times the Kraft sum of a set of lengths. -/
def kraft (lens : List Nat) : Nat := (lens.map (fun l => if l = 0 then 0 else 2 ^ (15 - l))).foldl (· + ·) 0

/-- A set is neither incomplete nor oversubscribed. -/
def completeSet (lens : List Nat) : Bool := kraft lens == 2 ^ 15

/-- RFC 1951 also lets a distance set be empty, or hold one code of one bit. -/
def distSetOk (lens : List Nat) : Bool :=
  completeSet lens || (lens.all (fun l => decide (l ≤ 1)) && decide ((lens.filter (fun l => l == 1)).length ≤ 1))

/-- Decode one symbol, adding one bit at a time. -/
def infSymGo (e : InfEnv) (code : List (Nat × Nat × Nat)) (start : Nat) : Nat → Nat → Nat → Inf → InfM (Nat × Inf)
  | 0, _, _, st => infErr st EngErr.illegalCode start
  | n + 1, l, acc, st =>
    match infBits e st 1 with
    | .error x => .error x
    | .ok (b, st1) =>
      let acc1 := 2 * acc + b
      match code.find? (fun c => c.1 == l && c.2.1 == acc1) with
      | some c => .ok (c.2.2, st1)
      | none => infSymGo e code start n (l + 1) acc1 st1

def infSym (e : InfEnv) (code : List (Nat × Nat × Nat)) (st : Inf) : InfM (Nat × Inf) := infSymGo e code st.pos 15 1 0 st

/-- Put bytes in the output, or stop before them: over the block's length, or with no room in the area. `bit` is the symbol's offset. -/
def infEmit (e : InfEnv) (before st : Inf) (n : Nat) (f : List Byte → List Byte) : InfM Inf :=
  match e.orig with
  | some (len, at_) =>
    if len < st.made + n then infErr before EngErr.lengthOverrun at_
    else if e.room < n + st.out.length then .error (.full, before)
    else .ok { st with out := f st.out, made := st.made + n }
  | none =>
    if e.room < n + st.out.length then .error (.full, before)
    else .ok { st with out := f st.out, made := st.made + n }

/-- Copy `n` bytes from `d` back; the output is newest first. -/
def copyBack (d : Nat) : Nat → List Byte → List Byte
  | 0, out => out
  | n + 1, out => copyBack d n (out.getD (d - 1) 0#8 :: out)

/-- Symbols of a compressed DEFLATE block up to its end symbol. -/
def infSymbols (e : InfEnv) (lit dist : List (Nat × Nat × Nat)) : Nat → Inf → InfM Inf
  | 0, st => infErr st EngErr.truncated e.truncAt
  | n + 1, st => do
    let (s, st1) ← infSym e lit st
    if s < 256 then
      let st2 ← infEmit e st st1 1 (fun o => BitVec.ofNat 8 s :: o)
      infSymbols e lit dist n st2
    else if s = 256 then pure st1
    else if 286 ≤ s then infErr st EngErr.illegalCode st.pos
    else
      let (x, st2) ← infBits e st1 (lenExtra (s - 257))
      let len := lenBase.getD (s - 257) 0 + x
      let (ds, st3) ← infSym e dist st2
      if 30 ≤ ds then infErr st EngErr.illegalCode st2.pos
      else
        let (y, st4) ← infBits e st3 (distExtra ds)
        let d := distBase ds + y
        if st4.made < d then infErr st EngErr.distanceTooFar st2.pos
        else
          let st5 ← infEmit e st st4 len (copyBack d len)
          infSymbols e lit dist n st5

/-- The code lengths of a dynamic block, `want` of them, by the code-length code (RFC 1951). -/
def infLens (e : InfEnv) (cl : List (Nat × Nat × Nat)) (want : Nat) : Nat → List Nat → Inf → InfM (List Nat × Inf)
  | 0, ls, st => .ok (ls, st)
  | n + 1, ls, st =>
    if want ≤ ls.length then .ok (ls, st)
    else do
      let (s, st1) ← infSym e cl st
      let put := fun (v k : Nat) (st2 : Inf) =>
        if want < ls.length + k then infErr st EngErr.illegalCode st.pos
        else infLens e cl want n (ls ++ List.replicate k v) st2
      if s < 16 then put s 1 st1
      else if s = 16 then
        match ls.getLast? with
        | none => infErr st EngErr.illegalCode st.pos
        | some v => do
          let (x, st2) ← infBits e st1 2
          put v (3 + x) st2
      else if s = 17 then do
        let (x, st2) ← infBits e st1 3
        put 0 (3 + x) st2
      else do
        let (x, st2) ← infBits e st1 7
        put 0 (11 + x) st2

def clOrder : List Nat := [16, 17, 18, 0, 8, 7, 9, 6, 10, 5, 11, 4, 12, 3, 13, 2, 14, 1, 15]

/-- `n` fields of 3 bits. -/
def infFields (e : InfEnv) : Nat → List Nat → Inf → InfM (List Nat × Inf)
  | 0, acc, st => .ok (acc, st)
  | n + 1, acc, st => do
    let (v, st1) ← infBits e st 3
    infFields e n (acc ++ [v]) st1

def fixedLit : List (Nat × Nat × Nat) :=
  canonical (List.replicate 144 8 ++ List.replicate 112 9 ++ List.replicate 24 7 ++ List.replicate 8 8)

def fixedDist : List (Nat × Nat × Nat) := canonical (List.replicate 32 5)

/-- A dynamic block: its tables, then its symbols. A set's offset is that of its first bit (LOG 22). -/
def infDynamic (e : InfEnv) (fuel : Nat) (st : Inf) : InfM Inf := do
  let (hlit, st1) ← infBits e st 5
  let (hdist, st2) ← infBits e st1 5
  let (hclen, st3) ← infBits e st2 4
  let (cls, st4) ← infFields e (hclen + 4) [] st3
  let clLens := (List.range 19).map (fun s => match clOrder.idxOf? s with | some i => cls.getD i 0 | none => 0)
  if !completeSet clLens then infErr st EngErr.illegalCode st3.pos
  else
    let want := hlit + 257 + hdist + 1
    let (ls, st5) ← infLens e (canonical clLens) want want [] st4
    let lit := ls.take (hlit + 257)
    let dist := ls.drop (hlit + 257)
    if !completeSet lit || !distSetOk dist then infErr st EngErr.illegalCode st4.pos
    else infSymbols e (canonical lit) (canonical dist) fuel st5

/-- Bytes of a stored DEFLATE block. -/
def infStoredBytes (e : InfEnv) : Nat → Inf → InfM Inf
  | 0, st => .ok st
  | n + 1, st => do
    let (b, st1) ← infBits e st 8
    let st2 ← infEmit e st st1 1 (fun o => BitVec.ofNat 8 b :: o)
    infStoredBytes e n st2

def infStored (e : InfEnv) (st : Inf) : InfM Inf := do
  let st0 := { st with pos := cdiv st.pos 8 * 8 }
  let (len, st1) ← infBits e st0 16
  let (nlen, st2) ← infBits e st1 16
  if len + nlen ≠ 65535 then infErr st EngErr.storedLength st0.pos
  else infStoredBytes e len st2

/-- DEFLATE blocks up to the one with BFINAL. -/
def infBlocks (e : InfEnv) (fuel : Nat) : Nat → Inf → InfM Inf
  | 0, st => infErr st EngErr.truncated e.truncAt
  | n + 1, st => do
    let (fin, st1) ← infBits e st 1
    let (ty, st2) ← infBits e st1 2
    let st3 ← (match ty with
      | 0 => infStored e st2
      | 1 => infSymbols e fixedLit fixedDist fuel st2
      | 2 => infDynamic e fuel st2
      | _ => infErr st EngErr.badBlockType st1.pos)
    if fin = 1 then pure st3 else infBlocks e fuel n st3

def inflate (e : InfEnv) (st : Inf) : InfM Inf := infBlocks e (8 * e.inp.length + 1) (8 * e.inp.length + 1) st

/-! ## Containers (R366) -/

/-- A container's header as the decompressor reads it. -/
structure Container where
  stored : Bool
  last : Bool
  orig : Nat
  comp : Nat
  crc : W32
deriving DecidableEq, Repr

/-- Block size of a BLOCK code (R357). -/
def blockSize (c : Nat) : Nat := if c = 0 then 65536 else 4096 * 2 ^ (c - 1)

/-- The header at byte `o`, or the error of R369 with its bit offset. -/
def readHeader (inp : List Byte) (o : Nat) : Except (Nat × Nat) Container :=
  let b := fun i => (inp.getD (o + i) 0#8).toNat
  let bad := fun i => Except.error (EngErr.badContainer, 8 * (o + i))
  if inp.length < o + 24 then .error (EngErr.truncated, 8 * inp.length)
  else if slice inp o 4 ≠ [0x50#8, 0x4B#8, 0x42#8, 0x4C#8] then bad 0
  else if b 4 ≠ 1 then bad 4
  else if b 5 / 4 % 4 ≠ 0 then bad 5
  else if b 6 = 0 ∨ 9 < b 6 then bad 6
  else if b 7 ≠ 0 then bad 7
  else
    let orig := leAt inp (o + 8) 4
    let comp := leAt inp (o + 12) 4
    if orig = 0 ∨ blockSize (b 6) < orig then bad 8
    else if leAt inp (o + 20) 4 ≠ 0 then bad 20
    else if b 5 % 2 = 1 ∧ comp ≠ orig then .error (EngErr.storedLength, 8 * (o + 12))
    else .ok { stored := b 5 % 2 = 1, last := b 5 / 2 % 2 = 1, orig := orig, comp := comp, crc := BitVec.ofNat 32 (leAt inp (o + 16) 4) }

/-- Bytes of a container: header, payload and padding. -/
def containerSize (comp : Nat) : Nat := 24 + cdiv comp 8 * 8

/-- How far a stage has come when it stops: input bytes of the released or checked output, output bytes checked, all output bytes, and
the reason. -/
structure StageOut where
  out : List Byte
  checked : Nat
  consumed : Nat
  /-- exact input position -/
  at_ : Nat
  stop : Option InfStop := none
deriving DecidableEq, Repr

/-- The decoder's output after an error: what was made before it. -/
def infOut (r : InfM Inf) : Inf × Option InfStop :=
  match r with
  | .ok st => (st, none)
  | .error (x, st) => (st, some x)

/-- Containers from byte `o` on; the output is newest first. -/
def unpackGo (inp : List Byte) (room : Nat) : Nat → Nat → List Byte → StageOut
  | 0, o, out => { out := out, checked := out.length, consumed := o, at_ := o, stop := some (.err EngErr.truncated (8 * inp.length)) }
  | n + 1, o, out =>
    let done := fun (x : Option InfStop) (more : List Byte) (p : Nat) =>
      ({ out := more, checked := out.length, consumed := o, at_ := p, stop := x } : StageOut)
    match readHeader inp o with
    | .error (c, bit) => done (some (.err c bit)) out o
    | .ok h =>
      if inp.length < o + containerSize h.comp then done (some (.err EngErr.truncated (8 * inp.length))) out o
      else
        let p := o + 24
        let (st, stop) :=
          if h.stored then
            let k := min h.orig (room - out.length)
            let st : Inf := { pos := 8 * (p + k), out := (slice inp p k).reverse ++ out, made := k }
            (st, if k < h.orig then some InfStop.full else none)
          else
            infOut (inflate { inp := inp, lim := 8 * (p + h.comp), truncAt := 8 * inp.length, orig := some (h.orig, 8 * (o + 8)),
                              room := room } { pos := 8 * p, out := out, made := 0 })
        match stop with
        | some x => done (some x) st.out (st.pos / 8)
        | none =>
          if st.made < h.orig then done (some (.err EngErr.lengthShort (8 * (o + 8)))) st.out (st.pos / 8)
          else if cdiv st.pos 8 < p + h.comp then done (some (.err EngErr.badContainer (cdiv st.pos 8 * 8))) st.out (st.pos / 8)
          else if crc32c (st.out.take h.orig).reverse ≠ h.crc then done (some (.err EngErr.containerCrc (8 * (o + 16)))) st.out p
          else
            let o1 := o + containerSize h.comp
            if h.last then
              { out := st.out, checked := st.out.length, consumed := o1, at_ := o1
                stop := if o1 < inp.length then some (.err EngErr.badContainer (8 * o1)) else none }
            else unpackGo inp room n o1 st.out

/-- Decompression with containers, or of a bare stream (R366, R367, R371). -/
def decompress (raw : Bool) (inp : List Byte) (room : Nat) : StageOut :=
  if raw then
    let (st, stop) := infOut (inflate { inp := inp, lim := 8 * inp.length, truncAt := 8 * inp.length, orig := none, room := room }
      { pos := 0, out := [], made := 0 })
    { out := st.out.reverse, checked := st.made, consumed := cdiv st.pos 8, at_ := st.pos / 8, stop := stop }
  else
    let r := unpackGo inp room (inp.length / 24 + 1) 0 []
    { r with out := r.out.reverse }

/-- One container of a block (R366, R367): STORED when the DEFLATE payload would be longer than the block. -/
def packBlock (level code : Nat) (last : Bool) (blk : List Byte) : List Byte :=
  let z := deflate level blk
  let stored := decide (blk.length < z.length)
  let pay := if stored then blk else z
  [0x50#8, 0x4B#8, 0x42#8, 0x4C#8, 1#8] ++
  [BitVec.ofNat 8 (flag stored 0 + flag last 1 + place level 4), BitVec.ofNat 8 (if code = 0 then 5 else code), 0#8] ++
  leBytes 4 blk.length ++ leBytes 4 pay.length ++ leBytes 4 (crc32c blk).toNat ++ leBytes 4 0 ++
  padTo (cdiv pay.length 8 * 8) pay

/-- Containers of the blocks, while each whole one fits (R371). -/
def packGo (level code room : Nat) : List (List Byte) → Nat → List Byte → StageOut
  | [], consumed, out => { out := out, checked := out.length, consumed := consumed, at_ := consumed }
  | b :: bs, consumed, out =>
    let c := packBlock level code bs.isEmpty b
    if room < out.length + c.length then
      { out := out, checked := out.length, consumed := consumed, at_ := consumed, stop := some .full }
    else packGo level code room bs (consumed + b.length) (out ++ c)

/-- Compression; a bare stream is one output (R367, LOG 22). -/
def compress (raw : Bool) (level code : Nat) (inp : List Byte) (room : Nat) : StageOut :=
  let lv := if level = 0 then 1 else level
  if raw then
    let z := deflate lv inp
    if room < z.length then
      { out := z.take room, checked := room, consumed := 0, at_ := 0, stop := some .full }
    else { out := z, checked := z.length, consumed := inp.length, at_ := inp.length }
  else packGo lv code room (chunks (blockSize code) inp) 0 []

end Sys2Proof.Machine
end

