-- ==== Sys2Proof/Machine/Events.lean ====
section
/-! DEFINITION. The event distributor and the mailboxes (R412-R434): registers of sources and mailboxes, sends, the delivery window,
and the entry of EVENT and MACHINE_CHECK. -/

namespace Sys2Proof.Machine

/-- A write to a register that the partition does not own is dropped and counted in PART_STATUS (R415). -/
def dropWrite (s : State) (p : Nat) : State := modPart s p (fun e => { e with dropped := e.dropped + 1 })

/-- The value that a register read returned. -/
def withRead (s : State) (v : W64) : State := { s with readOut := v }

/-! ## Source registers (R416, R417) -/

/-- EV_PENDING: a write ORs bits into a software source's PENDING; on other sources the register is read only. -/
def evPendingWrite (s : State) (p e : Nat) (v : W64) : State :=
  if srcOwner s e ≠ some p then dropWrite s p
  else if 1296 ≤ e then raiseMask s e (BitVec.ofNat 32 (field v 31 0))
  else s

/-- EV_TAKE returns PENDING and clears it in one step; a source that is not owned reads as zero (R415, R423). -/
def evTake (s : State) (p e : Nat) : State × W64 :=
  if srcOwner s e ≠ some p then (s, 0#64)
  else (modSource s e (fun x => { x with pending := 0#32 }), zx (evSource s e).pending)

/-- EV_BIND as it reads (R417). -/
def evBindWord (e : EvSource) : W64 :=
  BitVec.ofNat 64 (flag e.undeliv 63 + flag e.on 62 + place e.vector 48 + place e.task 40 + place e.lcore 32 + e.enable.toNat)

/-- A write of EV_BIND (R416-R418). -/
def evBindWrite (s : State) (p e : Nat) (v : W64) : State :=
  if srcOwner s e ≠ some p then dropWrite s p
  else
    let on := bitOf v 62
    let vec := field v 55 48
    let c := field v 38 32
    if (on && vec == 0) || partOf s c ≠ some p then s
    else modSource s e (fun x =>
      let en := BitVec.ofNat 32 (field v 31 0)
      let newly := en &&& ~~~x.enable &&& x.pending
      { x with
        undeliv := x.undeliv && !bitOf v 63
        on := on, vector := vec, task := field v 44 40, lcore := c, enable := en
        due := if newly = 0#32 then x.due else (match x.due with | none => some (pip s) | some k => some k) })

def execEvPendingWrite (p : PartNo) (e : SrcNo) (v : W64) (s : State) : Res := .next (whenServing s (evPendingWrite s p e v))

def execEvTake (p : PartNo) (e : SrcNo) (s : State) : Res :=
  .next (whenServing s (withRead (evTake s p e).1 (evTake s p e).2))

def execEvBindWrite (p : PartNo) (e : SrcNo) (v : W64) (s : State) : Res := .next (whenServing s (evBindWrite s p e v))

/-! ## Sending (R425-R427) -/

def sendQueueSize : Nat := 512

def mbxOpenTo (s : State) (m p : Nat) : Bool := (mbxSenders s m).testBit p

/-- Whether MBX_SEND is accepted now: the send queue has room, or the send is rejected without being queued (R427). -/
def sendAccepted (s : State) (c : Nat) (v : W64) : Bool :=
  decide (s.events.sendQ.length < sendQueueSize) || (match partOf s c with | some p => !mbxOpenTo s (field v 6 0) p | none => true)

/-- The MBX_SEND write of set `k` of LCORE[c]: the 64 staged bytes are captured, stamped and queued (R426, R427). A store that finds
the queue full is not accepted, and a core of no partition has no window. -/
def mbxSend (s : State) (c k : Nat) (v : W64) : State :=
  match partOf s c with
  | none => s
  | some p =>
    let m := field v 6 0
    if !mbxOpenTo s m p then modBlock s c k (fun b => { b with rejected := true })
    else if sendQueueSize ≤ s.events.sendQ.length then s
    else
      let snd : Send := { stamp := now s, pip := pip s, mbx := m, nomsg := bitOf v 7, db := BitVec.ofNat 32 (field v 63 32),
                          msg := (sendBlock s c k).stage,
                          sender := { priv := (taskSet s c k).tstat.priv, task := k, lcore := c, part := p },
                          sentEpoch := tget 0 s.events.resets p }
      modEvents s (fun e => { e with sendQ := e.sendQ ++ [snd] })

def execMbxSend (c : LC) (k : SetNo) (v : W64) (s : State) : Res := .next (whenServing s (mbxSend s c k v))

/-- SEND_STATUS (R426). -/
def sendStatusWord (b : SendBlock) : W64 :=
  BitVec.ofNat 64 (place (sat 32 b.abortCount) 32 + place b.abortMbx 16 + flag b.rejected 1 + flag b.aborted 0)

def sendStatusClear (s : State) (c k : Nat) (v : W64) : State :=
  modBlock s c k (fun b => { b with rejected := b.rejected && !bitOf v 1, aborted := b.aborted && !bitOf v 0 })

/-- An 8-byte word of the staging area. -/
def sendStageWrite (s : State) (c k w : Nat) (v : W64) : State :=
  modBlock s c k (fun b => { b with stage := splice b.stage (8 * w) (leBytes 8 v.toNat) })

/-! ## Mailbox registers (R429-R433) -/

/-- MBX_SENDER (R430). -/
def mbxSenderWord (x : Sender) : W64 :=
  if x.husk then BitVec.ofNat 64 (flag true 17)
  else BitVec.ofNat 64 (flag x.priv 16 + place x.task 11 + place x.lcore 4 + x.part)

/-- MBX_STATUS (R430). -/
def mbxStatusWord (m : Mailbox) : W64 :=
  BitVec.ofNat 64 (place m.seq.toNat 32 + place (sat 16 m.collisions) 16 + flag m.collision 1 + flag m.full 0)

/-- MBX_DB_TAKE returns MBX_DB and clears it in one step. -/
def mbxDbTake (s : State) (p m : Nat) : State × W64 :=
  if mbxOwner s m ≠ p then (s, 0#64)
  else (modMailbox s m (fun x => { x with db := 0#32 }), zx (mailbox s m).db)

def execMbxDbTake (p : PartNo) (m : MbxNo) (s : State) : Res :=
  .next (whenServing s (withRead (mbxDbTake s p m).1 (mbxDbTake s p m).2))

/-- RELEASE clears FULL only if its SEQ is the current one (R431). -/
def mbxRelease (s : State) (m : Nat) (v : W64) : State :=
  modMailbox s m (fun x => if field v 63 32 = x.seq.toNat then { x with full := false } else x)

/-- One message or send aborted by a receiver reset (R433). -/
def abortOne (s : State) (m : Nat) (x : Sender) (sentEpoch : Nat) : State :=
  if x.husk then modEvents s (fun e => { e with huskLog := e.huskLog ++ [m] })
  else if tget 0 s.events.resets x.part ≠ sentEpoch then s
  else
    raise (modBlock s x.lcore x.task (fun b => { b with aborted := true, abortMbx := m, abortCount := b.abortCount + 1 }))
      (Src.lcore x.lcore) 1

/-- A receiver reset of MBX[m] (R432, R433). -/
def mbxReset (s : State) (m : Nat) : State :=
  let x := mailbox s m
  let s1 := if x.full then abortOne s m x.sender x.sentEpoch else s
  let s2 := (s.events.sendQ.filter (fun q => q.mbx == m)).foldl (fun s q => abortOne s m q.sender q.sentEpoch) s1
  let s3 := modEvents s2 (fun e => { e with sendQ := e.sendQ.filter (fun q => q.mbx != m) })
  let s4 := modMailbox s3 m (fun x => { x with
    msg := List.replicate 64 0#8, sender := {}, stamp := 0#64, db := 0#32, full := false, collision := false })
  modSource s4 (Src.mailbox m) (fun e => { e with pending := 0#32 })

/-- A write of MBX_CTRL (R429). -/
def mbxCtrl (s : State) (p m : Nat) (v : W64) : State :=
  if mbxOwner s m ≠ p then dropWrite s p
  else
    let s1 := if bitOf v 0 then mbxRelease s m v else s
    if bitOf v 1 then mbxReset s1 m else s1

def execMbxRelease (p : PartNo) (m : MbxNo) (v : W64) (s : State) : Res :=
  .next (whenServing s (if mbxOwner s m ≠ p then dropWrite s p else mbxRelease s m v))

def execMbxReset (p : PartNo) (m : MbxNo) (_v : W64) (s : State) : Res :=
  .next (whenServing s (if mbxOwner s m ≠ p then dropWrite s p else mbxReset s m))

/-- RS bits of MBX_STATUS: a 1 clears COLLISION. -/
def mbxStatusClear (s : State) (p m : Nat) (v : W64) : State :=
  if mbxOwner s m ≠ p then dropWrite s p
  else modMailbox s m (fun x => { x with collision := x.collision && !bitOf v 1 })

def mbxDbMaskWrite (s : State) (p m : Nat) (v : W64) : State :=
  if mbxOwner s m ≠ p then dropWrite s p
  else modMailbox s m (fun x => { x with dbMask := BitVec.ofNat 32 (field v 31 0) })

/-! ## The delivery window (R418-R422, R428) -/

/-- Order of delivery: by stamp, then by source (R46, R427). -/
def sendBefore (a b : Send) : Bool :=
  decide (a.stamp.toNat < b.stamp.toNat) || (a.stamp == b.stamp && decide (a.mbx ≤ b.mbx))

def insertSend (x : Send) : List Send → List Send
  | [] => [x]
  | y :: ys => if sendBefore y x then y :: insertSend x ys else x :: y :: ys

def sortSends (l : List Send) : List Send := l.foldl (fun acc x => insertSend x acc) []

/-- One delivery (R428); what it raises is due in the same window (R419). -/
def deliverSend (s : State) (q : Send) : State :=
  let m := q.mbx
  let x := mailbox s m
  let newDb := x.db ||| q.db
  let rang := newDb &&& ~~~x.db &&& x.dbMask ≠ 0#32
  let causes : W32 := (if q.nomsg then 0#32 else 1#32) ||| (if rang then 2#32 else 0#32) |||
    (if !q.nomsg && x.full then 4#32 else 0#32)
  let x1 := { x with db := newDb }
  let x2 :=
    if q.nomsg then x1
    else { x1 with
      msg := q.msg, sender := q.sender, stamp := q.stamp, sentEpoch := q.sentEpoch, seq := x.seq + 1, full := true
      collision := x.collision || x.full, collisions := if x.full then x.collisions + 1 else x.collisions }
  raiseMaskAt (modMailbox s m (fun _ => x2)) (pip s - 1) serviceDie (Src.mailbox m) causes

/-- A vector for one set is queued; the same number is held once (R420). -/
def queueVector (s : State) (c k v : Nat) : State :=
  modLCore s c (fun l => { l with
    evq := tmod [] l.evq k (fun q => if q.contains v then q else q ++ [v]) })

/-- The vector of a source is undeliverable (R422). -/
def undeliverable (s : State) (e : Nat) (x : EvSource) : Bool :=
  decide ((taskSet s x.lcore x.task).tstat.state = .empty) || (lcore s x.lcore).failed ||
  decide (partOf s x.lcore = none ∨ partOf s x.lcore ≠ srcOwner s e)

/-- Deliver the vector of one source that is due (R418, R422). -/
def deliverVector (s : State) (e : Nat) : State :=
  let x := evSource s e
  let s1 := modSource s e (fun x => { x with due := none, delivered := some (pip s) })
  if undeliverable s e x then
    let s2 := modSource s1 e (fun x => { x with undeliv := true })
    if 1280 ≤ e ∧ e < 1296 then s2
    else match srcOwner s e with
      | some p => notice s2 p Notice.undeliverable e
      | none => s2
  else queueVector s1 x.lcore x.task x.vector

def vectorDue (s : State) (x : EvSource) : Bool :=
  x.on && !x.undeliv && (match x.due with | some k => decide (k < pip s) | none => false)

def minOf (l : List Nat) : Option Nat := l.foldl (fun m x => match m with | none => some x | some y => some (min x y)) none

/-- Stage the lowest pending number of one set (R420); a number queued for an EMPTY set waits (LOG 19). The vector of a parked trio starts
its wake (R229, R230). -/
def stageSet (s : State) (c k : Nat) : State :=
  let t := taskSet s c k
  let q := tget [] (lcore s c).evq k
  if t.tstat.evpend || decide (t.tstat.state = .empty) then s
  else match minOf q with
    | none => s
    | some v =>
      let s1 := modSet (modLCore s c (fun l => { l with evq := tset l.evq k (q.filter (· != v)) })) c k
        (fun t => { modTstat t (fun x => { x with evpend := true }) with staged := some v })
      domainPacket s1 (64 + trioOf c)

def stageAll (s : State) : State :=
  s.lcores.foldl (fun s e => e.2.evq.foldl (fun s q => stageSet s e.1 q.1) s) s

/-- The whole window: the messages sent before this pip, then every vector due, then staging (R419, R420). -/
def deliveryWindow (s : State) : State :=
  let ready := sortSends (s.events.sendQ.filter (fun q => decide (q.pip < pip s)))
  let s1 := modEvents s (fun e => { e with sendQ := e.sendQ.filter (fun q => !decide (q.pip < pip s)) })
  let s2 := ready.foldl deliverSend s1
  let dueNow := (s2.events.sources.filter (fun e => vectorDue s2 e.2)).map (·.1)
  stageAll (forEach s2 dueNow deliverVector)

/-- The window of grains 768-895 runs once in a pip; after an overrun of activity 7 the items wait for the next pip's (R40, R42). -/
def eventWindow (s : State) : State :=
  if timeRuns s ∧ s.time.eventPip ≠ some (pip s) ∧ s.time.grain ≤ 895 then
    let s1 := modTime (toGrain s 768) (fun t => { t with eventPip := some (pip s) })
    if overran s 7 then s1 else deliveryWindow s1
  else s

/-! ## Entry of EVENT and MACHINE_CHECK (R131, R132) -/

/-- The RUNNING set enters EVENT at this boundary, or the MACHINE_CHECK that is pending before it. -/
def execEvent (c : LC) (s : State) : Res :=
  .next (if runs s c && (curSet s c).tstat.evpend && !(curSet s c).tstat.evmask then enterPending s c false else s)

def execMachineCheck (c : LC) (s : State) : Res :=
  .next (if runs s c && (curSet s c).tstat.mcpend && !(curSet s c).tstat.intrap then enterPending s c false else s)

end Sys2Proof.Machine
end

