-- ==== Sys2Proof/Machine/Xlate.lean ====
section
/-! DEFINITION. I/O translation (R339-R342), accesses of an I/O die through it, dirty-page logging (R347, R348) and the invalidation
slots (R343-R345). -/

namespace Sys2Proof.Machine

/-- Why an access of an I/O die fails: a translation fault with its reason (R340), or an ISOLATED answer. -/
inductive IoErr where
  | fault (reason : Nat)
  | isolated
deriving DecidableEq, Repr

/-- Leaf entries that one unit caches (R342). -/
def leafCacheSize : Nat := 16384

/-- The walk of an IOVA (R339, R340): page shift, page address, R and W; or the reason of the fault, with the line of a table that is
answered ISOLATED. -/
def walkIo : Nat → State → Nat → Nat → W64 → Except (Nat × Option Nat) (Nat × Nat × Bool × Bool)
  | 0, _, _, _, _ => .error (5, none)
  | n + 1, s, p, table, iova =>
    let level := 4 - n
    let pa := table + 8 * field iova (12 + 9 * n + 8) (12 + 9 * n)
    if !inRanges s p pa 8 || (devOf pa).isSome then .error (3, none)
    else if isolatedFrom s 2 (lineOf pa) then .error (6, some (lineOf pa))
    else
      let c := wordNow s pa
      let e := c.w.data
      if c.poison then .error (6, none)
      else if !bitOf e 0 then .error (1, none)
      else if !entryShapeOk e level then .error (5, none)
      else if bitOf e 5 then
        let sh := leafShift level
        if entryPa e % 2 ^ sh ≠ 0 then .error (5, none) else .ok (sh, entryPa e, bitOf e 1, bitOf e 2)
      else walkIo n s p (entryPa e) iova

def leavesOf (s : State) (d : Nat) : List Leaf := tget [] s.leaves d

/-- The cached leaf of a slice that maps an IOVA. -/
def findLeaf (s : State) (d sl : Nat) (iova : Nat) : Option Leaf :=
  (leavesOf s d).find? (fun l => l.slice == sl && l.page == iova >>> l.shift)

/-- The checks on a leaf: permission, then the partition's ranges (R333, R340). -/
def useLeaf (s : State) (p : Nat) (l : Leaf) (iova n : Nat) (wr : Bool) : Except Nat Nat :=
  if (if wr then !l.w else !l.r) then .error 2
  else
    let pa := l.pa + iova % 2 ^ l.shift
    if inRanges s p pa n && (devOf pa).isNone then .ok pa else .error 3

/-- Translate `n` bytes at an IOVA of a slice on IO[d]; a walk fills the unit's cache (R342). -/
def ioTranslate (s : State) (d sl : Nat) (iova : W64) (n : Nat) (wr : Bool) : State × Except Nat Nat :=
  let e := sliceE s sl
  if field iova 63 48 ≠ 0 then (s, .error 4)
  else match findLeaf s d sl iova.toNat with
    | some l => (s, useLeaf s e.part l iova.toNat n wr)
    | none => match walkIo 4 s e.part e.root iova with
      | .error (r, iso) => ((match iso with | some ln => countIso s (2 + d) ln | none => s), .error r)
      | .ok (sh, pa, r, w) =>
        let l : Leaf := { slice := sl, page := iova.toNat >>> sh, shift := sh, pa := pa, r := r, w := w }
        ({ s with leaves := tmod [] s.leaves d (fun ls => (l :: ls).take leafCacheSize) },
          useLeaf s e.part l iova.toNat n wr)

/-- A translation fault is counted in the slice's status (R340, R351). -/
def noteFault (s : State) (sl reason : Nat) : State :=
  modSlice s sl (fun e => { e with faultCount := e.faultCount + 1, lastFault := reason })

/-- Whether any line of [pa, pa + n) is answered ISOLATED to an I/O die. -/
def ioIsolated (s : State) (d pa n : Nat) : Bool :=
  (List.range (n / 128 + 2)).any (fun i => decide (128 * (lineOf pa + i) < pa + n) && isolatedFrom s (2 + d) (lineOf pa + i))

/-- The ISOLATED answer of the first such line is counted at its hull (R233). -/
def ioCount (s : State) (d pa n : Nat) : State :=
  match (List.range (n / 128 + 2)).find? (fun i => decide (128 * (lineOf pa + i) < pa + n) && isolatedFrom s (2 + d) (lineOf pa + i)) with
  | some i => countIso s (2 + d) (lineOf pa + i)
  | none => s

/-- Bytes read through translation, one 4 KiB chunk at a time. -/
def ioReadChunks : Nat → State → Nat → Nat → Nat → Nat → List Byte → State × Except IoErr (List Byte)
  | 0, s, _, _, _, _, acc => (s, .ok acc)
  | k + 1, s, d, sl, iova, n, acc =>
    if n = 0 then (s, .ok acc)
    else
      let m := min n (4096 - iova % 4096)
      match ioTranslate s d sl (BitVec.ofNat 64 iova) m false with
      | (s1, .error r) => (noteFault s1 sl r, .error (.fault r))
      | (s1, .ok pa) =>
        if ioIsolated s1 d pa m then (ioCount s1 d pa m, .error .isolated)
        else ioReadChunks k (ioPackets s1 pa m) d sl (iova + m) (n - m) (acc ++ ioRead s1 pa m)

/-- Read `n` bytes at an IOVA (R339). -/
def ioReadV (s : State) (d sl iova n : Nat) : State × Except IoErr (List Byte) :=
  ioReadChunks (n / 4096 + 2) s d sl iova n []

/-- A poisoned word lies in the bytes of an IOVA range that translates. -/
def ioPoisonV (s : State) (d sl iova n : Nat) : Bool :=
  (List.range (n / 4096 + 2)).any (fun i =>
    let a := if i = 0 then iova else (iova / 4096 + i) * 4096
    let m := min (iova + n) ((a / 4096 + 1) * 4096) - a
    decide (a < iova + n) && (match (ioTranslate s d sl (BitVec.ofNat 64 a) m false).2 with
      | .ok pa => ioPoisoned s pa m
      | .error _ => false))

/-- BYTES of one die's area of a log buffer (R347). -/
def logAreaBytes (pages : Nat) : Nat := cdiv pages 1024 * 128

/-- Physical address of the byte that holds a page's bit in the area of IO[d] (R347). -/
def logByteAddr (e : SliceE) (d i : Nat) : Nat :=
  (if e.logBuffer then e.buf1 else e.buf0) + d * logAreaBytes e.logPages + i / 1024 * 128 + i % 1024 / 8

/-- Log a write of IO[d] to a page before its first WrLine (R348): a bit is written only when it changes from 0 to 1; a page outside the
window sets LOG_OUTSIDE. -/
def logPage (s : State) (d sl iova : Nat) : State :=
  let e := sliceE s sl
  if !e.logOn then s
  else
    let i := (iova - e.logIova) / 4096
    if iova < e.logIova ∨ e.logPages ≤ i then modSlice s sl (fun e => { e with logOutside := true })
    else
      let a := logByteAddr e d i
      let b := byteNow s a
      if b.getLsbD (i % 8) then s else ioWriteBytes s d a [b ||| (1#8 <<< (i % 8))]

/-- Bytes written through translation, one 4 KiB chunk at a time. -/
def ioWriteChunks (alloc : Bool) : Nat → State → Nat → Nat → Nat → List Byte → State × Except IoErr Unit
  | 0, s, _, _, _, _ => (s, .ok ())
  | _ + 1, s, _, _, _, [] => (s, .ok ())
  | k + 1, s, d, sl, iova, bs =>
    let m := min bs.length (4096 - iova % 4096)
    match ioTranslate s d sl (BitVec.ofNat 64 iova) m true with
    | (s1, .error r) => (noteFault s1 sl r, .error (.fault r))
    | (s1, .ok pa) =>
      if ioIsolated s1 d pa m then (ioCount s1 d pa m, .error .isolated)
      else ioWriteChunks alloc k (ioWriteBytes (logPage s1 d sl iova) d pa (bs.take m) alloc) d sl (iova + m) (bs.drop m)

/-- Write bytes at an IOVA of a slice from IO[d] (R339, R348) (LOG 75). -/
def ioWriteV (s : State) (d sl iova : Nat) (bs : List Byte) (alloc : Bool := false) : State × Except IoErr Unit :=
  ioWriteChunks alloc (bs.length / 4096 + 2) s d sl iova bs

/-- The I/O die has no write of its own on the way to a home (R20, R266). -/
def ioQuiet (s : State) (d : Nat) : Bool :=
  (s.coh.out ++ s.coh.held).all (fun o => match o.r with | .wrLine q .. => q != d | _ => true)

/-! ## SLICE_STATUS (R351) -/

def sliceStateCode (x : SliceState) : Nat := match x with | .free => 0 | .active => 1 | .held => 2 | .resetting => 3

def sliceStatusWord (e : SliceE) : W64 :=
  BitVec.ofNat 64 (place (sat 16 e.faultCount) 48 + place (e.lastFault % 16) 44 + place e.gen 24 + place e.part 20 +
    flag e.logOutside 5 + flag e.logBuffer 4 + flag e.logOn 3 + sliceStateCode e.state)

/-! ## Invalidation slots (R343-R346) -/

def invKey (p k : Nat) : Nat := 16 * p + k
def invSlot (s : State) (p k : Nat) : InvSlot := tget {} s.invSlots (invKey p k)
def modInv (s : State) (p k : Nat) (f : InvSlot → InvSlot) : State := { s with invSlots := tmod {} s.invSlots (invKey p k) f }

/-- INV_CSR as it reads. -/
def invCsrWord (x : InvSlot) : W64 :=
  BitVec.ofNat 64 (place x.error 24 + flag x.event 3 + flag x.err 2 + flag x.done 1 + flag x.busy 0)

/-- A leaf overlaps the range of an INVALIDATE; 0 pages are the whole slice. -/
def leafHit (l : Leaf) (sl iova pages : Nat) : Bool :=
  l.slice == sl && (pages == 0 || (decide (l.page <<< l.shift < iova + pages * 4096) && decide (iova < (l.page + 1) <<< l.shift)))

/-- Drop every cached entry of a slice that overlaps a range, on each I/O die (R344). -/
def dropLeaves (s : State) (sl iova pages : Nat) : State :=
  { s with leaves := s.leaves.map (fun e => (e.1, e.2.filter (fun l => !leafHit l sl iova pages))) }

/-- ERROR of a request: the slice is not in the partition, or INV_IOVA is misaligned or above 2^48 (R343). -/
def invError (s : State) (p : Nat) (x : InvSlot) : Nat :=
  let sl := field x.sliceNo 11 0
  let e := sliceE s sl
  if decide (e.state = .free) || e.part != p then 1
  else if field x.iova 11 0 ≠ 0 ∨ 2 ^ 48 < x.iova.toNat then 2
  else 0

/-- A write of INV_CSR (R343): ignored while BUSY is 1; RS bits are cleared where a 1 is written; GO starts a request, which drops
the cached entries at once. Writes whose WrLines are on their way still go to the old pages (R344, LOG 21). -/
def invCsrWrite (s : State) (p k : Nat) (v : W64) : State :=
  let x := invSlot s p k
  if x.busy then s
  else
    let x1 := { x with event := bitOf v 3, err := x.err && !bitOf v 2, done := x.done && !bitOf v 1 }
    if bitOf v 0 then
      let er := invError s p x1
      if er ≠ 0 then modInv s p k (fun _ => { x1 with done := false, err := true, error := er })
      else
        dropLeaves (modInv s p k (fun _ => { x1 with done := false, busy := true, error := 0, goPip := pip s }))
          (field x1.sliceNo 11 0) x1.iova.toNat x1.pages.toNat
    else modInv s p k (fun _ => x1)

def execInvalidate (p : PartNo) (k : Fin 16) (v : W64) (s : State) : Res := .next (whenServing s (invCsrWrite s p k v))

/-- IO[d] has finished its chunks: the WrLines of its writes have their Cmp, and the reads of this model are whole (LOG 21). A lost die
counts as drained 1 pip after its declaration (R344). -/
def drained (s : State) (d : Nat) : Bool := if dieLost s (2 + d) then decide (tget 0 s.net.lostPip (2 + d) + 1 ≤ pip s) else ioQuiet s d

/-- Every die has finished: DONE, INV_STAMP and, with EVENT, the notice INV_DONE (R343-R345). -/
def execInvalidateDone (p : PartNo) (k : Fin 16) (s : State) : Res :=
  .next (whenServing s (
    if (invSlot s p k).busy ∧ (List.range 4).all (drained s) then
      let s1 := modInv s p k (fun x => { x with busy := false, done := true, stamp := now s })
      if (invSlot s p k).event then notice s1 p Notice.invDone k else s1
    else s))

/-- A write to INV_IOVA, INV_PAGES or INV_SLICE (`which` 0, 1, 2), ignored while BUSY is 1. -/
def invWrite (s : State) (p k which : Nat) (v : W64) : State :=
  if (invSlot s p k).busy then s
  else modInv s p k (fun x => match which with
    | 0 => { x with iova := v }
    | 1 => { x with pages := v }
    | _ => { x with sliceNo := v })

end Sys2Proof.Machine
end

