-- ==== Sys2Proof/Machine/EngineJob.lean ====
section
/-! DEFINITION. Engine jobs: the descriptor and its checks (R352, R357, R358), what a job's stages make of its input (R352-R375),
and the status word and result area (R363, R364). -/

namespace Sys2Proof.Machine

/-! ## The descriptor (R357) -/

structure Desc where
  comp : Bool
  decomp : Bool
  enc : Bool
  dec : Bool
  dig : Bool
  digOut : Bool
  resume : Bool
  level : Nat
  block : Nat
  cipher : Nat
  digest : Nat
  event : Bool
  raw : Bool
  ivGen : Bool
  fence : Bool
  key : Nat
  aadLen : Nat
  inp : Nat
  inLen : Nat
  outLen : Nat
  out : Nat
  result : Nat
  resumeArea : Nat
  param : List Byte
  token : Nat
  /-- a field marked zero, or one with a value that gives BAD_JOB by itself -/
  badField : Bool
deriving DecidableEq, Repr

def parseDesc (bs : List Byte) : Desc :=
  let b := fun i => (bs.getD i 0#8).toNat
  let bit := fun i k => (b i).testBit k
  let cipher := b 2 % 4
  let digest := b 2 / 4 % 4
  { comp := bit 0 0, decomp := bit 0 1, enc := bit 0 2, dec := bit 0 3, dig := bit 0 4, digOut := bit 0 5, resume := bit 0 6
    level := b 1 % 16, block := b 1 / 16, cipher := cipher, digest := digest
    event := bit 3 0, raw := bit 3 1, ivGen := bit 3 2, fence := bit 3 3
    key := leAt bs 4 2, aadLen := leAt bs 6 2, inp := leAt bs 8 8, inLen := leAt bs 16 4, outLen := leAt bs 20 4
    out := leAt bs 24 8, result := leAt bs 32 8, resumeArea := leAt bs 40 8, param := slice bs 48 12, token := leAt bs 60 4
    badField := bit 0 7 || decide (9 < b 1 % 16) || decide (9 < b 1 / 16) || cipher == 3 || digest == 3 ||
      decide (b 2 / 16 ≠ 0) || decide (b 3 / 16 ≠ 0) || (cipher == 0 && leAt bs 4 2 != 0) ||
      (cipher == 1 && (decide (2 < b 56) || decide (leAt bs 57 3 ≠ 0))) || (!bit 0 6 && leAt bs 60 4 != 0) }

/-- A job names stages of one chain (R352). -/
def oneChain (d : Desc) : Bool :=
  (d.comp || d.decomp || d.enc || d.dec || d.dig) && !((d.comp || d.enc) && (d.decomp || d.dec))

/-- R358 but for overlaps. -/
def stagesAgree (d : Desc) : Bool :=
  ((d.cipher != 0) == (d.enc || d.dec)) && ((d.digest != 0) == d.dig) &&
  (d.aadLen == 0 || (d.cipher == 2 && !d.comp && !d.decomp))

def rangesMeet (a n b m : Nat) : Bool := decide (0 < n ∧ 0 < m ∧ a < b + m ∧ b < a + n)

def resumeSize : Nat := 40960

/-- Input, output, result and resume areas that overlap (R358). -/
def areasOverlap (d : Desc) : Bool :=
  let r := if d.resumeArea = 0 then 0 else resumeSize
  rangesMeet d.inp d.inLen d.out d.outLen || rangesMeet d.inp d.inLen d.result 128 || rangesMeet d.out d.outLen d.result 128 ||
  rangesMeet d.inp d.inLen d.resumeArea r || rangesMeet d.out d.outLen d.resumeArea r || rangesMeet d.result 128 d.resumeArea r

/-- The error of a standalone job's descriptor, before it reads anything (R352, R357, R358). -/
def descError (d : Desc) : Option Nat :=
  if d.badField || !oneChain d || !stagesAgree d || d.inLen == 0 || d.outLen == 0 || d.result % 128 != 0 || d.resumeArea % 4096 != 0
  then some EngErr.badJob
  else if areasOverlap d then some EngErr.overlap
  else none

/-! ## Keys (R373, R471) -/

def keyE (s : State) (h : Nat) : Option KeyE := tfind s.boot.keys h

def keyBytes (k : KeyE) : List Byte := beBytes 64 k.value.toNat

/-- The key bytes that the key under its handle gives a job of partition `p`, or none: KEY_REFUSED, whatever the cause (R373, R466). -/
def jobKey (k : Option KeyE) (p : Nat) (d : Desc) : Option (List Byte) :=
  if d.cipher = 0 then some []
  else match k with
    | none => none
    | some k =>
      if !k.barred && k.kind == d.cipher && k.mask.getLsbD p && k.dirs.testBit (if d.enc then 0 else 1) then some (keyBytes k) else none

/-- IVs in one reservation (R474). -/
def ivReservation : Nat := 2 ^ 20

/-- What the non-volatile memory keeps of a key's IV counter: the next unused reservation. -/
def ivRecord (k : KeyE) : W32 × BitVec 512 × Nat := (k.inst, k.value, if 0 < k.drawn then k.reserved + 1 else k.reserved)

/-- The IV that the key store draws (R374): the key's engine-instance value, then its counter. -/
def drawIv (s : State) (h : Nat) : State × List Byte :=
  match keyE s h with
  | none => (s, List.replicate 12 0#8)
  | some k =>
    let k1 := if k.drawn < ivReservation then k else { k with reserved := k.reserved + 1, drawn := 0 }
    (modBoot s (fun b => { b with keys := tset b.keys h { k1 with drawn := k1.drawn + 1 } }),
      beBytes 4 k.inst.toNat ++ beBytes 8 (k1.reserved * ivReservation + k1.drawn))

/-! ## The stages -/

/-- What a job has made when it ends (R363, R364): the output stream from the job's first byte on. -/
structure JobOut where
  state : Nat
  error : Nat := 0
  out : List Byte := []
  progress : Nat := 0
  consumed : Nat := 0
  exact : Nat := 0
  digest : Option (List Byte) := none
  tag : Option (List Byte) := none
  bitOff : Option Nat := none
deriving DecidableEq, Repr

def jobError (code : Nat) : JobOut := { state := 4, error := code }

def unitBytes (d : Desc) (n : Nat) : Nat :=
  match (d.param.getD 8 0#8).toNat with
  | 0 => 512
  | 1 => 4096
  | _ => n

/-- BAD_LENGTH of XTS (R369). -/
def xtsBadLength (d : Desc) (n : Nat) : Bool :=
  let u := unitBytes d n
  decide (n = 0) || decide (0 < n % u ∧ n % u < 16) || decide (u < 16) ||
  (d.param.getD 8 0#8 == 2#8 && decide (2 ^ 24 < n))

/-- AES-256-XTS over whole data units, the tweak rising by 1 with each (R374). -/
def xtsRun (d : Desc) (key bs : List Byte) : List Byte :=
  (chunks (unitBytes d bs.length) bs).zipIdx.flatMap (fun u =>
    xtsUnit d.enc key (leAt d.param 0 8 + u.2) u.1)

/-- The cipher stage: output and, for GCM, the tag of the ciphertext. -/
def cipherRun (d : Desc) (key iv bs : List Byte) : Except Nat (List Byte × List Byte) :=
  match d.cipher with
  | 1 => if xtsBadLength d bs.length then .error EngErr.badLength else .ok (xtsRun d key bs, [])
  | 2 =>
    let k := key.take 32
    let aad := bs.take d.aadLen
    let text := bs.drop d.aadLen
    let x := gcmStream (roundKeys k) iv text
    .ok (aad ++ x, gcmTag k iv aad (if d.enc then x else text))
  | _ => .ok (bs, [])

def digestRun (d : Desc) (bs : List Byte) : Option (List Byte) :=
  if !d.dig then none else some (if d.digest = 1 then sha256 bs else sha3 bs)

/-- End of a stage chain that ran out of room or of input, or that erred. -/
def stageEnd (d : Desc) (r : StageOut) (out inp tag : List Byte) (held : Bool) : JobOut :=
  let base : JobOut := { state := 2, out := out, progress := if held then 0 else r.checked, consumed := if held then 0 else r.consumed,
                         exact := r.at_ }
  match r.stop with
  | none => { base with progress := r.checked, consumed := r.consumed, digest := digestRun d (if d.digOut then out else inp),
                        tag := if d.enc && d.cipher == 2 then some tag else none }
  | some .full => { base with state := 3 }
  | some (.err c bit) => { base with state := 4, error := c, bitOff := some bit }

/-- A job without a DEFLATE stage: the bytes that fit. -/
def plainStage (bs : List Byte) (room : Nat) : StageOut :=
  if room < bs.length then { out := bs.take room, checked := room, consumed := room, at_ := room, stop := some .full }
  else { out := bs, checked := bs.length, consumed := bs.length, at_ := bs.length }

/-- The outbound chain: DEFLATE, cipher, digest (R352). A part that stops leaves the first bytes of the whole job's output. -/
def outbound (d : Desc) (key iv inp : List Byte) (room : Nat) : JobOut :=
  let r := if d.comp then compress d.raw d.level d.block inp room else plainStage inp room
  let whole := if r.stop.isNone then r.out else if d.comp then (compress d.raw d.level d.block inp (2 ^ 64)).out else inp
  match cipherRun d key iv whole with
  | .error c => jobError c
  | .ok (x, tag) => stageEnd d r (x.take r.out.length) inp tag false

/-- The inbound chain: cipher, DEFLATE, digest (R352). No byte of a GCM job is checked until the tag has passed (R363). -/
def inbound (d : Desc) (key iv inp expTag : List Byte) (room : Nat) : JobOut :=
  match cipherRun d key iv inp with
  | .error c => jobError c
  | .ok (x, tag) =>
    let r := if d.decomp then decompress d.raw x room else plainStage x room
    let gcm := d.cipher == 2
    if gcm && r.stop.isNone && tag != expTag then { jobError EngErr.authFail with out := r.out }
    else stageEnd d r r.out inp tag gcm

/-- What a job makes of its whole input under a bound on its whole output (LOG 76). -/
def jobRun (d : Desc) (key iv inp expTag : List Byte) (room : Nat) : JobOut :=
  if d.decomp || d.dec then inbound d key iv inp expTag room else outbound d key iv inp room

/-! ## The status word and the result area -/

/-- The status word (R363). -/
def statusWord (progress error : Nat) (rerun resumable : Bool) (engine state : Nat) : Nat :=
  place (progress % 2 ^ 40) 24 + place (error % 256) 16 + flag rerun 11 + flag resumable 10 + place (engine % 32) 4 + state

/-- Result area but for the stamp and the status word, as (offset, bytes) (R364). -/
def resultParts (o : JobOut) (token : Nat) (iv : Option (List Byte)) : List (Nat × List Byte) :=
  [(0x08, leBytes 8 o.consumed), (0x10, leBytes 8 o.out.length), (0x18, leBytes 8 token)] ++
  (match o.digest with | some x => [(0x20, x)] | none => []) ++
  (match o.tag with | some x => [(0x40, x)] | none => []) ++
  [(0x50, leBytes 8 (o.bitOff.getD (2 ^ 64 - 1)))] ++
  (match iv with | some x => if o.state = 2 then [(0x58, x)] else [] | none => []) ++
  [(0x64, leBytes 4 0), (0x70, List.replicate 16 0#8)]

/-- Write several pieces; stops at the first that fails. -/
def ioWriteParts (s : State) (d sl : Nat) : List (Nat × List Byte) → State × Except IoErr Unit
  | [] => (s, .ok ())
  | (a, bs) :: t => match ioWriteV s d sl a bs with
    | (s1, .ok ()) => ioWriteParts s1 d sl t
    | r => r

/-- Write a job's result area with its stamp, the final status word last (R362, R364). -/
def writeResult (s : State) (d sl base : Nat) (parts : List (Nat × List Byte)) (stamp : W64) (word : Nat) : State × Except IoErr Unit :=
  ioWriteParts s d sl ((parts ++ [(0x68, leBytes 8 stamp.toNat), (0, leBytes 8 word)]).map (fun (q : Nat × List Byte) => (base + q.1, q.2)))

/-- The resume record (R371). Of the inner layout of its state areas the model fixes only that the GCM counter, the IV and the next
count, stands first (LOG 11). -/
def resumeRecord (desc : List Byte) (o : JobOut) (token : Nat) (iv inp : List Byte) : List Byte :=
  let win := o.out.drop (o.out.length - 32768)
  leBytes 8 1 ++ leBytes 8 token ++ leBytes 8 o.exact ++ leBytes 4 o.out.length ++ leBytes 4 o.progress ++ slice desc 0 8 ++
  List.replicate 24 0#8 ++ padTo 12 iv ++ beBytes 4 (o.out.length / 16 + 2) ++
  (List.range 944).map (fun i => Config.resumeState desc (inp.take o.exact) (0x50 + i)) ++
  padTo 32768 (if (parseDesc desc).decomp then win else []) ++ List.replicate 7168 0#8

/-- Bytes 0-7 of the descriptor without OPS.RESUME (R372). -/
def resumeKey (bs : List Byte) : List Byte := (slice bs 0 8).set 0 ((bs.getD 0 0#8) &&& 0xBF#8)

def ioErrCode (e : IoErr) : Nat := match e with | .fault _ => EngErr.translation | .isolated => EngErr.isolated

/-- The state of a resumed part (R372): the output of the earlier parts in bytes and the job's IV, or the error of the check. The token
is set to zero. -/
def checkResume (s : State) (die sl : Nat) (desc : List Byte) (d : Desc) : State × Except Nat (Nat × List Byte) :=
  match ioReadV s die sl d.resumeArea 76 with
  | (s1, .error e) => (s1, .error (ioErrCode e))
  | (s1, .ok r) =>
    if leAt r 0 8 = 1 ∧ leAt r 8 4 = d.token ∧ d.token ≠ 0 ∧ resumeKey (slice r 0x20 8) = resumeKey desc ∧ d.resumeArea ≠ 0 then
      match ioWriteV s1 die sl (d.resumeArea + 8) (leBytes 8 0) with
      | (s2, .ok ()) => (s2, .ok (leAt r 0x18 4, slice r 0x40 12))
      | (s2, .error e) => (s2, .error (ioErrCode e))
    else (s1, .error EngErr.resumeMismatch)

/-- Read a job's input from memory. -/
def readInput (s : State) (die sl : Nat) (d : Desc) : State × Except Nat (List Byte) :=
  match ioReadV s die sl d.inp d.inLen with
  | (s1, .error e) => (s1, .error (ioErrCode e))
  | (s1, .ok bs) => if ioPoisonV s1 die sl d.inp d.inLen then (s1, .error EngErr.memPoison) else (s1, .ok bs)

/-- The final writes of a standalone job's output stream from byte `prev` on: output area, resume record; the answer is the job's end as
its result area shows it, with the token. -/
def writeOutput (s : State) (die sl : Nat) (desc : List Byte) (d : Desc) (o : JobOut) (prev : Nat) (iv inp : List Byte) :
    State × JobOut × Nat :=
  match ioWriteV s die sl d.out (o.out.drop prev) with
  | (s1, .error e) => (s1, jobError (ioErrCode e), 0)
  | (s1, .ok ()) =>
    if o.state = 3 ∧ d.resumeArea ≠ 0 then
      let (s2, w) := useFree s1
      let token := w.toNat % (2 ^ 32 - 1) + 1
      match ioWriteV s2 die sl d.resumeArea (resumeRecord desc o token iv inp) with
      | (s3, .error e) => (s3, jobError (ioErrCode e), 0)
      | (s3, .ok ()) => (s3, o, token)
    else (s1, o, 0)

/-- The key store draws the job's IV (R374). -/
def drawsIv (d : Desc) : Bool := d.ivGen && d.enc && d.cipher == 2

/-- What a standalone job that starts takes from the key store: its key, and the IV of a first part under IV_GEN that is not refused (R373,
R374, R475). -/
def takeKey (s : State) (j : Job) : State × Option KeyE × Option (List Byte) :=
  let d := parseDesc j.desc
  let k := j.key.or (keyE s d.key)
  if drawsIv d && !d.resume && (descError d).isNone && (jobKey k j.part d).isSome then
    let (s1, iv) := drawIv s d.key
    (s1, k, some iv)
  else (s, k, none)

/-- A standalone job at its start: its descriptor's checks, its key and IV, the resume record, and the expected tag of a decryption
(R357, R358, R372-R374). -/
def beginJob (s : State) (sl : Nat) (j0 : Job) : State × Job :=
  let d := parseDesc j0.desc
  let (s0, k, iv) := takeKey s j0
  let j := { j0 with key := k, iv := iv, prev := 0, expTag := [], early := none }
  match descError d with
  | some c => (s0, { j with early := some c })
  | none =>
    if (jobKey k j.part d).isNone then (s0, { j with early := some EngErr.keyRefused })
    else match (if !d.resume then (s0, .ok (0, [])) else if j0.resumed then (s0, .ok (j0.prev, j0.iv.getD d.param))
                else checkResume s0 j.die sl j.desc d) with
      | (s1, .error c) => (s1, { j with early := some c })
      | (s1, .ok (prev, oldIv)) =>
        let j1 := { j with prev := prev, resumed := d.resume, iv := if d.resume && drawsIv d then some oldIv else iv }
        if d.dec && d.cipher == 2 then
          match ioReadV s1 j.die sl (d.result + 0x40) 16 with
          | (s2, .error e) => (s2, { j1 with early := some (ioErrCode e) })
          | (s2, .ok tag) => (s2, { j1 with expTag := tag })
        else (s1, j1)

/-- What a running standalone job makes of its input, which it reads from memory (R357-R375). -/
def jobOutput (s : State) (sl : Nat) (j : Job) : State × JobOut × List Byte :=
  let d := parseDesc j.desc
  match j.early, jobKey j.key j.part d with
  | some c, _ => (s, jobError c, [])
  | none, none => (s, jobError EngErr.keyRefused, [])
  | none, some key => match readInput s j.die sl d with
    | (s1, .error c) => (s1, jobError c, [])
    | (s1, .ok inp) => (s1, jobRun d key (j.iv.getD d.param) inp j.expTag (j.prev + d.outLen), inp)

/-- The whole of a standalone job: what it writes but the result area, its end, the token, and the IV drawn (R357-R375). -/
def runStandalone (s : State) (sl : Nat) (j : Job) : State × JobOut × Nat × Option (List Byte) :=
  let (s1, o, inp) := jobOutput s sl j
  if o.state = 4 ∧ o.out = [] then (s1, o, 0, j.iv)
  else
    let d := parseDesc j.desc
    let (s2, o2, token) := writeOutput s1 j.die sl j.desc d o j.prev (j.iv.getD d.param) inp
    (s2, o2, token, j.iv)

end Sys2Proof.Machine
end

