-- ==== Sys2Proof/Machine/Wire.lean ====
section
/-! DEFINITION. The bytes of a sent channel frame, from its destination address to its FCS (R290-R295, R324, R325). -/

namespace Sys2Proof.Machine

/-- FLAGS (R295). -/
def txFlags (f : TxFrame) : Nat := flag f.sequenced 0 + flag f.enc 1 + flag f.retx 2 + flag f.last 3

/-- The 24 bytes of the header (R295). -/
def txHeader (f : TxFrame) : List Byte :=
  [0x10#8, BitVec.ofNat 8 f.ftype, BitVec.ofNat 8 (txFlags f), BitVec.ofNat 8 (f.path % 8), BitVec.ofNat 8 f.epoch, 0#8] ++
  beBytes 2 f.body.length ++ beBytes 8 f.tag.toNat ++ beBytes 4 f.seq ++ beBytes 4 f.ackSeq

/-- The IEEE 802.1Q tag: TPID 0x8100, then priority and VID. -/
def vlanTag (v : Option (Nat × Nat)) : List Byte :=
  match v with
  | none => []
  | some (vid, pri) => beBytes 2 0x8100 ++ beBytes 2 (place pri 13 + vid)

/-- The security extension (R325). -/
def txExtension (f : TxFrame) : List Byte :=
  if f.enc then beBytes 4 f.keyEpoch ++ beBytes 8 f.counter ++ List.replicate 4 0#8 else []

/-- From the destination address to the end of the security extension: in an encrypted group the additional authenticated data (R325). -/
def txHead (f : TxFrame) : List Byte :=
  beBytes 6 f.dst.toNat ++ beBytes 6 f.src.toNat ++ vlanTag f.vlan ++ beBytes 2 f.etherType ++ txHeader f ++ txExtension f

/-- The IV of a frame (R325). -/
def txIv (f : TxFrame) : List Byte :=
  [BitVec.ofNat 8 (f.path % 8), BitVec.ofNat 8 f.epoch, 0#8, 0#8] ++ beBytes 8 f.counter

/-- The body, encrypted and followed by its GCM tag in an encrypted group. -/
def txBody (key : List Byte) (f : TxFrame) : List Byte :=
  if f.enc then
    let ct := gcmStream (roundKeys key) (txIv f) f.body
    ct ++ gcmTag key (txIv f) (txHead f) ct
  else f.body

/-- The shortest frame of IEEE 802.3, without its FCS (R292). -/
def minFrame : Nat := 60

/-- The whole frame, padded after its body, with the FCS in the order IEEE 802.3 sends it (R292, R294). -/
def txBytes (key : List Byte) (f : TxFrame) : List Byte :=
  let b := txHead f ++ txBody key f
  let p := b ++ List.replicate (minFrame - b.length) 0#8
  p ++ leBytes 4 (crc32 p).toNat

/-- The transmit key of a group under a key epoch (R324). -/
def txKey (s : State) (g keyEpoch : Nat) : List Byte :=
  match (group s g).keyValue with
  | some v => linkKey ((beBytes 64 v.toNat).take 32) s.ident.moduleId (group s g).remote s.ident.incarnation.toNat keyEpoch false
  | none => []

/-- The bytes of a frame of PG[g]. -/
def wireImage (s : State) (g : Nat) (f : TxFrame) : List Byte := txBytes (txKey s g f.keyEpoch) f

end Sys2Proof.Machine
end

