-- ==== Sys2Proof/Machine/Paths.lean ====
section
/-! DEFINITION. Path groups and the wire (R289-R330): frames sent, windows, path choice, path loss with its redrives, liveness, rekey,
demotion and PATH_STATUS. -/

namespace Sys2Proof.Machine

/-! ## Channels and groups -/

def chanDie (n : Nat) : Nat := n / 128
def isExpress (n : Nat) : Bool := decide (n % 128 < 4)

/-- IO[d] is lost (R272). -/
def ioLost (s : State) (d : Nat) : Bool := dieLost s (2 + d)

def livePaths (s : State) (g : Nat) : List Nat := (group s g).chans.filter (fun n => decide ((chan s n).state = .live))

/-- WEFF (R312). -/
def weff (g : Group) (c : Chan) : Nat := if c.demoted then cdiv c.weight g.demoteDiv else c.weight

/-- HELLO_RX (R308). -/
def helloRx (g : Group) : Nat := min 10 (max 1 (g.dPips / 4))

/-- Largest DLEN that the module sends on a path (R302, R327). -/
def maxDataOf (g : Group) (n : Nat) (c : Chan) : Nat := min (if isExpress n then 1024 else g.maxData) c.peerMaxData

/-- A path serves both dies of its pair: the group is protected (R244). -/
def bothDies (g : Group) : Bool := g.chans.any (fun n => chanDie n % 2 == 0) && g.chans.any (fun n => chanDie n % 2 == 1)

/-- Smooth weighted selection among the LIVE paths but one (R312). -/
def choosePath (s : State) (g : Nat) (except_ : Option Nat) : State × Option Nat :=
  let l := (livePaths s g).filter (fun n => some n != except_)
  let s1 := forEach s l (fun s n => modChan s n (fun c => { c with cur := c.cur + weff (group s g) c }))
  let total : Int := (l.map (fun n => (weff (group s g) (chan s n) : Int))).foldl (· + ·) 0
  let best := l.foldl (fun (b : Option Nat) n => match b with
    | none => some n
    | some m => if (chan s1 m).cur < (chan s1 n).cur then some n else some m) none
  match best with
  | none => (s, none)
  | some k => (modChan s1 k (fun c => { c with cur := c.cur - total }), some k)

/-- CUR is 0 on every path whenever the set of LIVE paths changes. -/
def resetCur (s : State) (g : Nat) : State := forEach s (group s g).chans (fun s n => modChan s n (fun c => { c with cur := 0 }))

/-! ## Rekey (R326) -/

/-- Start a rekey of an encrypted group unless one is running. -/
def startRekey (s : State) (g : Nat) : State :=
  let x := group s g
  if x.keyValue.isNone || x.rekey.isSome then s
  else
    let s1 := modGroup s g (fun x => { x with rekey := some { since := pip s, nextEpoch := x.keyEpoch + 1 }, rekeyRetry := none })
    forEach s1 x.chans (fun s n => modChan s n (fun c => { c with nextReady := false }))

/-! ## Sending frames (R294-R301) -/

namespace FType
def open_ : Nat := 0x01
def data : Nat := 0x02
def ack : Nat := 0x03
def nak : Nat := 0x04
def complete : Nat := 0x05
def abort : Nat := 0x06
def resumeQuery : Nat := 0x07
def resumeAnswer : Nat := 0x08
def hello : Nat := 0x09
def gone : Nat := 0x0A
end FType

/-- FRAME_COUNTER at which a rekey starts. -/
def counterLimit : Nat := 2 ^ 48

/-- Put a frame on the wire: it takes the path's index, epoch and ACK_SEQ, the addresses of R291, the channel's 802.1Q tag, and in an
encrypted group ENC with the key epoch and a new counter (R290-R295, R325). `wireImage` gives its bytes. -/
def putFrame (s : State) (n : Nat) (f : TxFrame) : State :=
  let c := chan s n
  let g := match c.group with | some g => group s g | none => {}
  let f1 := { f with
    epoch := c.epoch, ackSeq := c.rxSeq, counter := c.frameCounter, path := c.pathIndex, etherType := chEtherType s, vlan := c.vlan
    dst := c.peer.getD 0xFFFFFFFFFFFF#48, src := Config.channelAddress n, enc := g.keyValue.isSome, keyEpoch := g.keyEpoch }
  let s1 := modChan s n (fun c => { c with wire := f1 :: c.wire, frameCounter := c.frameCounter + 1 })
  match c.group with
  | some g => if counterLimit ≤ c.frameCounter + 1 then startRekey s1 g else s1
  | none => s1

/-- Send a new frame; a sequenced one takes the next number and waits for its acknowledgement (R298). -/
def sendFrame (s : State) (n ftype : Nat) (sequenced : Bool) (tag : W64) (body : List Byte) (last : Bool) : State :=
  let c := chan s n
  let f : TxFrame := { ftype := ftype, seq := c.txSeq, sequenced := sequenced, tag := tag, body := body, last := last }
  let s1 := putFrame s n f
  if sequenced then
    modChan s1 n (fun c => { c with
      txSeq := (c.txSeq + 1) % 2 ^ 32, unacked := c.unacked ++ [f]
      oldestSince := if c.unacked.isEmpty then pip s else c.oldestSince })
  else s1

/-- Room for one more sequenced frame (R300). -/
def windowRoom (c : Chan) : Bool := decide (c.unacked.length < c.peerWindow)

/-- Send a sequenced frame now, or queue it until the window has room (R277, R300). -/
def sendOrQueue (s : State) (n ftype : Nat) (tag : W64) (body : List Byte) : State :=
  if windowRoom (chan s n) && (chan s n).queued.isEmpty then sendFrame s n ftype true tag body false
  else modChan s n (fun c => { c with queued := c.queued ++ [{ ftype := ftype, seq := 0, sequenced := true, tag := tag, body := body }] })

/-- Queued frames go out as the window opens. -/
def sendQueued (s : State) (n : Nat) : State :=
  (chan s n).queued.foldl (fun s f =>
    if windowRoom (chan s n) then
      sendFrame (modChan s n (fun c => { c with queued := c.queued.drop 1 })) n f.ftype true f.tag f.body false
    else s) s

/-- The module acknowledges with an ACK of TAG zero (R299). -/
def sendAck (s : State) (n : Nat) : State := sendFrame s n FType.ack false 0#64 (List.replicate 8 0#8) false

/-- One NAK for the expected number, and no second within RTO (R299). -/
def sendNak (s : State) (n reason : Nat) : State :=
  let c := chan s n
  let rto := match c.group with | some g => (group s g).rto | none => 4
  if c.nakFor = some c.rxSeq ∧ pip s < c.nakPip + rto then s
  else
    modChan (sendFrame s n FType.nak false 0#64 (beBytes 4 c.rxSeq ++ [BitVec.ofNat 8 reason, 0#8, 0#8, 0#8]) false) n
      (fun c => { c with nakFor := some c.rxSeq, nakPip := pip s })

/-- a is after b, modulo 2^32 (R298). -/
def seqAfter (a b : Nat) : Bool := let d := (a + 2 ^ 32 - b % 2 ^ 32) % 2 ^ 32; decide (1 ≤ d ∧ d < 2 ^ 31)

/-- Send again from a sequence number, in order (R301). -/
def resendFrom (s : State) (n seq : Nat) : State :=
  let fs := (chan s n).unacked.filter (fun f => !seqAfter seq f.seq)
  modChan (fs.foldl (fun s f => putFrame s n { f with retx := true }) s) n
    (fun c => { c with retxCount := c.retxCount + fs.length, oldestSince := pip s })

/-- An ACK_SEQ received. -/
def takeAck (s : State) (n ackSeq : Nat) : State :=
  modChan s n (fun c =>
    let rest := c.unacked.filter (fun f => !seqAfter ackSeq f.seq)
    if rest.length < c.unacked.length then { c with unacked := rest, rtoCount := 0, oldestSince := pip s } else c)

/-! ## Exchanges: tags and decisions -/

namespace Rec
def success : Nat := 0x00
def remoteError : Nat := 0x01
def cancelled : Nat := 0x02
def terminated : Nat := 0x03
def noPath : Nat := 0x04
def timeout : Nat := 0x05
def badDescriptor : Nat := 0x06
def badPathGroup : Nat := 0x07
def translationFault : Nat := 0x08
def duplicateSeq : Nat := 0x09
def chainAborted : Nat := 0x0A
def dieLost : Nat := 0x0B
def datapathError : Nat := 0x0C
def isolated : Nat := 0x0D
def pathLost : Nat := 0x0E
def abortUnconfirmed : Nat := 0x0F
def tooLate : Nat := 0x11
def notFound : Nat := 0x12
def alreadyCancelling : Nat := 0x13
end Rec

namespace Op
def read : Nat := 1
def write : Nat := 2
def control : Nat := 3
def sense : Nat := 4
def chain : Nat := 5
def echo : Nat := 6
def cancel : Nat := 7
end Op

/-- The exchange tag (R255). -/
def tagNat (e : Exch) : Nat :=
  place e.part 60 + place e.id.slice.val 48 + place (e.gen % 256) 40 + place (e.seqNo % 2 ^ 24) 16 + place (e.attempt % 16) 12

def tagOf (e : Exch) : W64 := BitVec.ofNat 64 (tagNat e)

def exRank (x : ExSt) : Nat :=
  match x with
  | .fetched => 0 | .allocated => 1 | .mirrored => 2 | .accepted => 3 | .inFlight => 4 | .awaitAck => 5 | .data => 6
  | .remoteComplete => 7 | .logged => 8 | .composed => 9 | .posted => 10 | .retired => 11

/-- Descriptors whose SQ_HEAD has passed them. -/
def isAccepted (e : Exch) : Bool := decide (3 ≤ exRank e.st)

/-- Between its OPEN's queueing and its COMPLETE. -/
def onPath (e : Exch) : Bool := e.res.isNone && (e.st = .inFlight || e.st = .awaitAck || e.st = .data)

def isMember (e : Exch) : Bool := e.chainHead.isSome

/-- A chain member that failed gives its status to its CHAIN, the first in ring order standing (R262). -/
def noteChain (s : State) (e : Exch) (r : ExRes) : State :=
  match e.chainHead with
  | none => s
  | some h =>
    if r.code = Rec.success then s
    else modExch s h (fun x =>
      if x.dataFault.isNone ∨ e.chainPos < x.chainPos then { x with dataFault := some r, chainPos := e.chainPos } else x)

/-- An exchange's completion is decided; the first decision stands. SYNTH marks one that no COMPLETE brought (R264). -/
def decideWith (s : State) (x : ExId) (r : ExRes) : State :=
  match exch s x with
  | none => s
  | some e =>
    if e.res.isSome then s
    else noteChain (modExch s x (fun e => { e with res := some { r with synth := decide (e.st ≠ .remoteComplete) }, abort := none })) e r

def decide_ (s : State) (x : ExId) (code detail : Nat) : State := decideWith s x { code := code, detail := detail }

/-- Members of a chain in ring order. -/
def membersOf (s : State) (h : ExId) : List Exch := s.exchs.filter (fun e => e.chainHead == some h)

/-- The member's turn has come: every earlier member that is left has succeeded (R262). -/
def chainTurn (s : State) (e : Exch) : Bool :=
  match e.chainHead with
  | none => true
  | some h => (membersOf s h).all (fun m => decide (e.chainPos ≤ m.chainPos) ||
      (match m.res with | some r => r.code == Rec.success | none => false))

/-- FENCE: every exchange that the ring pair accepted before it is POSTED; its own CHAIN counts as accepted with it (R260). -/
def fenceOk (s : State) (e : Exch) : Bool :=
  !(e.flags.testBit 0) ||
  s.exchs.all (fun o => !(decide (o.id.slice = e.id.slice ∧ o.id.pair = e.id.pair) && isAccepted o && decide (o.order < e.order)) ||
    e.chainHead == some o.id)

/-- The inline job lets the OPEN go: it has started, or a compressed WRITE has been staged (R377, R378). -/
def jobReady (s : State) (e : Exch) : Bool :=
  match job s (.inl e.id) with
  | none => true
  | some j =>
    if e.opcode = Op.write ∧ (parseDesc j.desc).comp then e.staged.isSome else decide (j.st = .running)

/-- The path on which the members of an exchange's chain run: the one its CHAIN was given, or took at a redrive (R262). -/
def chainPath (s : State) (e : Exch) : Option Nat :=
  match e.chainHead with
  | some h => (match e.pin, exch s h with | none, some y => y.path | _, _ => e.path)
  | none => e.path

/-- The chain of a member runs on a path from now on. -/
def setChainPath (s : State) (e : Exch) (k : Nat) : State :=
  match e.chainHead with
  | some h => if e.pin.isNone then modExch s h (fun y => { y with path := some k }) else s
  | none => s

/-- Queue an exchange's OPEN on a path that is new to it: a path on another die is a redrive, which ATTEMPT counts (R266, R271). -/
def moveTo (s : State) (e : Exch) (k : Nat) : State :=
  if chanDie k = e.owner then setChainPath (modExch s e.id (fun e => { e with st := .inFlight, path := some k })) e k
  else if (group s e.group).attemptMax < e.attempt + 1 then decide_ s e.id Rec.noPath 0
  else
    let s1 := modExch s e.id (fun e => { e with st := .inFlight, path := some k, owner := chanDie k, attempt := e.attempt + 1 })
    setChainPath { s1 with jobs := s1.jobs.map (fun j =>
      if j.id = .inl e.id ∧ e.staged.isNone then { j with die := chanDie k, st := .accepted, engine := none } else j) } e k

/-- Start an accepted exchange: its OPEN is queued on a path (R266), chosen anew when the path of its allocation is not LIVE. A pinned
one keeps its channel. -/
def promote (s : State) (x : ExId) : State :=
  match exch s x with
  | none => s
  | some e =>
    if e.st ≠ .accepted ∨ e.res.isSome ∨ e.terminating ∨ e.opcode = Op.chain ∨ e.opcode = Op.cancel then s
    else if !(chainTurn s e && fenceOk s e && jobReady s e) then s
    else match e.dataFault with
      | some r => decideWith s x r
      | none =>
        match chainPath s e with
        | some n =>
          if (chan s n).state = .live then
            (if e.path = some n then modExch s x (fun e => { e with st := .inFlight }) else moveTo s e n)
          else if e.pin.isSome then s
          else (match choosePath s e.group none with
            | (s1, some k) => moveTo s1 e k
            | (_, none) => s)
        | none => match choosePath s e.group none with
          | (s1, some k) => moveTo s1 e k
          | (_, none) => s

/-- Later members of a failed chain complete with CHAIN_ABORTED (R262). -/
def abortLater (s : State) (e : Exch) : State :=
  match e.chainHead with
  | none => s
  | some h =>
    let failed := (membersOf s h).any (fun m => decide (m.chainPos < e.chainPos) &&
      (match m.res with | some r => r.code != Rec.success | none => false))
    let earlier := (match exch s h with | some y => y.dataFault.isSome && decide (y.chainPos < e.chainPos) | none => false)
    if (failed || earlier) && e.res.isNone && decide (e.st = .accepted) then decide_ s e.id Rec.chainAborted 0 else s

/-- Start whatever may start, in order of acceptance. -/
def promoteAll (s : State) : State :=
  let s1 := s.exchs.foldl abortLater s
  (s1.exchs.map (fun e => e.id)).foldl promote s1

/-! ## ABORT (R305, R306) -/

namespace AbortBy
def cancel : Nat := 1
def timeout : Nat := 2
def reset : Nat := 3
def datapath : Nat := 4
end AbortBy

/-- Send an exchange's ABORT on its path if that is LIVE and has room; the wait of ABORT_WAIT starts. One of a slice reset is sent once and
waits for room in the path's queue (R277, R306). -/
def sendAbort (s : State) (x : ExId) (cause : Nat) : State :=
  match exch s x with
  | none => s
  | some e =>
    let a := match e.abort with | some a => a | none => { cause := cause, sends := 0, since := pip s }
    let go : Bool := match e.path with
      | some n => decide ((chan s n).state = .live) && (windowRoom (chan s n) || cause == AbortBy.reset)
      | none => false
    let s1 := modExch s x (fun e => { e with
      abort := some { a with sends := a.sends + (if go then 1 else 0), since := pip s }
      lastCh := if go then e.path else e.lastCh })
    if go then sendOrQueue s1 (e.path.getD 0) FType.abort (tagOf e) (BitVec.ofNat 8 a.cause :: List.replicate 7 0#8)
    else s1

/-- ABORTs of a path that found no room go out. -/
def sendAborts (s : State) (n : Nat) : State :=
  (s.exchs.filter (fun e => e.path == some n && e.res.isNone && !e.terminating && e.abort.any (fun a => a.sends == 0))).foldl
    (fun s e => if windowRoom (chan s n) then sendAbort s e.id 0 else s) s

/-! ## Redrive (R269-R271, R379) -/

/-- An inline job starts again from its beginning on the exchange's owning die; a staged WRITE keeps its bytes. -/
def rerunInline (s : State) (e : Exch) : State :=
  if e.staged.isSome then s
  else { s with jobs := s.jobs.map (fun j =>
    if j.id = .inl e.id then { j with st := .accepted, rerun := true, engine := none, die := e.owner, progress := 0 } else j) }

/-- The exchange starts again from OPEN on path `k`, or waits while there is none. -/
def restartOn (s : State) (x : ExId) (k : Option Nat) : State :=
  let s1 := modExch s x (fun e => { e with
    st := .inFlight, path := k, owner := (match k with | some n => chanDie n | none => e.owner), attempt := e.attempt + 1
    sentOff := 0, lastSent := false, rcvd := 0, gotLast := false, ackNew := false, ackDone := false
    rxData := if e.opcode = Op.read then [] else e.rxData
    dataFault := none, waitSince := if k.isNone then some (pip s) else none })
  match exch s1 x with
  | some e => (let s2 := rerunInline s1 e; match k with | some n => setChainPath s2 e n | none => s2)
  | none => s1

/-- Redrive one exchange off a lost path. -/
def redrive (s : State) (lost : Option Nat) (x : ExId) : State :=
  match exch s x with
  | none => s
  | some e =>
    if e.pin.isSome then decide_ s x Rec.pathLost 0
    else if e.abort.isSome then
      match choosePath s e.group lost with
      | (s1, some k) =>
        sendAbort (modExch s1 x (fun e => { e with path := some k, owner := chanDie k, attempt := min 15 (e.attempt + 1) })) x 0
      | (_, none) => modExch s x (fun e => { e with path := none, waitSince := some (pip s) })
    else if (group s e.group).attemptMax < e.attempt + 1 then decide_ s x Rec.noPath 0
    else
      let (s1, k) := choosePath s e.group lost
      restartOn s1 x k

/-- PATH-GONE for a lost path on every other LIVE path (R311). -/
def sendGone (s : State) (n : Nat) : State :=
  let c := chan s n
  match c.group with
  | none => s
  | some g =>
    forEach s ((livePaths s g).filter (· != n)) (fun s k =>
      sendFrame s k FType.gone false 0#64
        ([BitVec.ofNat 8 c.pathIndex, BitVec.ofNat 8 c.goneReason, 0#8, 0#8] ++ beBytes 4 c.goneSeq) false)

/-- A RESUME-QUERY waiting for a LIVE path with room goes out (R300, R323). -/
def sendQuery (s : State) (g : Nat) : State :=
  match (group s g).query, (livePaths s g).find? (fun n => windowRoom (chan s n)) with
  | some q, some n =>
    if q.sent then s
    else
      let body := beBytes 4 q.queryId ++ beBytes 4 q.incarnation ++ [BitVec.ofNat 8 q.tags.length] ++ List.replicate 7 0#8 ++
        q.tags.flatMap (fun t => beBytes 8 t.toNat)
      modGroup (sendFrame s n FType.resumeQuery true 0#64 body false) g (fun x => { x with query := some { q with sent := true, path := n } })
  | _, _ => s

/-- A RESUME-QUERY whose path is lost before its answer goes out again (R323; LOG 133). -/
def requeue (s : State) (g n : Nat) : State :=
  modGroup s g (fun x => { x with query := x.query.map (fun q => if q.path = n then { q with sent := false } else q) })

/-- An accepted exchange that waits for its turn with a channel pinned; the loss of that channel ends it too (R271). -/
def pinnedWaiting (e : Exch) : Bool := decide (e.st = .accepted) && e.res.isNone && e.pin.isSome

/-- A LIVE path is declared lost (R310): `shown` is LOSS_REASON, `reason` what PATH-GONE carries. -/
def losePath (s : State) (n reason shown : Nat) : State :=
  let c := chan s n
  match c.group with
  | none => s
  | some g =>
    if c.state ≠ .live then s
    else
      let s1 := modChan s n (fun c => { c with
        state := if c.pcs then .lost else .down, lossCount := c.lossCount + 1, lossReason := shown, peer := none, hellos := 0
        unacked := [], queued := [], rtoCount := 0, goneLeft := 2, goneReason := reason, goneSeq := c.rxSeq, slowEdges := 0, fastEdges := 0 })
      let s2 := sendQuery (requeue (resetCur s1 g) g n) g
      let s3 := if (livePaths s2 g).isEmpty then modGroup s2 g (fun x => { x with noPathSince := some (pip s) }) else s2
      let hit := (s3.exchs.filter (fun e => (onPath e || pinnedWaiting e) && !e.terminating && e.path == some n)).map (fun e => e.id)
      promoteAll (hit.foldl (fun s x => redrive s (some n) x) (sendGone s3 n))

/-! ## Receiving hello frames (R308, R309) -/

/-- Exchanges between OPEN and COMPLETE end when the far end shows another incarnation (R322). -/
def farRestart (s : State) (g : Nat) : State :=
  (s.exchs.filter (fun e => e.group == g && onPath e && e.frameSent && isAccepted e)).foldl
    (fun s e => decide_ s e.id Rec.remoteError 0xF1) s

/-- Give waiting exchanges of the group a path (R271). -/
def wakeWaiters (s : State) (g : Nat) : State :=
  let ws := (s.exchs.filter (fun e => e.group == g && onPath e && !e.terminating && e.path.isNone)).map (fun e => e.id)
  let s1 := ws.foldl (fun s x => match exch s x with
    | none => s
    | some e => match choosePath s g none with
      | (s1, some k) =>
        if e.abort.isSome then
          sendAbort (modExch s1 x (fun e => { e with path := some k, owner := chanDie k, waitSince := none,
                                                     attempt := min 15 (e.attempt + 1) })) x 0
        else setChainPath (modExch s1 x (fun e => { e with path := some k, owner := chanDie k, waitSince := none })) e k
      | (_, none) => s) s
  promoteAll s1

/-- A path becomes LIVE (R309): a new epoch, both sequence spaces at 0. An encrypted group cannot reuse an epoch under its key
(R326). -/
def goLive (s : State) (n g : Nat) : State :=
  let c := chan s n
  let e := (c.epoch + 1) % 256
  let x := group s g
  if x.keyValue.isSome && x.usedEpochs.contains (n, e) then startRekey s g
  else
    let s1 := modChan s n (fun c => { c with
      state := .live, epoch := e, txSeq := 0, rxSeq := 0, unacked := [], queued := [], rtoCount := 0, nakFor := none, hellos := 0
      frameCounter := 1, goneLeft := 0 })
    let s2 := modGroup s1 g (fun x => { x with noPathSince := none, usedEpochs := if x.keyValue.isSome then (n, e) :: x.usedEpochs else [] })
    wakeWaiters (sendQuery (resetCur s2 g) g) g

/-- What a valid PATH-HELLO tells of the peer (R291, R297). -/
def noteHello (s : State) (n : Nat) (src : BitVec 48) (b : HelloBody) : State :=
  modChan s n (fun c => { c with
    peer := some (c.peer.getD src), lastValid := pip s, lastHello := some (pip s), seenPip := some (pip s)
    peerStamp := b.stamp.toNat, peerStampAt := replicaNat s (chanBase n)
    rtt := (replicaNat s (chanBase n) + 2 ^ 33 - b.echo.toNat - b.echoDelay.toNat) % 2 ^ 32
    peerIndex := b.pathIndex.toNat, peerMaxOpen := b.maxOpen.toNat, peerWindow := b.window.toNat, peerMaxData := b.maxData.toNat
    peerRetain := b.retain.toNat, peerHelloRx := b.helloRx.toNat
    nextReady := b.hflags.getLsbD 1 })

/-- The incarnation of the far end that a group's LIVE paths have shown. -/
def setIncarnation (s : State) (g : Nat) (inc : Nat) : State :=
  let changed := match (group s g).farIncarnation with | some k => k != inc | none => false
  let s1 := modGroup s g (fun x => { x with farIncarnation := some inc })
  if changed then farRestart s1 g else s1

/-! ## Frames received: the checks of every frame (R290, R296, R298, R299, R325) -/

def discard (s : State) (n : Nat) : State := modChan s n (fun c => { c with discards := c.discards + 1 })

/-- EtherType, FCS, version, source address; the frame is for a path whose PCS is up (R290, R307). A row of the table takes frames of its
own type `ft`; one of another type is discarded and counted as R296 says (LOG 125). -/
def outerOk (s : State) (n ft : Nat) (h : FrameHdr) : Bool :=
  let c := chan s n
  h.ftype.toNat == ft && h.etherType.toNat == chEtherType s && h.fcsOk && h.version.toNat / 16 == 1 &&
  (match c.peer with | some a => a == h.src | none => true)

/-- In an encrypted group a frame must carry ENC, authenticate, and name a key epoch that is accepted; in another it must not carry ENC
(R325). -/
def authAccepted (s : State) (g : Nat) (h : FrameHdr) : Bool :=
  let x := group s g
  let enc := h.flags.getLsbD 1
  if x.keyValue.isSome then
    enc && h.authOk && (h.keyEpoch.toNat == x.keyEpoch || some h.keyEpoch.toNat == x.oldEpoch)
  else !enc

/-- A frame that fails authentication is counted; more than 64 in one pip lose the path (R310, R325). -/
def authFailed (s : State) (n : Nat) : State :=
  let s1 := modChan s n (fun c =>
    let k := if c.authFailPip = pip s then c.authFailNow + 1 else 1
    { c with authFail := c.authFail + 1, authFailPip := pip s, authFailNow := k })
  if 64 < (chan s1 n).authFailNow then losePath s1 n 4 4 else s1

/-- The first frame under a new epoch starts the wait for the old keys' erasure. -/
def noteEpoch (s : State) (g : Nat) (h : FrameHdr) : State :=
  modGroup s g (fun x =>
    if x.keyValue.isSome ∧ h.keyEpoch.toNat = x.keyEpoch ∧ x.oldEpoch.isSome ∧ x.oldSince.isNone then { x with oldSince := some (pip s) }
    else x)

/-- An ACK_SEQ received, and what its room lets go (R300). -/
def acked (s : State) (n g ackSeq : Nat) : State := sendQuery (sendAborts (sendQueued (takeAck s n ackSeq) n) n) g

/-- A frame of any type but PATH-HELLO that arrives on CH[n]: the state after the checks, with its group where the frame passed the
outer ones on a LIVE path. -/
def admitFrame (s : State) (n ft : Nat) (h : FrameHdr) : State × Option Nat :=
  let c := chan s n
  match c.group with
  | none => (if c.pcs then discard s n else s, none)
  | some g =>
    if !c.pcs || ioLost s (chanDie n) then (s, none)
    else if !outerOk s n ft h then (discard s n, none)
    else if !authAccepted s g h then
      ((if (group s g).keyValue.isSome then authFailed s n else discard s n), none)
    else if c.state ≠ .live ∨ h.epoch.toNat ≠ c.epoch then (discard s n, none)
    else
      let s1 := noteEpoch (modChan s n (fun c => { c with lastValid := pip s })) g h
      (acked s1 n g h.ackSeq.toNat, some g)

/-- Order of a sequenced frame (R299): whether it is accepted. A duplicate is acknowledged again, a gap is NAKed. -/
def inOrder (s : State) (n : Nat) (h : FrameHdr) : State × Bool :=
  let c := chan s n
  if h.seq.toNat = c.rxSeq then
    (sendAck (modChan s n (fun c => { c with rxSeq := (c.rxSeq + 1) % 2 ^ 32, nakFor := none })) n, true)
  else if seqAfter h.seq.toNat c.rxSeq then (sendNak s n 1, false)
  else (sendAck s n, false)

/-- An unsequenced frame whose SEQ shows that frames were lost is NAKed and discarded: whether it may be acted on (R299). -/
def checkGap (s : State) (n : Nat) (h : FrameHdr) : State × Bool :=
  if seqAfter h.seq.toNat (chan s n).rxSeq then (sendNak s n 1, false) else (s, true)

/-! ## Rows of path liveness -/

/-- A PATH-HELLO on a path that is not LIVE counts toward LIVE when it meets R309. -/
def helloCounts (s : State) (n g : Nat) (h : FrameHdr) (b : HelloBody) : Bool :=
  let others := (livePaths s g).filter (· != n)
  decide ((chan s n).state = .probing) && b.hflags.getLsbD 0 && h.epoch.toNat == ((chan s n).epoch + 1) % 256 &&
  (others.isEmpty || (group s g).farIncarnation == some b.incarnation.toNat)

def pathHello (s : State) (n : Nat) (h : FrameHdr) (b : HelloBody) : State :=
  let c := chan s n
  match c.group with
  | none => if c.pcs then discard s n else s
  | some g =>
    if !c.pcs || ioLost s (chanDie n) then s
    else if !outerOk s n FType.hello h then discard s n
    else if !authAccepted s g h then (if (group s g).keyValue.isSome then authFailed s n else discard s n)
    else if b.senderId ≠ (group s g).remote then
      if c.state = .live then losePath (report s (Pt.peerMismatch n) (b.senderId.toNat % 65536)) n 5 5
      else modChan s n (fun c => { c with hellos := 0 })
    else if c.state = .live then
      if h.epoch.toNat ≠ c.epoch then discard s n
      else
        match checkGap (acked (modChan (noteEpoch s g h) n (fun c => { c with lastValid := pip s })) n g h.ackSeq.toNat) n h with
        | (s1, true) => setIncarnation (noteHello s1 n h.src b) g b.incarnation.toNat
        | (s1, false) => s1
    else
      let s1 := noteHello s n h.src b
      if helloCounts s n g h b then
        let s2 := modChan s1 n (fun c => { c with hellos := c.hellos + 1 })
        if 3 ≤ c.hellos + 1 then goLive (setIncarnation s2 g b.incarnation.toNat) n g else s2
      else modChan s1 n (fun c => { c with hellos := 0 })

def execPathHello (ch : ChanNo) (h : FrameHdr) (b : HelloBody) (s : State) : Res := .next (whenServing s (pathHello s ch h b))

/-- PATH-GONE loses the path it names by the peer's index (R310). -/
def execPathGone (ch : ChanNo) (h : FrameHdr) (b : GoneBody) (s : State) : Res :=
  .next (whenServing s (match admitFrame s ch FType.gone h with
    | (s1, some g) => (match checkGap s1 ch h with
      | (s2, true) => (match (livePaths s2 g).find? (fun n => (chan s2 n).peerIndex == b.lostIndex.toNat) with
        | some n => losePath s2 n b.reason.toNat 7
        | none => s2)
      | (s2, false) => s2)
    | (s1, none) => s1))

/-- NAK: send again from NAK_SEQ (R301). -/
def execNak (ch : ChanNo) (h : FrameHdr) (nakSeq : W32) (_reason : Byte) (s : State) : Res :=
  .next (whenServing s (match admitFrame s ch FType.nak h with
    | (s1, some _) => (match checkGap s1 ch h with
      | (s2, true) => resendFrom s2 ch nakSeq.toNat
      | (s2, false) => s2)
    | (s1, none) => s1))

/-- The oldest unacknowledged frame has waited RTO pips: resend, or after RETX_MAX expiries lose the path (R301). -/
def execRtoExpiry (ch : ChanNo) (s : State) : Res :=
  .next (whenServing s (
    let c := chan s ch
    match c.group with
    | none => s
    | some g =>
      if c.state ≠ .live ∨ c.unacked = [] ∨ pip s < c.oldestSince + (group s g).rto then s
      else if (group s g).retxMax ≤ c.rtoCount + 1 then losePath s ch 3 3
      else
        let s1 := modChan s ch (fun c => { c with rtoCount := c.rtoCount + 1 })
        resendFrom s1 ch (match c.unacked with | f :: _ => f.seq | [] => c.txSeq)))

/-- SEEN: a valid PATH-HELLO within the last 3 of the peer's intervals (R308). -/
def seen (s : State) (g : Group) (c : Chan) : Bool :=
  match c.seenPip with
  | some k => decide (pip s ≤ k + 3 * helloRx g)
  | none => false

/-- The body of the module's PATH-HELLO (R297). -/
def helloBody (s : State) (n : Nat) (g : Nat) : List Byte :=
  let c := chan s n
  let x := group s g
  let next := match x.rekey with | some r => r.nextEpoch | none => 0
  beBytes 8 s.ident.moduleId.toNat ++ beBytes 4 s.ident.incarnation.toNat ++
  [BitVec.ofNat 8 c.pathIndex, BitVec.ofNat 8 x.chans.length, BitVec.ofNat 8 (helloRx x), BitVec.ofNat 8 (flag (seen s x c) 0)] ++
  beBytes 2 c.window ++ beBytes 2 (if isExpress n then 1024 else x.maxData) ++ beBytes 2 0 ++ [0#8, 0#8] ++ beBytes 4 0 ++
  beBytes 4 (if x.keyValue.isSome then x.keyEpoch else 0) ++ beBytes 4 next ++ beBytes 4 (replicaNat s (chanBase n) % 2 ^ 32) ++
  beBytes 4 c.peerStamp ++ beBytes 4 (replicaNat s (chanBase n) - c.peerStampAt)

/-- Every 10 pips on each path in PROBING, LIVE or LOST (R308). A path that is not LIVE carries the epoch that it would take. -/
def execPathHelloSend (ch : ChanNo) (s : State) : Res :=
  .next (whenServing s (
    let c := chan s ch
    let due := match c.helloSent with | some k => decide (k + 10 ≤ pip s) | none => true
    match c.group with
    | none => s
    | some g =>
      if !due || !(c.state = .probing || c.state = .live || c.state = .lost) || !c.pcs || ioLost s (chanDie ch) then s
      else
        let ep := c.epoch
        let s1 := if c.state = .live then s else modChan s ch (fun c => { c with epoch := (c.epoch + 1) % 256 })
        modChan (sendFrame s1 ch FType.hello false 0#64 (helloBody s ch g) false) ch
          (fun c => { c with helloSent := some (pip s), epoch := ep })))

/-- No valid frame for D pips (R310). -/
def execPathSilence (ch : ChanNo) (s : State) : Res :=
  .next (whenServing s (match (chan s ch).group with
    | none => s
    | some g => if (chan s ch).state = .live ∧ (chan s ch).lastValid + (group s g).dPips ≤ pip s then losePath s ch 1 1 else s))

def execPcsBlockLockLoss (ch : ChanNo) (s : State) : Res :=
  .next (whenServing s (
    let s1 := modChan s ch (fun c => { c with pcs := false })
    let s2 := losePath s1 ch 2 2
    modChan s2 ch (fun c => { c with state := if c.group.isSome then .down else .noGroup })))

def execPcsBlockLock (ch : ChanNo) (s : State) : Res :=
  .next (whenServing s (modChan s ch (fun c => { c with
    pcs := true, state := if c.state = .down ∨ c.state = .lost then .probing else c.state, hellos := 0 })))

/-! ## Rows of rekey (R326) -/

def execRekeyIntervalExpiry (g : GroupNo) (s : State) : Res :=
  .next (whenServing s (if (group s g).opened ∧ (group s g).keyPip + (group s g).rekeyInterval ≤ pip s then startRekey s g else s))

/-- A rekey not switched within 1,000 pips: REKEY_FAIL, the old keys stay, and it starts again 1,000 pips later. The mirror pair's even
die reports (R516). -/
def execRekeyTimeout (g : GroupNo) (s : State) : Res :=
  .next (whenServing s (match (group s g).rekey with
    | some r =>
      if r.since + 1000 ≤ pip s then
        let die := chanDie ((group s g).chans.headD 0)
        modGroup (report s (Pt.rekeyFail die) g.val) g (fun x => { x with rekey := none, rekeyRetry := some (pip s + 1000) })
      else s
    | none => s))

def execOldKeyErase (g : GroupNo) (s : State) : Res :=
  .next (whenServing s (match (group s g).oldSince with
    | some k => if k + 100 ≤ pip s then modGroup s g (fun x => { x with oldEpoch := none, oldSince := none }) else s
    | none => s))

/-- NEXT_READY has been seen on every LIVE path: every frame is sent under the new epoch from this pip edge (R326). A group without a LIVE
path has none to wait for (LOG 134). -/
def rekeySwitch (s : State) (g : Nat) : State :=
  let x := group s g
  match x.rekey with
  | none => match x.rekeyRetry with
    | some k => if k ≤ pip s then startRekey s g else s
    | none => s
  | some r =>
    let live := livePaths s g
    if !live.all (fun n => (chan s n).nextReady) then s
    else
      let s1 := modGroup s g (fun x => { x with
        keyEpoch := r.nextEpoch, keyPip := pip s, rekey := none, oldEpoch := some x.keyEpoch, oldSince := none
        usedEpochs := live.map (fun n => (n, (chan s n).epoch)) })
      forEach s1 x.chans (fun s n => modChan s n (fun c => { c with frameCounter := 1, nextReady := false }))

/-! ## Demotion (R313) -/

/-- A[p], smoothed at a COMPLETE, in grains; fractions of a grain are dropped (LOG 23). -/
def smooth (a t : Nat) : Nat := ((a : Int) + ((t : Int) - a) / 16).toNat

def noteCompletion (s : State) (n t : Nat) : State :=
  modChan s n (fun c => { c with avg := some (smooth (c.avg.getD 0) t), lastComplete := some (pip s) })

def insertNat (x : Nat) : List Nat → List Nat
  | [] => [x]
  | y :: ys => if x ≤ y then x :: y :: ys else y :: insertNat x ys

def sortNat (l : List Nat) : List Nat := l.foldl (fun acc x => insertNat x acc) []

/-- The median, the lower of two middle values. -/
def median (l : List Nat) : Option Nat := (sortNat l)[(l.length - 1) / 2]?

/-- One path at a pip edge: demoted or restored after SLOW_PIPS consecutive edges; a path that is the only LIVE one is not demoted. -/
def demotionPath (s : State) (g m : Nat) (only : Bool) (n : Nat) : State :=
  let x := group s g
  let c := chan s n
  let a := c.avg.getD 0
  let slow := !only && decide (x.slowFactor * m < 4 * a)
  let fast := decide (8 * a ≤ (4 + x.slowFactor) * m)
  let se := if slow then c.slowEdges + 1 else 0
  let fe := if fast then c.fastEdges + 1 else 0
  let s1 := modChan s n (fun c => { c with slowEdges := se, fastEdges := fe })
  let tell := fun (s : State) cause => forEach s ((List.range 16).filter (fun p => x.mask.getLsbD p)) (fun s p => notice s p cause n)
  if !c.demoted && decide (x.slowPips ≤ se) then tell (modChan s1 n (fun c => { c with demoted := true })) Notice.pathDemoted
  else if c.demoted && decide (x.slowPips ≤ fe) then tell (modChan s1 n (fun c => { c with demoted := false })) Notice.pathRestored
  else s1

/-- The demotion check of one group at a pip edge; without a median no path meets either condition. -/
def demotionCheck (s : State) (g : Nat) : State :=
  let x := group s g
  let live := livePaths s g
  let recent := live.filter (fun n => match (chan s n).lastComplete with | some k => decide (pip s ≤ k + x.slowPips) | none => false)
  match median (recent.map (fun n => (chan s n).avg.getD 0)) with
  | none => forEach s live (fun s n => modChan s n (fun c => { c with slowEdges := 0, fastEdges := 0 }))
  | some m => forEach s live (demotionPath · g m (decide (live.length < 2)) ·)

/-! ## PATH_STATUS (R315) -/

def pathCode (x : PathState) : Nat := match x with | .noGroup => 0 | .down => 1 | .probing => 2 | .live => 3 | .lost => 4

def pathStatusWord (s : State) (n : Nat) : W64 :=
  let c := chan s n
  let w := match c.group with | some g => weff (group s g) c | none => 0
  BitVec.ofNat 64 (place (sat 16 c.retxCount) 48 + place (sat 16 (c.avg.getD 0 / 16)) 32 + place (sat 8 c.authFail) 24 +
    place (sat 8 c.lossCount) 16 + place (w % 256) 8 + place (c.lossReason % 8) 4 + flag c.demoted 3 + pathCode c.state)

/-- What a pip edge does on the paths (R40, R307, R311, R313, R326). -/
def pathsEdge (s : State) : State :=
  let s1 := { s with chans := s.chans.map (fun e => (e.1, { e.2 with slotsLeft := e.2.slots })) }
  let reprobe := (s1.chans.filter (fun e => decide (e.2.state = .lost) && e.2.pcs && !ioLost s (chanDie e.1))).map (·.1)
  let s2 := forEach s1 reprobe (fun s n => modChan s n (fun c => { c with state := .probing, hellos := 0 }))
  let gone := (s2.chans.filter (fun e => decide (0 < e.2.goneLeft))).map (·.1)
  let s3 := forEach s2 gone (fun s n => modChan (sendGone s n) n (fun c => { c with goneLeft := c.goneLeft - 1 }))
  let gs := (s3.groups.filter (fun e => e.2.opened)).map (·.1)
  forEach s3 gs (fun s g => demotionCheck (rekeySwitch s g) g)

end Sys2Proof.Machine
end

