-- ==== Sys2Proof/Machine/Rings.lean ====
section
/-! DEFINITION. Ring pairs and the life of an exchange (R246-R288): doorbells, watermarks, fetch and acceptance, the inline job of an
exchange, its frames, its record, cancel, timeout and the end of a slice reset. -/

namespace Sys2Proof.Machine

/-! ## Queue causes (R414) -/

namespace QCause
def completion : Nat := 0
def sqWm : Nat := 1
def cqWm : Nat := 2
def ringFault : Nat := 3
def pairLost : Nat := 4
def engDone : Nat := 8
def eqFault : Nat := 9
def eqWm : Nat := 10
end QCause

/-- The serving die of a ring pair (LOG 90). -/
def serveDie (pr serve : Nat) : Nat := 2 * pr + serve

/-- Raise a cause of a ring pair, or of an engine queue, on its serving die. -/
def raiseRing (s : State) (key cause : Nat) : State :=
  raiseFrom s (2 + serveDie (key % 2) (ring s key).serve) (ring s key).source cause

def raiseQueue (s : State) (key cause : Nat) : State :=
  raiseFrom s (2 + serveDie (key % 2) (eqq s key).serve) (eqq s key).source cause

/-! ## Counters and watermarks (R249, R250, R285) -/

/-- a - b modulo 2^32. -/
def cnt (a b : W32) : Nat := (a - b).toNat

/-- A level has changed from `old` to `new`: PEAK, and a crossing of the mark (R285). The second component is whether it crossed. -/
def wmLevel (mark old new : Nat) (w : Wm) : Wm × Bool :=
  let crossed := decide (mark ≠ 0 ∧ old < mark ∧ mark ≤ new)
  ({ crossings := if crossed then w.crossings + 1 else w.crossings, hit := w.hit || crossed, peak := max w.peak new }, crossed)

def sqLevel (r : Ring) : Nat := cnt r.sqTail r.sqHead
def cqLevel (r : Ring) : Nat := cnt r.cqTail r.cqHead

/-- Change a ring's counters and evaluate both watermarks. -/
def modCounters (s : State) (key : Nat) (f : Ring → Ring) : State :=
  let r := ring s key
  let r1 := f r
  let (w1, x1) := wmLevel r1.sqWm (sqLevel r) (sqLevel r1) r1.sqWmSt
  let (w2, x2) := wmLevel r1.cqWm (cqLevel r) (cqLevel r1) r1.cqWmSt
  let s1 := modRing s key (fun _ => { r1 with sqWmSt := w1, cqWmSt := w2 })
  let s2 := if x1 then raiseRing s1 key QCause.sqWm else s1
  if x2 then raiseRing s2 key QCause.cqWm else s2

/-- The clear of a watermark's status (R286). -/
def wmClear (level : Nat) (w : Wm) (v : W64) : Wm := if bitOf v 17 then { crossings := 0, hit := false, peak := level } else w

def wmWord (w : Wm) : W64 := BitVec.ofNat 64 (place (sat 32 w.crossings) 32 + flag w.hit 17 + w.peak % 2 ^ 17)

/-! ## Doorbells (R250, R251, R254) -/

def backwards (new old : W32) : Bool := decide (2 ^ 31 ≤ cnt new old)

/-- Descriptors that a counter write may leave outstanding. -/
def sqTailOk (r : Ring) (v : W32) : Bool := !backwards v r.sqTail && decide (cnt v r.sqHead ≤ 2 ^ r.sqK)

def cqHeadOk (r : Ring) (v : W32) : Bool := !backwards v r.cqHead && decide (cnt r.cqTail v < 2 ^ 31)

/-- A write of SQ_TAIL: rejected with DB_ERROR under R250, else taken; it lets fetch resume unless FETCH_ERROR stands. -/
def sqTailWrite (s : State) (key : Nat) (v : W64) : State :=
  let r := ring s key
  let t := BitVec.ofNat 32 (field v 31 0)
  if sqTailOk r t then
    modCounters s key (fun r => { r with sqTail := t, fetchStopped := r.fetchStopped && r.fetchError })
  else modRing s key (fun r => { r with dbError := true })

def cqHeadWrite (s : State) (key : Nat) (v : W64) : State :=
  let h := BitVec.ofNat 32 (field v 31 0)
  if cqHeadOk (ring s key) h then modCounters s key (fun r => { r with cqHead := h })
  else modRing s key (fun r => { r with dbError := true })

/-- The doorbell page answers: the slice is in a partition and the ring pair is set up (R334). -/
def pageLive (s : State) (sl r : Nat) : Bool := decide ((sliceE s sl).state ≠ .free) && (ring s (pairKey sl r)).active

/-- A doorbell write outside a live page is dropped and counted for the slice's partition (R334). -/
def doorbell (s : State) (sl r : Nat) (f : State → Nat → State) : State :=
  if pageLive s sl r then f s (pairKey sl r)
  else if (sliceE s sl).state = .free then s
  else dropWrite s (sliceE s sl).part

def execSqTailWrite (sl : SliceNo) (r : PairNo) (v : W64) (s : State) : Res :=
  .next (whenServing s (doorbell s sl r (fun s key => sqTailWrite s key v)))

def execCqHeadWrite (sl : SliceNo) (r : PairNo) (v : W64) (s : State) : Res :=
  .next (whenServing s (doorbell s sl r (fun s key => cqHeadWrite s key v)))

def sqWmClear (s : State) (key : Nat) (v : W64) : State :=
  modRing s key (fun r => { r with sqWmSt := wmClear (sqLevel r) r.sqWmSt v })

def cqWmClear (s : State) (key : Nat) (v : W64) : State :=
  modRing s key (fun r => { r with cqWmSt := wmClear (cqLevel r) r.cqWmSt v })

def eqLevel (q : EqQueue) : Nat := cnt q.eqTail q.eqHead

def eqWmClear (s : State) (key : Nat) (v : W64) : State :=
  modEq s key (fun q => { q with wmSt := wmClear (eqLevel q) q.wmSt v })

def execWmStatusClear (sl : SliceNo) (r : PairNo) (w : WhichWm) (v : W64) (s : State) : Res :=
  .next (whenServing s (match w with
    | .sq => doorbell s sl r (fun s key => sqWmClear s key v)
    | .cq => doorbell s sl r (fun s key => cqWmClear s key v)
    | .eq =>
      if (sliceE s sl).state = .free then s
      else if (eqq s (pairKey sl r)).active then eqWmClear s (pairKey sl r) v
      else dropWrite s (sliceE s sl).part))

/-- RING_STATUS (R251). -/
def ringStatusWord (r : Ring) : W64 :=
  BitVec.ofNat 64 (place (sat 16 r.tableStalls) 48 + place (sat 16 r.cqStalls) 32 + flag r.pairLost 5 + flag r.cqLost 4 +
    flag r.fetchError 3 + flag r.dbError 2 + flag (r.serve == 1) 1 + flag (r.active && !r.pairLost) 0)

/-- RS bits of RING_STATUS. -/
def ringStatusClear (s : State) (key : Nat) (v : W64) : State :=
  modRing s key (fun r => { r with
    cqLost := r.cqLost && !bitOf v 4, fetchError := r.fetchError && !bitOf v 3, dbError := r.dbError && !bitOf v 2 })

/-! ## The descriptor (R257-R259, R261, R262) -/

/-- Byte offset of the first faulty field of a descriptor's own bytes, if one is; the pinned channel is checked against its group. -/
def descFault (s : State) (bs : List Byte) : Option Nat :=
  let b := fun i => (bs.getD i 0#8).toNat
  let op := b 0
  let len := leAt bs 4 4
  let fl := b 1
  let dp := fl.testBit 2
  let pin := fl.testBit 3
  let lenMax := if op = Op.sense then 4096 else if op = Op.chain ∨ op = Op.echo ∨ op = Op.cancel then 0 else 2 ^ 30
  let arg := leAt bs 40 8
  let bad : List (Bool × Nat) :=
    [(decide (op = 0 ∨ 7 < op), 0),
     (decide (16 ≤ fl) || (dp && !(op == Op.read || op == Op.write)), 1),
     (decide (512 ≤ leAt bs 2 2), 2),
     (decide (lenMax < len), 4),
     (decide (len ≠ 0 ∧ leAt bs 16 8 % 16 ≠ 0), 16),
     (if len = 0 then decide (leAt bs 24 2 ≠ 0) else decide (leAt bs 24 2 = 0 ∨ 256 < leAt bs 24 2), 24),
     (decide (512 ≤ leAt bs 26 2) || (pin && !((group s (leAt bs 2 2)).chans.contains (leAt bs 26 2))), 26),
     (!(op == Op.read || op == Op.write || op == Op.control) && decide (leAt bs 32 8 ≠ 0), 32),
     (if op = Op.chain then decide (arg < 2 ∨ 16 < arg)
      else if op = Op.cancel then decide (2 ^ 24 ≤ arg)
      else !(op == Op.control) && decide (arg ≠ 0), 40),
     (if dp then decide (leAt bs 54 2 ≠ 0 ∨ leAt bs 48 8 % 64 ≠ 0) else decide (leAt bs 48 8 ≠ 0), 48)]
  (bad.find? (fun x => x.1)).map (·.2)

/-- The group that a descriptor names is open, on this mirror pair, and admits the partition (R259). -/
def groupOk (s : State) (g pair p : Nat) : Bool :=
  let x := group s g
  x.opened && !x.closing && x.mask.getLsbD p && x.chans.all (fun n => chanDie n / 2 == pair)

/-- The exchange of a descriptor read from memory. -/
def parseExch (s : State) (sl : SliceNo) (pr : PairNo) (idx : W32) (bs : List Byte) : Exch :=
  let fl := (bs.getD 1 0#8).toNat
  { id := { slice := sl, pair := pr, idx := idx }, part := (sliceE s sl).part, gen := (sliceE s sl).gen, seqNo := leAt bs 10 3
    opcode := (bs.getD 0 0#8).toNat, flags := fl, group := leAt bs 2 2, length := leAt bs 4 4, sgl := leAt bs 16 8
    sglCount := leAt bs 24 2, pin := if fl.testBit 3 then some (leAt bs 26 2) else none, timeout := leAt bs 28 4
    remote := BitVec.ofNat 64 (leAt bs 32 8), arg := BitVec.ofNat 64 (leAt bs 40 8), dpReq := leAt bs 48 8
    cookie := BitVec.ofNat 64 (leAt bs 56 8), owner := 0, wireLen := leAt bs 4 4 }

/-- What the module decides of a descriptor by itself: BAD_DESCRIPTOR with the offset, or BAD_PATH_GROUP. -/
def localFault (s : State) (pr p : Nat) (bs : List Byte) : Option ExRes :=
  match descFault s bs with
  | some off => some { code := Rec.badDescriptor, detail := off }
  | none => if groupOk s (leAt bs 2 2) pr p then none else some { code := Rec.badPathGroup, detail := 0 }

/-! ## Fetch (R252-R254, R266) -/

/-- Entries in the exchange table of one I/O die (LOG 24). -/
def tableSize : Nat := 65536

/-- The slice may be served now: not held, in quiesce or in reset, and the module not parked or in safe state
(R252, R488, R490). -/
def sliceServed (s : State) (sl : Nat) : Bool :=
  decide ((sliceE s sl).state = .active) && !s.mode.parkCond && decide (s.mode.mode ≠ 11) && !((part s (sliceE s sl).part).state = .quiesced || (part s (sliceE s sl).part).state = .held)

def tableUse (s : State) (d : Nat) : Nat := (s.exchs.filter (fun e => e.owner == d)).length

def ofRing (e : Exch) (sl pr : Nat) : Bool := e.id.slice.val == sl && e.id.pair.val == pr

/-- Descriptors fetched and not yet accepted. -/
def unaccepted (s : State) (sl pr : Nat) : Nat := (s.exchs.filter (fun e => ofRing e sl pr && !isAccepted e)).length

/-- A fetch fault: FETCH_ERROR, RING_FAULT, and fetch stops (R254). -/
def fetchFault (s : State) (key : Nat) : State :=
  raiseRing (modRing s key (fun r => { r with fetchError := true, fetchStopped := true })) key QCause.ringFault

/-- Read the 64 bytes of slot `c`; a poisoned word counts as a fault (LOG 25). -/
def readSlot (s : State) (die sl base k c : Nat) : State × Option (List Byte) :=
  let a := base + c % 2 ^ k * 64
  match ioReadV s die sl a 64 with
  | (s1, .error _) => (s1, none)
  | (s1, .ok bs) => (s1, if ioPoisonV s1 die sl a 64 then none else some bs)

/-- Read `n` descriptors from count `c` on. -/
def readSlots (die sl base k : Nat) : Nat → State → W32 → List (List Byte) → State × Option (List (List Byte))
  | 0, s, _, acc => (s, some acc)
  | n + 1, s, c, acc => match readSlot s die sl base k c.toNat with
    | (s1, none) => (s1, none)
    | (s1, some bs) => readSlots die sl base k n s1 (c + 1) (acc ++ [bs])

/-- The members of a CHAIN break R262 (LOG 65). -/
def chainBad (hd : List Byte) (ms : List (List Byte)) : Bool :=
  ms.any (fun m => leAt m 2 2 != leAt hd 2 2 || (m.getD 0 0#8).toNat == Op.chain || (m.getD 0 0#8).toNat == Op.cancel)

/-- The channel that a descriptor pins. -/
def pinOf (bs : List Byte) : Option Nat := if (bs.getD 1 0#8).toNat.testBit 3 then some (leAt bs 26 2 % 512) else none

/-- Allocate the entries of one descriptor, or of a chain, with the path of R312, each on the die of its path (R266). A chain runs on the
channel that its first pinned descriptor names, if one does; a member pinned to another channel runs there (R260, R262; LOG 126). -/
def allocate (s : State) (sl : SliceNo) (pr : PairNo) (c : W32) (ds : List (List Byte)) : State :=
  let p := (sliceE s sl).part
  let hd := ds.headD []
  let chainAll := decide (1 < ds.length) && chainBad hd (ds.drop 1)
  let hdFault := localFault s pr p hd
  let g := leAt hd 2 2
  let e0 := parseExch s sl pr c hd
  let needPath := hdFault.isNone && !chainAll && e0.opcode != Op.cancel
  let (s1, path) := if !needPath then (s, none) else match ds.findSome? pinOf with
    | some n => (s, some n)
    | none => choosePath s g none
  let home := serveDie pr (ring s (pairKey sl pr)).serve
  let mk := fun (x : List Byte × Nat) =>
    let e := parseExch s sl pr (c + BitVec.ofNat 32 x.2) x.1
    let fault := localFault s pr p x.1
    let f := if chainAll then some (match fault with
        | some r => if r.code = Rec.badDescriptor then r else { code := Rec.badDescriptor, detail := 40 }
        | none => { code := Rec.badDescriptor, detail := 40 }) else fault
    let own := match e.pin with | some n => some n | none => path
    { e with
      st := .allocated, owner := (match own with | some n => chanDie n | none => home), path := own, dataFault := f
      chainHead := if x.2 = 0 then none else some e0.id, chainPos := x.2 }
  { s1 with exchs := s1.exchs ++ ds.zipIdx.map mk }

/-- A pip in which fetch waited for the table, and one in which it waited for completion slots, is counted once in its own counter
(R251). -/
def noteStall (s : State) (key : Nat) (table : Bool) : State :=
  modRing s key (fun r =>
    if table then
      (if r.stallPip = some (pip s) then r else { r with tableStalls := r.tableStalls + 1, stallPip := some (pip s) })
    else if r.cqStallPip = some (pip s) then r
    else { r with cqStalls := r.cqStalls + 1, cqStallPip := some (pip s) })

/-- One descriptor, or one chain with its members, is fetched and its entries are allocated (R252, R262, R266). -/
def descriptorFetch (s : State) (sl : SliceNo) (pr : PairNo) : State :=
  let key := pairKey sl pr
  let r := ring s key
  let die := serveDie pr r.serve
  let un := unaccepted s sl pr
  let c := r.sqHead + BitVec.ofNat 32 un
  let left := cnt r.sqTail c
  if !pageLive s sl pr || r.pairLost || r.cqLost || r.fetchStopped || r.tearing || !sliceServed s sl || ioLost s die ||
    decide (sqLevel r ≤ un) then s
  else
    let slotsFree := 2 ^ r.cqK - (cnt r.sqHead r.cqHead + un)
    let base := (BitVec.ofNat 64 r.sqBase).toNat
    match readSlot s die sl base r.sqK c.toNat with
    | (s1, none) => fetchFault s1 key
    | (s1, some hd) =>
      let n := leAt hd 40 8
      let members := if (hd.getD 0 0#8).toNat = Op.chain ∧ 2 ≤ n ∧ n ≤ 16 then n else 0
      if left < members + 1 then s
      else if slotsFree < members + 1 then noteStall s key false
      else match readSlots die sl base r.sqK members s1 (c + 1) [] with
        | (s2, none) => fetchFault s2 key
        | (s2, some ms) =>
          let s3 := allocate s2 sl pr c (hd :: ms)
          if ((List.range 4).any (fun d => decide (tableSize < tableUse s3 d))) then noteStall s key true else s3

def execDescriptorFetch (sl : SliceNo) (r : PairNo) (s : State) : Res := .next (whenServing s (descriptorFetch s sl r))

/-! ## Acceptance (R253, R256, R261, R280) -/

/-- The entries of a SGL, or none where it breaks R258. -/
def parseSgl (bs : List Byte) (n total : Nat) : Option (List (Nat × Nat)) :=
  let es := (List.range n).map (fun i => (leAt bs (16 * i) 8, leAt bs (16 * i + 8) 4, leAt bs (16 * i + 12) 4))
  if es.all (fun e => decide (1 ≤ e.2.1 ∧ e.2.1 ≤ 2 ^ 30 ∧ e.2.2 = 0)) && (es.map (·.2.1)).foldl (· + ·) 0 == total
  then some (es.map (fun e => (e.1, e.2.1))) else none

/-- Read the SGL of an accepted exchange; a fault completes it with TRANSLATION_FAULT (R254, R258, R259). -/
def readSgl (s : State) (e : Exch) : State × Except ExRes (List (Nat × Nat)) :=
  if e.length = 0 then (s, .ok [])
  else match ioReadV s e.owner e.id.slice e.sgl (16 * e.sglCount) with
    | (s1, .error _) => (s1, .error { code := Rec.translationFault, detail := 1 })
    | (s1, .ok bs) => match parseSgl bs e.sglCount e.length with
      | some l => (s1, .ok l)
      | none => (s1, .error { code := Rec.badDescriptor, detail := 16 })

/-- Input bytes queued on an engine (R361, R376). -/
def queuedBytes (s : State) (eg : Nat) : Nat :=
  ((s.jobs.filter (fun j => j.engine == some eg && decide (j.st ≠ .ended))).map (fun j => (parseDesc j.desc).inLen)).foldl (· + ·) 0

/-- The engine of IO[d] that takes a job: the fewest input bytes queued, ties to the lower number; INLINE_ONLY engines serve inline jobs
only, and a fenced engine takes none. -/
def pickEngine (s : State) (d : Nat) (inline_ : Bool) : Option Nat :=
  let l := (List.range 8).map (fun i => 8 * d + i) |>.filter (fun e =>
    decide ((eng s e).state ≠ .fenced ∧ (eng s e).state ≠ .unpowered) && (inline_ || !(eng s e).inlineOnly))
  l.foldl (fun (b : Option Nat) e => match b with
    | none => some e
    | some x => if queuedBytes s e < queuedBytes s x then some e else some x) none

/-- The areas that an inline job reaches in the IOVA space overlap: the SGL's buffers, the result area, and the staging area of a compressed
WRITE (R358, R376). -/
def inlineOverlap (e : Exch) (d : Desc) : Bool :=
  let stage := if e.opcode = Op.write ∧ d.comp then d.outLen else 0
  e.bufs.any (fun b => rangesMeet b.1 b.2 d.result 128 || rangesMeet b.1 b.2 d.out stage) || rangesMeet d.out stage d.result 128

/-- The error of an inline descriptor under the table of R376. -/
def inlineError (s : State) (e : Exch) (d : Desc) : Option Nat :=
  if d.badField || !oneChain d || !stagesAgree d || d.inLen == 0 || d.result % 128 != 0 || d.resume || d.ivGen || d.aadLen != 0 ||
    (if e.opcode = Op.write then d.decomp || d.dec || (d.comp && d.outLen == 0) else d.comp || d.enc)
  then some EngErr.badJob
  else if inlineOverlap e d then some EngErr.overlap
  else if (jobKey (keyE s d.key) e.part d).isNone then some EngErr.keyRefused
  else none

/-- The owning die reads the job descriptor of an exchange at its acceptance and gives the job to an engine (R376). -/
def readInline (s : State) (e : Exch) : State :=
  let err := fun (s : State) code => decide_ s e.id Rec.datapathError code
  match ioReadV s e.owner e.id.slice e.dpReq 64 with
  | (s1, .error x) => err s1 (ioErrCode x)
  | (s1, .ok bs) =>
    let d := parseDesc bs
    match inlineError s1 e d with
    | some c => err s1 c
    | none =>
      let j : Job := { id := .inl e.id, part := e.part, gen := e.gen, desc := bs, die := e.owner
                       engine := pickEngine s1 e.owner true, st := .accepted, key := keyE s1 d.key }
      modExch { s1 with jobs := s1.jobs ++ [j] } e.id (fun e => { e with
        wireLen := if e.opcode = Op.read then d.inLen else e.length + (if d.cipher = 2 then 16 else 0) })

/-- Another exchange of the same slice and generation is live under this SEQUENCE (R256). -/
def seqLive (s : State) (e : Exch) : Bool :=
  s.exchs.any (fun o => o.id.slice == e.id.slice && o.gen == e.gen && o.seqNo == e.seqNo && isAccepted o && decide (o.id ≠ e.id))

/-- BAD_DESCRIPTOR, whatever the field. -/
def isBadDesc (f : Option ExRes) : Bool := f.any (fun r => r.code == Rec.badDescriptor)

/-- The chain of a member is refused as a whole, or its CHAIN's own bytes are (R259, R262). -/
def chainRefused (s : State) (e : Exch) : Bool :=
  match e.chainHead with
  | some h => isBadDesc ((exch s h).bind (·.dataFault))
  | none => false

/-- What a descriptor's acceptance finds wrong with it: what its fetch found, or that its group was closed meanwhile (R259, R287). -/
def acceptFault (s : State) (e : Exch) : Option ExRes :=
  match e.dataFault with
  | some r => some r
  | none => if groupOk s e.group e.id.pair e.part then none else some { code := Rec.badPathGroup, detail := 0 }

/-- SQ_HEAD passes one entry, and what the module can decide of it is decided; a chain member's own fault waits for its turn, but for a
repeated SEQUENCE and for the BAD_DESCRIPTOR of a refused chain (R256, R262). -/
def acceptOne (s : State) (x : ExId) : State :=
  match exch s x with
  | none => s
  | some e =>
    let key := pairKey x.slice x.pair
    let dup := seqLive s e
    let s1 := modCounters s key (fun r => { r with sqHead := r.sqHead + 1 })
    let stuck : Bool := match e.path with | some n => decide ((chan s n).state ≠ .live) | none => true
    let since := if e.pin.isSome then pip s else (group s e.group).noPathSince.getD (pip s)
    let s2 := { modExch s1 x (fun e => { e with st := .accepted, order := s.accepts, waitSince := if stuck then some since else none })
      with accepts := s.accepts + 1 }
    match acceptFault s e with
    | some r =>
      if isMember e && !(isBadDesc (some r) && chainRefused s e) then modExch s2 x (fun e => { e with dataFault := some r })
      else decideWith s2 x r
    | none =>
      if dup then decide_ s2 x Rec.duplicateSeq 0
      else
        let (s3, l) := readSgl s2 e
        match l with
        | .error r => if isMember e then modExch s3 x (fun e => { e with dataFault := some r }) else decideWith s3 x r
        | .ok l =>
          let s4 := modExch s3 x (fun e => { e with bufs := l })
          if e.flags.testBit 2 then readInline s4 { e with bufs := l } else s4

/-- What a CANCEL does at its acceptance (R280, R281). Its record waits for the target's in every row of the table; a member that an earlier
CANCEL holds is left to it; and its ABORT takes the place of one that a timeout or a data-path error has sent (LOG 127). -/
def cancelActs (s : State) (x : ExId) : State :=
  match exch s x with
  | none => s
  | some y =>
    if y.res.isSome then s
    else
      let target := s.exchs.find? (fun e => e.id.slice == x.slice && e.gen == y.gen && decide (e.id ≠ x) && isAccepted e &&
        e.seqNo == y.arg.toNat % 2 ^ 24)
      let cancelOne := fun (s : State) (e : Exch) =>
        let s1 := modExch s e.id (fun e => { e with cancelledBy := some x })
        if e.st = .accepted then decide_ s1 e.id Rec.cancelled 0
        else sendAbort (modExch s1 e.id (fun e => { e with abort := none })) e.id AbortBy.cancel
      match target with
      | none => decide_ s x Rec.notFound 0
      | some e =>
        let s1 := modExch s x (fun y => { y with target := some e.id })
        if e.cancelledBy.isSome then decide_ s1 x Rec.alreadyCancelling 0
        else if e.res.isSome ∨ 7 ≤ exRank e.st then decide_ s1 x Rec.tooLate 0
        else
          if e.opcode = Op.chain then
            let s2 := modExch s1 e.id (fun e => { e with cancelledBy := some x })
            (membersOf s2 e.id).foldl (fun s m => if m.res.isSome ∨ m.cancelledBy.isSome then s else cancelOne s m) s2
          else cancelOne s1 e

/-- A CHAIN none of whose members is left undecided may itself be decided (R262). -/
def chainDone (s : State) (h : ExId) : State :=
  if (membersOf s h).isEmpty then
    match exch s h with
    | some e => if e.opcode = Op.chain then decideWith s h (e.dataFault.getD { code := Rec.success, detail := 0 }) else s
    | none => s
  else s

/-- The entry is the next of its ring to be accepted, and its copy is confirmed (R253). -/
def acceptReady (s : State) (e : Exch) : Bool :=
  decide (e.st = .mirrored) && !isMember e && (ring s (pairKey e.id.slice e.id.pair)).sqHead == e.id.idx

/-- Accept a descriptor, with its members where it heads a chain, and start what may start. -/
def accept (s : State) (x : ExId) : State :=
  match exch s x with
  | none => s
  | some e =>
    if !acceptReady s e then s
    else
      let ms := (membersOf s x).map (fun m => m.id)
      let s1 := ms.foldl acceptOne (acceptOne s x)
      promoteAll (if e.opcode = Op.cancel then cancelActs s1 x else s1)

def execRow (x : ExId) (op : Nat) (s : State) : State :=
  match exch s x with
  | some e => if e.opcode = op then accept s x else s
  | none => s

def execRead (x : ExId) (s : State) : Res := .next (whenServing s (execRow x Op.read s))
def execWrite (x : ExId) (s : State) : Res := .next (whenServing s (execRow x Op.write s))
def execControl (x : ExId) (s : State) : Res := .next (whenServing s (execRow x Op.control s))
def execSense (x : ExId) (s : State) : Res := .next (whenServing s (execRow x Op.sense s))
def execChain (x : ExId) (s : State) : Res := .next (whenServing s (execRow x Op.chain s))
def execEcho (x : ExId) (s : State) : Res := .next (whenServing s (execRow x Op.echo s))
def execCancel (x : ExId) (s : State) : Res := .next (whenServing s (execRow x Op.cancel s))

/-- The copies of a mirror pair reach the partner: its mirror link is up, or one of its dies is lost and there is nothing to mirror to
(R16, R266; LOG 128). -/
def mirrors (s : State) (pr : Nat) : Bool := (link s (20 + pr)).up || ioLost s (2 * pr) || ioLost s (2 * pr + 1)

/-- The partner confirms the copy of an entry, with a chain's members; a descriptor with an opcode that has no row of its own is accepted
with it (R253, R261, R266). -/
def execMirrorConfirm (x : ExId) (s : State) : Res :=
  .next (whenServing s (if !mirrors s x.pair then s else
    let s1 := { s with exchs := s.exchs.map (fun e =>
      if (e.id = x ∨ e.chainHead = some x) ∧ e.st = .allocated then { e with st := .mirrored } else e) }
    match exch s1 x with
    | some e => if e.opcode = 0 ∨ 7 < e.opcode then accept s1 x else s1
    | none => s1))

/-! ## Buffers of an exchange -/

/-- The pieces (IOVA, length) of bytes [off, off + n) of the SGL's buffers. -/
def sglPieces : List (Nat × Nat) → Nat → Nat → List (Nat × Nat)
  | [], _, _ => []
  | (a, l) :: t, off, n =>
    if n = 0 then []
    else if l ≤ off then sglPieces t (off - l) n
    else
      let k := min n (l - off)
      (a + off, k) :: sglPieces t 0 (n - k)

/-- What a failed data access gives the record (R265). -/
def dataErr (e : IoErr) : ExRes :=
  match e with
  | .fault _ => { code := Rec.translationFault, detail := 2 }
  | .isolated => { code := Rec.isolated, detail := 0 }

/-- Read bytes of the SGL. Poisoned data has no status in the spec: the record's code and detail are then free (LOG 26). -/
def sglRead (d sl : Nat) : State → List (Nat × Nat) → List Byte → State × Except ExRes (List Byte)
  | s, [], acc => (s, .ok acc)
  | s, (a, n) :: t, acc => match ioReadV s d sl a n with
    | (s1, .error e) => (s1, .error (dataErr e))
    | (s1, .ok bs) =>
      if ioPoisonV s1 d sl a n then
        let (s2, w) := useFree s1
        (s2, .error { code := field w 7 0, detail := field w 15 8 })
      else sglRead d sl s1 t (acc ++ bs)

/-- Write bytes to the SGL's pieces; `alloc` puts the lines into L3 (R178, R327). -/
def sglWrite (d sl : Nat) (alloc : Bool) : State → List (Nat × Nat) → List Byte → State × Except ExRes Unit
  | s, [], _ => (s, .ok ())
  | s, (a, n) :: t, bs => match ioWriteV s d sl a (bs.take n) alloc with
    | (s1, .error e) => (s1, .error (dataErr e))
    | (s1, .ok ()) => sglWrite d sl alloc s1 t (bs.drop n)

/-- READ data of an express channel goes into L3. -/
def onExpress (e : Exch) : Bool := match e.path with | some n => isExpress n | none => false

/-! ## Sending (R260, R270, R283, R300, R303) -/

/-- Exchanges of a path between OPEN and COMPLETE (R300). -/
def openCount (s : State) (n : Nat) : Nat :=
  (s.exchs.filter (fun e => e.path == some n && onPath e && decide (e.st ≠ .inFlight))).length

/-- Whether `a` takes a slot before `b`: redriven and taken-over exchanges first, then the order of acceptance (R270, R274). -/
def slotBefore (a b : Exch) : Bool :=
  let pa := decide (0 < a.attempt) || a.takenOver
  let pb := decide (0 < b.attempt) || b.takenOver
  if pa == pb then decide (a.order < b.order) else pa

/-- No other exchange waiting for a slot of the path goes first. -/
def nextInLine (s : State) (e : Exch) : Bool :=
  s.exchs.all (fun o => !(o.path == e.path && decide (o.st = .inFlight) && o.res.isNone && o.abort.isNone && decide (o.id ≠ e.id)) ||
    slotBefore e o)

/-- The OPEN frame's body (R297). -/
def openBody (e : Exch) : List Byte :=
  [BitVec.ofNat 8 e.opcode, 0#8, 0#8, 0#8] ++ beBytes 4 e.wireLen ++ beBytes 8 e.remote.toNat ++ beBytes 8 e.arg.toNat ++
  List.replicate 8 0#8

/-- The exchange at the head of its path takes a slot and sends its OPEN (R266, R300). -/
def openExch (s : State) (x : ExId) : State :=
  let s0 := promote s x
  match exch s0 x with
  | none => s0
  | some e => match e.path with
    | none => s0
    | some n =>
      let c := chan s0 n
      if e.st ≠ .inFlight ∨ e.res.isSome ∨ e.abort.isSome ∨ e.terminating ∨ mirrors s0 x.pair = false then s0
      else if !(decide (c.state = .live) && decide (0 < c.slotsLeft) && windowRoom c && decide (openCount s0 n < c.peerMaxOpen) &&
        nextInLine s0 e && jobReady s0 e) then s0
      else
        let s1 := modChan s0 n (fun c => { c with slotsLeft := c.slotsLeft - 1 })
        let s2 := sendFrame s1 n FType.open_ true (tagOf e) (openBody e) false
        modExch s2 x (fun e => { e with
          st := .awaitAck, frameSent := true, openStamp := replicaNat s (chanBase n), openPip := some (e.openPip.getD (pip s))
          redriven := e.redriven || (match e.lastCh with | some k => k != n | none => false), lastCh := some n })

def execOpen (x : ExId) (s : State) : Res := .next (whenServing s (openExch s x))

/-- The key bytes of an inline job, whose key was read at its acceptance (R373, R376, R475). -/
def inlineKey (s : State) (e : Exch) (d : Desc) : Option (List Byte) := jobKey ((job s (.inl e.id)).bind (·.key)) e.part d

/-- The engine's output of an inline WRITE, GCM tag last (R376). -/
def inlineOutput (s : State) (e : Exch) (d : Desc) (inp : List Byte) (room : Nat) : JobOut :=
  match inlineKey s e d with
  | none => jobError EngErr.keyRefused
  | some key =>
    let o := jobRun d key d.param inp [] room
    { o with out := o.out ++ (if o.state = 2 then o.tag.getD [] else []) }

/-- A data-path error of a WRITE in flight: ABORT with cause 0x04 (R304, R379); before its OPEN the exchange completes at once. -/
def dpError (s : State) (x : ExId) (code : Nat) : State :=
  match exch s x with
  | none => s
  | some e =>
    if e.frameSent ∧ onPath e then sendAbort (modExch s x (fun e => { e with dpErr := some code })) x AbortBy.datapath
    else decide_ s x Rec.datapathError code

/-- The bytes that a WRITE or CONTROL sends at [off, off + n): the SGL's, or the engine's output of the whole SGL, which is made when
the first DATA frame is sent (LOG 27). -/
def wireBytes (s : State) (e : Exch) (off n : Nat) : State × Except ExRes (List Byte) :=
  match job s (.inl e.id) with
  | none => sglRead e.owner e.id.slice s (sglPieces e.bufs off n) []
  | some j =>
    if e.rxData ≠ [] then (s, .ok (slice e.rxData off n))
    else match sglRead e.owner e.id.slice s e.bufs [] with
      | (s1, .error r) => (s1, .error r)
      | (s1, .ok inp) =>
        let o := inlineOutput s1 e (parseDesc j.desc) inp (2 ^ 64)
        if o.state = 2 then (modExch s1 e.id (fun e => { e with rxData := o.out }), .ok (slice o.out off n))
        else (s1, .error { code := Rec.datapathError, detail := o.error })

def dataBody (off : Nat) (bs : List Byte) : List Byte :=
  beBytes 4 off ++ beBytes 2 bs.length ++ [0#8, 0#8] ++ beBytes 4 (crc32c bs).toNat ++ List.replicate 4 0#8 ++ bs

/-- The next DATA frame of a WRITE, or of a CONTROL with data, once its OPEN is acknowledged NEW and the window has room (R303). DLEN is 1 or
more, so an exchange of length 0 sends none (R297; LOG 129). -/
def dataSend (s : State) (x : ExId) : State :=
  match exch s x with
  | none => s
  | some e => match e.path with
    | none => s
    | some n =>
      let c := chan s n
      let out := e.opcode == Op.write || e.opcode == Op.control
      if !(out && decide (0 < e.wireLen) && decide (e.st = .data) && e.ackNew && !e.lastSent && e.res.isNone && e.abort.isNone && !e.terminating &&
        decide (c.state = .live) && windowRoom c) then s
      else
        let k := min (maxDataOf (group s e.group) n c) (e.wireLen - e.sentOff)
        match wireBytes s e e.sentOff k with
        | (s1, .error r) => if r.code = Rec.datapathError then dpError s1 x r.detail else decideWith s1 x r
        | (s1, .ok bs) =>
          let last := decide (e.wireLen ≤ e.sentOff + k)
          modExch (sendFrame s1 n FType.data true (tagOf e) (dataBody e.sentOff bs) last) x
            (fun e => { e with sentOff := e.sentOff + k, lastSent := last })

def execDataSend (x : ExId) (s : State) : Res := .next (whenServing s (dataSend s x))

/-- Staging of a compressed WRITE ends: the job's whole output is in the staging area, and the OPEN may be sent (R377). -/
def stagingEnd (s : State) (x : ExId) : State :=
  match exch s x, job s (.inl x) with
  | some e, some j =>
    let d := parseDesc j.desc
    if e.opcode ≠ Op.write ∨ !d.comp ∨ j.st ≠ .running ∨ e.staged.isSome ∨ e.res.isSome then s
    else match sglRead e.owner e.id.slice s e.bufs [] with
      | (s1, .error r) => decideWith s1 x r
      | (s1, .ok inp) =>
        let o := inlineOutput s1 e d inp d.outLen
        if o.state = 3 then decide_ s1 x Rec.datapathError EngErr.outputFull
        else if o.state ≠ 2 then decide_ s1 x Rec.datapathError o.error
        else match ioWriteV s1 e.owner e.id.slice d.out (o.out.take d.outLen) with
          | (s2, .error r) => decide_ s2 x Rec.datapathError (ioErrCode r)
          | (s2, .ok ()) =>
            promoteAll (modExch s2 x (fun e => { e with staged := some o.out.length, wireLen := o.out.length, rxData := o.out }))
  | _, _ => s

def execStagingEnd (x : ExId) (s : State) : Res := .next (whenServing s (stagingEnd s x))

/-! ## Frames of an exchange received (R278, R303-R306) -/

/-- The live exchange that a tag names, its generation included. -/
def findTag (s : State) (tag : W64) : Option Exch :=
  s.exchs.find? (fun e => isAccepted e && tagNat { e with attempt := 0 } == tag.toNat - place (field tag 15 12) 12)

inductive Match where
  | late
  | stale
  | of (e : Exch)
deriving DecidableEq, Repr

/-- How a frame's tag stands to the live exchanges (R278, R305). -/
def matchFrame (s : State) (n : Nat) (tag : W64) : Match :=
  match findTag s tag with
  | none => .late
  | some e =>
    if e.terminating || 7 ≤ exRank e.st || e.res.isSome then .late
    else if field tag 15 12 < e.attempt then .stale
    else if field tag 15 12 ≠ e.attempt ∨ e.path ≠ some n then .stale
    else .of e

/-- A frame of an exchange: the checks, the counts of R278 and R305, and what it does. -/
def exFrame (s : State) (n ft : Nat) (h : FrameHdr) (f : State → Exch → State) : State :=
  match admitFrame s n ft h with
  | (s1, none) => s1
  | (s1, some g) => match inOrder s1 n h with
    | (s2, false) => s2
    | (s2, true) => match matchFrame s2 n h.tag with
      | .late => modGroup s2 g (fun x => { x with lateDiscards := x.lateDiscards + 1 })
      | .stale => modGroup s2 g (fun x => { x with staleDiscards := x.staleDiscards + 1 })
      | .of e => f s2 e

def protocol : ExRes := { code := Rec.remoteError, detail := 0xF3 }

/-- DATA of a READ or SENSE, taken in order from offset 0 (R303, R304, R376). -/
def takeData (s : State) (e : Exch) (b : DataBody) (last : Bool) : State :=
  if !(e.opcode == Op.read || e.opcode == Op.sense) || e.wireLen < b.offset.toNat + b.data.length then
    modExch s e.id (fun e => { e with dataFault := some (e.dataFault.getD protocol) })
  else if b.offset.toNat ≠ e.rcvd then s
  else
    let s0 := modExch s e.id (fun e => { e with rcvd := e.rcvd + b.data.length, gotLast := e.gotLast || last })
    match job s0 (.inl e.id) with
    | some _ => modExch s0 e.id (fun e => { e with rxData := e.rxData ++ b.data })
    | none =>
      if e.dataFault.isSome then s0
      else match sglWrite e.owner e.id.slice (onExpress e) s0 (sglPieces e.bufs b.offset.toNat b.data.length) b.data with
        | (s1, .ok ()) => s1
        | (s1, .error r) => modExch s1 e.id (fun e => { e with dataFault := some r })

/-- An express channel writes READ data before the frame's checks are made: that of a frame which then fails stays in the buffer
(R328). -/
def expressEarly (s : State) (n : Nat) (h : FrameHdr) (b : DataBody) : State :=
  let c := chan s n
  if h.ftype.toNat ≠ FType.data then s
  else if !(isExpress n && decide (c.state = .live) && c.pcs && decide (h.epoch.toNat = c.epoch ∧ h.seq.toNat = c.rxSeq)) then s
  else match matchFrame s n h.tag with
    | .of e =>
      if (e.opcode == Op.read || e.opcode == Op.sense) && (job s (.inl e.id)).isNone && e.dataFault.isNone &&
        decide (b.offset.toNat = e.rcvd ∧ e.rcvd + b.data.length ≤ e.wireLen) then
        (sglWrite e.owner e.id.slice true s (sglPieces e.bufs b.offset.toNat b.data.length) b.data).1
      else s
    | _ => s

/-- A DATA frame. One whose DATA_CRC fails, or whose DLEN is not its data's, is not accepted (R299). -/
def execDataFrame (ch : ChanNo) (h : FrameHdr) (b : DataBody) (s : State) : Res :=
  .next (whenServing s (
    let s := expressEarly s ch h b
    if crc32c b.data ≠ b.crc ∨ b.data.length ≠ b.dlen.toNat ∨ b.data = [] then
      (match admitFrame s ch FType.data h with
       | (s1, some _) => if h.seq.toNat = (chan s1 ch).rxSeq then sendNak s1 ch 2 else (inOrder s1 ch h).1
       | (s1, none) => s1)
    else exFrame s ch FType.data h (fun s e => takeData s e b (h.flags.getLsbD 3))))

/-- An exchange with data frames; ECHO and a CONTROL without data go from AWAIT_ACK to REMOTE_COMPLETE (R266, R303). -/
def movesData (e : Exch) : Bool := !(e.opcode == Op.echo || (e.opcode == Op.control && e.length == 0))

/-- ACK NEW, DONE or FULL of an exchange (R303, R304, R318). -/
def takeDisposition (s : State) (e : Exch) (disposition : Byte) : State :=
  let st := fun (e : Exch) => if e.st = .awaitAck ∧ movesData e then ExSt.data else e.st
  match disposition.toNat with
  | 0 => modExch s e.id (fun e => { e with ackNew := true, st := st e })
  | 1 => modExch s e.id (fun e => { e with ackDone := true, st := st e })
  | 2 => promoteAll (decide_ s e.id Rec.remoteError 0xF2)
  | _ => s

/-- An ACK with TAG zero only acknowledges (R296). -/
def execAck (ch : ChanNo) (h : FrameHdr) (disposition : Byte) (s : State) : Res :=
  .next (whenServing s (
    if h.tag = 0#64 then
      (match admitFrame s ch FType.ack h with
       | (s1, some _) => (checkGap s1 ch h).1
       | (s1, none) => s1)
    else exFrame s ch FType.ack h (fun s e => takeDisposition s e disposition)))

/-- The record status of a COMPLETE (R304). One that brings the outcome of an earlier attempt, after ACK DONE or with FROM_TABLE, is not held
to the data of this attempt (R297, R303; LOG 137). -/
def completeResult (e : Exch) (b : CompleteBody) : ExRes :=
  let st := b.status.toNat
  let n := b.bytes.toNat
  let aborted := match e.abort with | some a => a.cause | none => 0
  if st = 0xF0 ∧ aborted = AbortBy.cancel then { code := Rec.cancelled, detail := 0, bytes := n }
  else if st = 0xF0 ∧ aborted = AbortBy.timeout then { code := Rec.timeout, detail := 0, bytes := n }
  else if aborted = AbortBy.datapath then
    if st = 0xF0 then { code := Rec.datapathError, detail := e.dpErr.getD 0, bytes := n } else { protocol with bytes := n }
  else if st = 0xF0 then { code := Rec.remoteError, detail := 0xF0, bytes := n }
  else
    let out := (e.opcode == Op.write || e.opcode == Op.control) && decide (0 < e.wireLen)
    let bad := !(e.ackDone || b.cflags.getLsbD 0) && (((e.opcode == Op.read || e.opcode == Op.sense) && n != e.rcvd) || (out && !e.lastSent))
    if 0xF1 ≤ st ∨ bad then { protocol with bytes := n }
    else if st ≠ 0 then { code := Rec.remoteError, detail := st, bytes := n }
    else match e.dataFault with
      | some r => { r with bytes := n }
      | none => { code := Rec.success, detail := 0, bytes := n }

/-- The engine's end of an inline READ that the far end has completed: decrypted and decompressed data in the buffers, or its error
(R377). -/
def finishInlineRead (s : State) (e : Exch) (r : ExRes) : State × ExRes :=
  match job s (.inl e.id) with
  | none => (s, r)
  | some j =>
    if r.code ≠ Rec.success ∨ e.opcode ≠ Op.read then (s, r)
    else
      let d := parseDesc j.desc
      let fail := fun (s : State) (c : Nat) => (s, { code := Rec.datapathError, detail := c, bytes := r.bytes : ExRes })
      match inlineKey s e d with
      | none => fail s EngErr.keyRefused
      | some key =>
        let tagLen := if d.cipher = 2 then 16 else 0
        let inp := e.rxData.take (e.rxData.length - tagLen)
        let o := jobRun d key d.param inp (e.rxData.drop (e.rxData.length - tagLen)) e.length
        if o.state = 3 then fail s EngErr.outputFull
        else if o.state ≠ 2 then fail s o.error
        else match sglWrite e.owner e.id.slice (onExpress e) s (sglPieces e.bufs 0 o.out.length) o.out with
          | (s1, .ok ()) => (modJob s1 j.id (fun j => { j with progress := o.progress }), r)
          | (s1, .error x) => (s1, { x with bytes := r.bytes })

/-- A COMPLETE ends the exchange's time on the wire (R266, R304, R313). -/
def takeComplete (s : State) (n : Nat) (e : Exch) (b : CompleteBody) : State :=
  let s1 := noteCompletion s n (replicaNat s (chanBase n) - e.openStamp)
  let (s2, r) := finishInlineRead s1 e (completeResult e b)
  promoteAll (decideWith (modExch s2 e.id (fun e => { e with st := .remoteComplete })) e.id r)

def execComplete (ch : ChanNo) (h : FrameHdr) (b : CompleteBody) (s : State) : Res :=
  .next (whenServing s (exFrame s ch FType.complete h (fun s e => takeComplete s ch e b)))

/-! ## Ends without a COMPLETE (R271, R305, R306) -/

/-- No path has become LIVE within NO_PATH_WAIT: NO_PATH, or PATH_LOST for a pinned exchange that never had its channel (LOG 66). -/
def execNoPathWaitExpiry (x : ExId) (s : State) : Res :=
  .next (whenServing s (match exch s x with
    | none => s
    | some e =>
      let g := group s e.group
      let start := match e.waitSince with
        | some k => k
        | none => g.noPathSince.getD (pip s)
      let stuck : Bool := match e.path with
        | none => true
        | some n => decide ((chan s n).state ≠ .live)
      if e.res.isSome ∨ !(e.st = .accepted || e.st = .inFlight || e.st = .awaitAck || e.st = .data) ∨ !stuck ∨ e.opcode = Op.cancel ∨
        e.opcode = Op.chain ∨ pip s < start + g.noPathWait then s
      else promoteAll (decide_ s x (if e.pin.isSome then Rec.pathLost else Rec.noPath) 0)))

/-- TIMEOUT pips from the first OPEN without a COMPLETE: ABORT (R257, R305). -/
def execExchangeTimeout (x : ExId) (s : State) : Res :=
  .next (whenServing s (match exch s x with
    | none => s
    | some e =>
      let t := if e.timeout = 0 then (group s e.group).exchTimeout else e.timeout
      match e.openPip with
      | none => s
      | some k => if onPath e ∧ e.abort.isNone ∧ !e.terminating ∧ k + t ≤ pip s then sendAbort s x AbortBy.timeout else s))

def abortWait : Nat := 200

/-- ABORT_WAIT has passed: send again on the same path, or end after four sends (R306). -/
def execAbortWaitExpiry (x : ExId) (s : State) : Res :=
  .next (whenServing s (match exch s x with
    | none => s
    | some e => match e.abort with
      | none => s
      | some a =>
        if e.res.isSome ∨ e.terminating ∨ pip s < a.since + abortWait ∨ e.path.isNone then s
        else if 4 ≤ a.sends then
          promoteAll (modGroup (decide_ s x Rec.abortUnconfirmed 0) e.group
            (fun g => { g with abortUnconfirmed := g.abortUnconfirmed + 1 }))
        else sendAbort s x a.cause))

/-! ## The record (R263-R268, R275, R284) -/

/-- The final status word and result area of an inline job, written before the exchange is LOGGED (R377). -/
def endInline (s : State) (e : Exch) (r : ExRes) : State :=
  match job s (.inl e.id) with
  | none => s
  | some j =>
    let d := parseDesc j.desc
    let o0 : JobOut := match inlineKey s e d with
      | none => jobError EngErr.keyRefused
      | some key =>
        if e.opcode = Op.read then
          let tagLen := if d.cipher = 2 then 16 else 0
          jobRun d key d.param (e.rxData.take (e.rxData.length - tagLen)) (e.rxData.drop (e.rxData.length - tagLen)) e.length
        else match (sglRead e.owner e.id.slice s e.bufs []).2 with
          | .ok inp => jobRun d key d.param inp [] (if d.comp then d.outLen else 2 ^ 64)
          | .error _ => jobError EngErr.translation
    let o : JobOut :=
      if r.code = Rec.success then o0
      else if r.code = Rec.datapathError then { o0 with state := 4, error := r.detail, digest := none, tag := none }
      else { o0 with state := 5, error := 0, digest := none, tag := none }
    let word := statusWord o.progress o.error j.rerun false (j.engine.getD 0) o.state
    let s1 := (writeResult s e.owner e.id.slice d.result (resultParts o 0 none) (stampAt s (2 + e.owner)) word).1
    let s2 := { s1 with jobs := s1.jobs.filter (fun k => decide (k.id ≠ j.id)) }
    match j.engine with
    | some g => modEng s2 g (fun x => { x with errors := x.errors + (if o.state = 4 then 1 else 0), bytesIn := x.bytesIn + o0.consumed })
    | none => s2

/-- Every memory write of the exchange has its Cmp (R266); a decision of the module passes through here too (LOG 70). -/
def execExchangeLogged (x : ExId) (s : State) : Res :=
  .next (whenServing s (match exch s x with
    | none => s
    | some e => match e.res with
      | none => s
      | some r =>
        if 8 ≤ exRank e.st ∨ !isAccepted e ∨ e.terminating ∨ !ioQuiet s e.owner ∨ !mirrors s x.pair then s
        else modExch (endInline s e r) x (fun e => { e with st := .logged })))

/-- INFO (R264). -/
def infoWord (e : Exch) (r : ExRes) (count : W32) (k : Nat) : Nat :=
  flag (count.toNat / 2 ^ k % 2 == 0) 15 + flag r.synth 14 + flag e.redriven 13 + flag e.takenOver 12 + (e.lastCh.getD 0x1FF) % 512

/-- The 32 bytes of a completion record (R263). -/
def recordBytes (e : Exch) (r : ExRes) (count : W32) (k : Nat) (stamp : W64) : List Byte :=
  leBytes 8 (tagNat e) ++ [BitVec.ofNat 8 r.code, BitVec.ofNat 8 r.detail] ++ leBytes 2 (infoWord e r count k) ++ leBytes 4 r.bytes ++
  leBytes 8 e.cookie.toNat ++ leBytes 8 stamp.toNat

/-- A completion record write failed: CQ_LOST, RING_FAULT, fetch stops (R268). -/
def recordLost (s : State) (key : Nat) : State :=
  raiseRing (modRing s key (fun r => { r with cqLost := true })) key QCause.ringFault

/-- Write a record into the slot of its completion count. -/
def writeRecord (s : State) (x : ExId) (count : W32) (bs : List Byte) : State × Bool :=
  let key := pairKey x.slice x.pair
  let r := ring s key
  match ioWriteV s (serveDie x.pair r.serve) x.slice (r.cqBase + count.toNat % 2 ^ r.cqK * 32) bs with
  | (s1, .ok ()) => (s1, true)
  | (s1, .error _) => (s1, false)

/-- The record bytes and the completion count are fixed and mirrored, and the WrLine is issued (R263, R266). A failed write leaves no
record to post. -/
def compose (s : State) (x : ExId) : State :=
  match exch s x with
  | none => s
  | some e => match e.res with
    | none => s
    | some r =>
      let key := pairKey x.slice x.pair
      let c := (ring s key).cqTail
      let bs := recordBytes e r c (ring s key).cqK (stampAt s (2 + e.owner))
      let s1 := modCounters s key (fun r => { r with cqTail := r.cqTail + 1 })
      let (s2, ok) := writeRecord s1 x c bs
      let s3 := if ok then s2 else recordLost s2 key
      modExch s3 x (fun e => { e with st := .composed, count := some c, record := if ok then bs else [] })

/-- A CHAIN waits for its members' records; a CANCEL that holds a target waits for the target's (R262, R280). -/
def composeTurn (s : State) (e : Exch) : Bool :=
  (e.opcode != Op.chain || (membersOf s e.id).isEmpty) &&
  (match e.target with | some t => (exch s t).isNone | none => true)

def execRecordComposed (x : ExId) (s : State) : Res :=
  .next (whenServing s (match exch s x with
    | none => s
    | some e => if e.st = .logged ∧ !e.terminating ∧ mirrors s x.pair ∧ composeTurn s e then compose s x else s))

/-- The completion event, once per ring pair per pip (R284). -/
def raiseCompletion (s : State) (key : Nat) : State :=
  let r := ring s key
  if r.completionPip = some (pip s) then s
  else raiseRing (modRing s key (fun r => { r with completionPip := some (pip s) })) key QCause.completion

/-- What the end of a target means to the CANCEL that holds it (R280). -/
def settleCancel (s : State) (e : Exch) : State :=
  match e.cancelledBy with
  | none => s
  | some y => match exch s y with
    | some c => if c.target = some e.id then
        decide_ s y (if (match e.res with | some r => r.code == Rec.cancelled | none => false) then Rec.success else Rec.tooLate) 0
      else s
    | none => s

/-- The record's WrLine has its Cmp: the exchange is POSTED and its entry is freed (R266, R284). -/
def execRecordPosted (x : ExId) (s : State) : Res :=
  .next (whenServing s (match exch s x with
    | none => s
    | some e =>
      let key := pairKey x.slice x.pair
      if e.st ≠ .composed ∨ !ioQuiet s (serveDie x.pair (ring s key).serve) then s
      else
        let s1 := { s with exchs := s.exchs.filter (fun o => decide (o.id ≠ x)) }
        let s2 := if e.flags.testBit 1 || e.record.isEmpty then s1 else raiseCompletion s1 key
        let s3 := match e.chainHead with
          | some h => chainDone s2 h
          | none => s2
        promoteAll (settleCancel s3 e)))

/-! ## Slice reset (R277, R338, R380) -/

/-- Steps 1 and 2 of a slice reset, and the stop of step 3: fetch stops, unaccepted descriptors are dropped, exchanges in flight send
ABORT, every exchange that is not COMPOSED is to be terminated; jobs that have not started stop. -/
def startSliceReset (s : State) (sl : Nat) : State :=
  let s1 := modSlice s sl (fun e => { e with state := .resetting })
  let stop := fun (s : State) r => if (ring s (pairKey sl r)).active then
      modCounters s (pairKey sl r) (fun r => { r with sqTail := r.sqHead, fetchStopped := true }) else s
  let stopQ := fun (s : State) r => if (eqq s (pairKey sl r)).active then
      modEq s (pairKey sl r) (fun q => { q with eqTail := q.eqHead, fetchStopped := true }) else s
  let s2 := forEach (forEach s1 [0, 1] stop) [0, 1] stopQ
  let s3 : State := { s2 with
    exchs := s2.exchs.filter (fun e => e.id.slice.val != sl || isAccepted e)
    jobs := s2.jobs.filter (fun j => match j.id with
                        | .queued q _ _ => q.val != sl || decide (j.st ≠ .fetched)
                        | .inl _ => true) }
  (s3.exchs.filter (fun e => e.id.slice.val == sl && decide (exRank e.st < 9))).foldl (fun s e =>
    let s1 := if onPath e && isAccepted e && decide (e.st ≠ .accepted) then sendAbort { s with exchs := s.exchs.map (fun o =>
        if o.id = e.id then { o with abort := none } else o) } e.id AbortBy.reset else s
    modExch s1 e.id (fun e => { e with terminating := true })) s3

/-- A standalone job gets its final status word, and ENG_DONE is raised with EVENT, once per queue per pip; a write that fails sets
STATUS_LOST (R362). -/
def finishJob (s : State) (j : Job) (parts : List (Nat × List Byte)) (word : Nat) : State :=
  match j.id with
  | .inl _ => s
  | .queued sl pr _ =>
    let d := parseDesc j.desc
    let (s1, r) := writeResult s j.die sl d.result parts (stampAt s (2 + j.die)) word
    let key := pairKey sl pr
    let s2 := match r with
      | .ok () => s1
      | .error _ => raiseQueue (modEq s1 key (fun q => { q with statusLost := true })) key QCause.eqFault
    let s3 := { s2 with jobs := s2.jobs.filter (fun k => decide (k.id ≠ j.id)) }
    if d.event ∧ (eqq s3 key).donePip ≠ some (pip s3) then
      raiseQueue (modEq s3 key (fun q => { q with donePip := some (pip s3) })) key QCause.engDone
    else s3

/-- The final status ABORTED of a standalone job (R380, R382); one that has ended keeps its own. -/
def abortJob (s : State) (j : Job) : State :=
  if j.st = .ended then finishJob s j j.result j.word
  else
    finishJob s j (resultParts { state := 5, progress := j.progress, consumed := 0, exact := 0 } 0 none)
      (statusWord j.progress 0 j.rerun false (j.engine.getD 0) 5)

def queueJobs (s : State) (sl pr : Nat) : List Job :=
  s.jobs.filter (fun j => match j.id with | .queued a b _ => a.val == sl && b.val == pr | .inl _ => false)

/-- Steps 3 and 4: TERMINATED records are composed under the old generation, the jobs get ABORTED, the generation advances and cached
translations of the slice are dropped (R277, R338, R380). -/
def drainEnd (s : State) (sl : Nat) : State :=
  let mine := s.exchs.filter (fun e => e.id.slice.val == sl && e.terminating)
  let heads := mine.filter (fun e => e.opcode == Op.chain)
  let rest := mine.filter (fun e => e.opcode != Op.chain)
  let s1 := (rest ++ heads).foldl (fun s e =>
    let r : ExRes := { code := Rec.terminated, detail := 0, synth := true }
    let s1 := endInline s e r
    compose (modExch s1 e.id (fun e => { e with res := some r, st := .logged, abort := none, terminating := false })) e.id) s
  let s2 := (queueJobs s1 sl 0 ++ queueJobs s1 sl 1).foldl abortJob s1
  let s3 := dropLeaves (modSlice s2 sl (fun e => { e with
    state := if (part s2 e.part).state = .held ∨ (part s2 e.part).state = .quiesced then .held else .active
    gen := (e.gen + 1) % 256 })) sl 0 0
  let s4 := { s3 with lastGen := tset s3.lastGen sl (sliceE s3 sl).gen }
  forEach (forEach s4 [0, 1] (fun s r => modRing s (pairKey sl r) (fun r => { r with fetchStopped := true }))) [0, 1]
    (fun s r => modEq s (pairKey sl r) (fun q => { q with fetchStopped := true }))

/-- The slice's real records are posted and its translated accesses have drained (R277). -/
def execSliceResetDrainEnd (sl : SliceNo) (s : State) : Res :=
  .next (whenServing s (
    if (sliceE s sl).state = .resetting ∧ (List.range 4).all (fun d => ioQuiet s d) ∧
        !s.exchs.any (fun e => e.id.slice.val == sl && decide (e.st = .composed)) then drainEnd s sl
    else s))

/-! ## Loss of I/O dies (R245, R272-R276, R381) -/

/-- The partner's treatment of one entry of the lost die (R273). A completion that the module had decided stands with the entry (LOG 130). -/
def takeOver (s : State) (partner : Nat) (x : ExId) : State :=
  match exch s x with
  | none => s
  | some e =>
    let isProt := bothDies (group s e.group)
    let s1 := modExch s x (fun e => { e with owner := partner, takenOver := true })
    let redriveIt := redrive (modExch s1 x (fun e => { e with st := .inFlight, res := none })) none x
    if e.st = .composed then
      let s2 := modExch s x (fun e => { e with owner := partner })
      (match e.count with
       | some c =>
         if cnt c (ring s (pairKey x.slice x.pair)).cqHead < 2 ^ 31 ∧ e.record ≠ [] then
           (match writeRecord s2 x c e.record with
            | (s3, true) => s3
            | (s3, false) => modExch (recordLost s3 (pairKey x.slice x.pair)) x (fun e => { e with record := [] }))
         else s2
       | none => s2)
    else if e.st = .logged then s1
    else if e.st = .remoteComplete ∧ !(e.opcode = Op.read ∨ e.opcode = Op.sense) then s1
    else if e.res.isSome ∧ e.st ≠ .remoteComplete then s1
    else if !isProt then decide_ (modExch s1 x (fun e => { e with res := none })) x Rec.dieLost 0
    else if e.st = .accepted then
      modExch s1 x (fun e => { e with path := if e.opcode = Op.cancel ∨ e.opcode = Op.chain then none else e.pin })
    else redriveIt

/-- A queue's jobs without final status run again from the beginning on the partner (R381). -/
def takeOverJobs (s : State) (lost partner : Nat) : State :=
  let jobs := s.jobs.filter (fun j => !(j.die == lost && decide (j.st = .fetched)))
  { s with jobs := jobs.map (fun j =>
      if j.die = lost then (match j.id with
        | .queued .. => { j with die := partner, st := .accepted, rerun := true, engine := none, progress := 0, result := [] }
        | .inl _ => j)
      else j) }

/-- The partner of a lost I/O die takes over its entries, its ring pairs and its engine queues; its paths are down, groups on the pair
become unprotected, and a ring with a lost descriptor that was not accepted fetches again from SQ_HEAD (R245, R272, R273, R275, R381). -/
def takeover (s : State) (d : Nat) : State :=
  let partner := d ^^^ 1
  let pr := d / 2
  let served := (s.rings.filter (fun e => e.2.active && e.1 % 2 == pr && serveDie pr e.2.serve == d)).map (·.1)
  let hit := (s.exchs.filter (fun e => e.owner == d && isAccepted e)).map (fun e => e.id)
  let again := served ++ (s.exchs.filter (fun e => e.owner == d && !isAccepted e)).map (fun e => pairKey e.id.slice e.id.pair)
  let s1 := { s with
    exchs := s.exchs.filter (fun e => isAccepted e || !again.contains (pairKey e.id.slice e.id.pair))
    chans := s.chans.map (fun e =>
      if chanDie e.1 = d then (e.1, { e.2 with state := if e.2.group.isSome then .down else .noGroup, unacked := [], queued := [], peer := none }) else e)
    eqs := s.eqs.map (fun e => if e.2.active && e.1 % 2 == pr && serveDie pr e.2.serve == d then (e.1, { e.2 with serve := 1 - e.2.serve }) else e) }
  let s2 := forEach s1 served (fun s k => modRing s k (fun r => { r with serve := 1 - r.serve }))
  let s3 := hit.foldl (fun s x => takeOver s partner x) (takeOverJobs s2 d partner)
  let dead := ((s3.groups.filter (fun e => e.2.opened && e.2.chans.any (fun n => chanDie n == d))).map (·.1)).filter
    (fun g => (livePaths s3 g).isEmpty)
  let s4 := forEach (forEach s3 dead (fun s g => modGroup s g (fun x => { x with noPathSince := some (x.noPathSince.getD (pip s)) })))
    served raiseCompletion
  let gs := s4.groups.filter (fun e => e.2.opened && e.2.isProtected && e.2.chans.any (fun n => chanDie n / 2 == pr))
  let s5 := gs.foldl (fun s e =>
    forEach (modGroup s e.1 (fun g => { g with isProtected := false })) ((List.range 16).filter (fun p => e.2.mask.getLsbD p))
      (fun s p => notice s p Notice.pgUnprotected e.1)) s4
  settle (promoteAll (forEach s5 (gs.map (·.1)) resetCur))

def execIoDieTakeover (d : IoDie) (s : State) : Res :=
  .next (whenServing s (if ioLost s d ∧ !ioLost s (d.val ^^^ 1) then takeover s d else s))

/-- Both dies of a pair are lost: its exchanges and jobs get no end, PAIR_LOST is set and raised (R276, R381). A CANCEL of the other pair
that held one of them ends TOO_LATE (R268, R280; LOG 131). -/
def pairLoss (s : State) (pr : Nat) : State :=
  let rs := (s.rings.filter (fun e => e.2.active && e.1 % 2 == pr && !e.2.pairLost)).map (·.1)
  let qs := (s.eqs.filter (fun e => e.2.active && e.1 % 2 == pr && !e.2.pairLost)).map (·.1)
  let held := s.exchs.filter (fun e => e.id.pair.val == pr && e.cancelledBy.isSome)
  let s0 := { s with
    exchs := s.exchs.filter (fun e => e.id.pair.val != pr)
    jobs := s.jobs.filter (fun j => match j.id with | .queued _ q _ => q.val != pr | .inl x => x.pair.val != pr)
    chans := s.chans.map (fun e =>
      if chanDie e.1 / 2 = pr then (e.1, { e.2 with state := if e.2.group.isSome then .down else .noGroup, unacked := [], queued := [], peer := none }) else e) }
  let s1 := held.foldl (fun s e => settleCancel s { e with res := none }) s0
  let s2 := forEach s1 rs (fun s k => raise (modRing s k (fun r => { r with pairLost := true })) (ring s k).source QCause.pairLost)
  let s3 := forEach s2 qs (fun s k => raise (modEq s k (fun q => { q with pairLost := true })) (eqq s k).source QCause.pairLost)
  let owners := (List.range 16).filter (fun p => (rs ++ qs).any (fun k => (sliceE s3 (k / 2)).part == p))
  forEach s3 owners (fun s p => notice s p Notice.pairLost pr)

def execPairLoss (p : PairNo) (s : State) : Res :=
  .next (whenServing s (if ioLost s (2 * p.val) ∧ ioLost s (2 * p.val + 1) then pairLoss s p else s))

end Sys2Proof.Machine
end

