-- ==== Sys2Proof/Machine/Engines.lean ====
section
/-! DEFINITION. Engine queues and the commands of a job's life (R354-R365, R376-R384). -/

namespace Sys2Proof.Machine

/-! ## The queue's doorbell (R359, R365, R434) -/

/-- Change a queue's counters and evaluate its watermark. -/
def modEqCounters (s : State) (key : Nat) (f : EqQueue → EqQueue) : State :=
  let q := eqq s key
  let q1 := f q
  let (w, x) := wmLevel q1.wm (eqLevel q) (eqLevel q1) q1.wmSt
  let s1 := modEq s key (fun _ => { q1 with wmSt := w })
  if x then raiseQueue s1 key QCause.eqWm else s1

def eqTailOk (q : EqQueue) (v : W32) : Bool := !backwards v q.eqTail && decide (cnt v q.eqHead ≤ 2 ^ q.k)

/-- A write of EQ_TAIL, checked as SQ_TAIL is. -/
def eqTailWrite (s : State) (key : Nat) (v : W64) : State :=
  let q := eqq s key
  let t := BitVec.ofNat 32 (field v 31 0)
  if eqTailOk q t then
    modEqCounters s key (fun q => { q with eqTail := t, fetchStopped := q.fetchStopped && q.fetchError })
  else modEq s key (fun q => { q with dbError := true })

/-- The queue's registers answer: the slice is in a partition and the queue is set up. -/
def queueLive (s : State) (sl r : Nat) : Bool := decide ((sliceE s sl).state ≠ .free) && (eqq s (pairKey sl r)).active

def eqDoorbell (s : State) (sl r : Nat) (f : State → Nat → State) : State :=
  if queueLive s sl r then f s (pairKey sl r)
  else if (sliceE s sl).state = .free then s
  else dropWrite s (sliceE s sl).part

def execEqTailWrite (sl : SliceNo) (r : PairNo) (v : W64) (s : State) : Res :=
  .next (whenServing s (eqDoorbell s sl r (fun s key => eqTailWrite s key v)))

/-- Jobs of a queue accepted and not ended. -/
def activeJobs (s : State) (sl r : Nat) : Nat := ((queueJobs s sl r).filter (fun j => decide (j.st ≠ .fetched))).length

/-- EQ_STATUS (R365). -/
def eqStatusWord (s : State) (sl r : Nat) : W64 :=
  let q := eqq s (pairKey sl r)
  BitVec.ofNat 64 (place (activeJobs s sl r % 65536) 16 + flag q.statusLost 5 + flag q.pairLost 4 + flag q.fetchError 3 +
    flag q.dbError 2 + flag (q.serve == 1) 1 + flag q.active 0)

def eqStatusClear (s : State) (key : Nat) (v : W64) : State :=
  modEq s key (fun q => { q with
    statusLost := q.statusLost && !bitOf v 5, fetchError := q.fetchError && !bitOf v 3, dbError := q.dbError && !bitOf v 2 })

/-! ## Fetch and acceptance (R360, R361) -/

def queueFault (s : State) (key : Nat) : State :=
  raiseQueue (modEq s key (fun q => { q with fetchError := true, fetchStopped := true })) key QCause.eqFault

/-- Jobs that a queue may have accepted and not ended. -/
def maxActive : Nat := 256

/-- The serving die fetches a job descriptor and translates RESULT (R360). -/
def jobFetch (s : State) (sl : SliceNo) (r : PairNo) : State :=
  let key := pairKey sl r
  let q := eqq s key
  let die := serveDie r q.serve
  let un := (queueJobs s sl r).length - activeJobs s sl r
  let c := q.eqHead + BitVec.ofNat 32 un
  if !queueLive s sl r || q.pairLost || q.fetchStopped || q.tearing || !sliceServed s sl || ioLost s die ||
    decide (eqLevel q ≤ un) || decide (maxActive ≤ activeJobs s sl r + un) then s
  else match readSlot s die sl q.base q.k c.toNat with
    | (s1, none) => queueFault s1 key
    | (s1, some bs) =>
      match ioTranslate s1 die sl (BitVec.ofNat 64 (parseDesc bs).result) 128 true with
      | (s2, .error e) => queueFault (noteFault s2 sl e) key
      | (s2, .ok _) =>
        { s2 with jobs := s2.jobs ++ [{ id := .queued sl r c, part := (sliceE s sl).part, gen := (sliceE s sl).gen, desc := bs, die := die }] }

def execEngineJobFetch (sl : SliceNo) (r : PairNo) (s : State) : Res := .next (whenServing s (jobFetch s sl r))

/-- The partner has confirmed its note, which reaches it over the pair's mirror link: EQ_HEAD passes the job, which goes to an engine of the
serving die (R16, R360, R361; LOG 128). -/
def jobAccept (s : State) (sl : SliceNo) (r : PairNo) : State :=
  let key := pairKey sl r
  match job s (.queued sl r (eqq s key).eqHead) with
  | none => s
  | some j =>
    if j.st ≠ .fetched ∨ !mirrors s r then s
    else
      let s1 := modEqCounters s key (fun q => { q with eqHead := q.eqHead + 1 })
      modJob s1 j.id (fun x => { x with st := .accepted, engine := pickEngine s1 x.die false })

def execEngineJobAccept (sl : SliceNo) (r : PairNo) (s : State) : Res := .next (whenServing s (jobAccept s sl r))

/-! ## Start, progress and end (R354, R361, R362) -/

def isInline (j : Job) : Bool := match j.id with | .inl _ => true | .queued .. => false

/-- The result area's slice. -/
def jobSlice (j : Job) : Nat := match j.id with | .queued sl _ _ => sl | .inl x => x.slice

def jobQueue (j : Job) : Option Nat := match j.id with | .queued sl r _ => some (pairKey sl r) | .inl _ => none

/-- Write a job's status word; a failed write sets STATUS_LOST of its queue (R362). -/
def writeStatus (s : State) (j : Job) (w : Nat) : State :=
  match ioWriteV s j.die (jobSlice j) (parseDesc j.desc).result (leBytes 8 w) with
  | (s1, .ok ()) => s1
  | (s1, .error _) => match jobQueue j with
    | some key => raiseQueue (modEq s1 key (fun q => { q with statusLost := true })) key QCause.eqFault
    | none => s1

/-- FENCE: every earlier job of the queue has ended (R361). -/
def jobFenceOk (s : State) (j : Job) : Bool :=
  match j.id with
  | .queued sl r i => !(parseDesc j.desc).fence || (queueJobs s sl r).all (fun k => match k.id with
      | .queued _ _ h => decide (k.st = .fetched) || decide (2 ^ 31 ≤ cnt h i) || h == i
      | .inl _ => true)
  | .inl _ => true

def jobsOn (s : State) (e : Nat) (f : Job → Bool) : Nat := (s.jobs.filter (fun j => j.engine == some e && f j)).length

/-- The engine may take the job up now: it is awake, one of its four contexts is free, and no inline job waits before a standalone one
(R354). -/
def engineFree (s : State) (j : Job) (e : Nat) : Bool :=
  decide ((eng s e).state = .active) && decide (jobsOn s e (fun k => decide (k.st = .running)) < 4) &&
  (isInline j || jobsOn s e (fun k => isInline k && decide (k.st = .accepted)) == 0)

/-- A slice reset stops the standalone jobs that have not started (R380). -/
def jobStopped (s : State) (j : Job) : Bool := !isInline j && decide ((sliceE s (jobSlice j)).state = .resetting)

/-- A job starts on its engine, which writes RUNNING (R362), and reads its key (R475). A job that has no engine
yet is given one; one for a sleeping engine starts its wake (R229). -/
def jobStart (s : State) (x : JobId) : State :=
  match job s x with
  | none => s
  | some j =>
    let eg := match j.engine with | some e => some e | none => pickEngine s j.die (isInline j)
    match eg with
    | none => s
    | some e =>
      if j.st ≠ .accepted ∨ jobStopped s j ∨ !jobFenceOk s j ∨ !engineFree s { j with engine := some e } e then
        (let s1 := if (eng s e).state = .sleep then domainPacket s e else s
         modJob s1 x (fun j => { j with engine := some e }))
      else
        let (s0, j1) := if isInline j then (s, { j with key := j.key.or (keyE s (parseDesc j.desc).key) }) else beginJob s (jobSlice j) j
        let s1 := modEng (modJob s0 x (fun _ => { j1 with st := .running, engine := some e, since := pip s })) e
          (fun g => { g with lastBusy := some (pip s) })
        promoteAll (writeStatus s1 j (statusWord 0 0 j.rerun false e 1))

def execEngineJobStart (j : JobId) (s : State) : Res := .next (whenServing s (jobStart s j))

/-- PROGRESS of a GCM decryption stays 0 until the tag has passed (R363). -/
def holdsProgress (d : Desc) : Bool := d.dec && d.cipher == 2

/-- At the end of a pip in which PROGRESS advanced, as far as the operand says: the output up to it is written, and once it has its Cmps the
status word follows (R362, R363). -/
def jobProgress (s : State) (o : ProgressObs) : State :=
  match job s (.queued o.slice o.pair o.idx) with
  | none => s
  | some j =>
    let d := parseDesc j.desc
    if j.st ≠ .running ∨ o.progress.toNat ≤ j.progress ∨ holdsProgress d then s
    else
      let (s1, r, _) := jobOutput s o.slice j
      let k := min o.progress.toNat r.progress
      let from_ := max j.prev j.progress
      if k ≤ j.progress then s
      else match ioWriteV s1 j.die o.slice (d.out + (from_ - j.prev)) ((r.out.take k).drop from_) with
        | (s2, .error _) => s2
        | (s2, .ok ()) =>
          if ioQuiet s2 j.die then
            writeStatus (modJob s2 j.id (fun j => { j with progress := k })) j (statusWord k 0 j.rerun false (j.engine.getD 0) 1)
          else s2

/-- The job's own writes have their Cmp: its result area and its final status word follow (R362). -/
def jobFinal (s : State) (x : JobId) : State :=
  match job s x with
  | none => s
  | some j => if j.st = .ended ∧ ioQuiet s j.die then finishJob s j j.result j.word else s

/-- A standalone job ends: its output, then its result area and the final status word once the output has its Cmps (R362-R364; LOG 77). -/
def jobEnd (s : State) (x : JobId) : State :=
  match x, job s x with
  | .queued .., some j =>
    if j.st = .ended then jobFinal s x
    else if j.st ≠ .running then s
    else
      let e := j.engine.getD 0
      let (s1, o, token, iv) := runStandalone s (jobSlice j) j
      let s2 := modEng s1 e (fun g => { g with bytesIn := g.bytesIn + o.consumed, errors := g.errors + (if o.state = 4 then 1 else 0) })
      jobFinal (modJob s2 x (fun j => { j with
        st := .ended, result := resultParts o token iv, word := statusWord o.progress o.error j.rerun (token != 0) e o.state })) x
  | _, _ => s

def execEngineJobEnd (j : JobId) (s : State) : Res := .next (whenServing s (jobEnd s j))

/-- A failed self-check reports ENG_FAULT; the job starts again from its beginning on another engine of the die (R356). -/
def selfCheckFail (s : State) (x : JobId) (stage : Nat) : State :=
  match job s x with
  | none => s
  | some j =>
    match j.engine with
    | none => s
    | some e =>
      if j.st ≠ .running then s
      else
        let s1 := report s (Pt.engFault e) stage
        let others := (List.range 8).map (fun i => 8 * j.die + i) |>.filter (fun g => g != e &&
          decide ((eng s1 g).state ≠ .fenced ∧ (eng s1 g).state ≠ .unpowered) && (isInline j || !(eng s1 g).inlineOnly))
        let pick := others.foldl (fun (b : Option Nat) g => match b with
          | none => some g
          | some y => if queuedBytes s1 g < queuedBytes s1 y then some g else some y) none
        modJob s1 x (fun j => { j with st := .accepted, rerun := true, engine := pick, progress := 0 })

def execEngineSelfCheckFail (j : JobId) (stage : Fin 3) (s : State) : Res := .next (whenServing s (selfCheckFail s j stage))

/-- An engine that goes behind a hull: its jobs start again elsewhere on its die (R233, R356). -/
def fenceEngine (s : State) (e : Nat) : State :=
  let s1 := modEng s e (fun g => { g with state := .fenced })
  { s1 with jobs := s1.jobs.map (fun j =>
      if j.engine = some e ∧ j.st ≠ .ended then { j with st := .accepted, rerun := true, engine := none, progress := 0 } else j) }

/-! ## ENG_STATUS (R384) -/

def engCode (x : EngState) : Nat := match x with | .active => 0 | .sleep => 1 | .waking => 2 | .fenced => 3 | .unpowered => 4

/-- A job ran on the engine in one of the last 1,000 pips, the present one among them. -/
def busyLately (s : State) (e : Nat) : Bool :=
  match (eng s e).lastBusy with | some k => decide (pip s < k + 1000) | none => false

/-- BUSY_PCT: 0 for an engine without a job in the last 1,000 pips; how long its jobs took is open (R353 bounds it only, LOG 53). -/
def busyPct (s : State) (e : Nat) : Nat := if busyLately s e then (Config.engineBusy (pip s) e).toNat % 101 else 0

/-- At a pip edge: every engine with a running job is busy (R384). -/
def markBusy (s : State) : State :=
  forEach s ((s.jobs.filter (fun j => decide (j.st = .running))).filterMap (·.engine)) (fun s e =>
    modEng s e (fun g => { g with lastBusy := some (pip s) }))

def engStatusWord (s : State) (e : Nat) : W64 :=
  let g := eng s e
  BitVec.ofNat 64 (place (sat 24 (g.bytesIn / 2 ^ 20)) 40 + place (sat 8 g.errors) 32 +
    place (sat 8 (jobsOn s e (fun j => isInline j && decide (j.st = .accepted)))) 24 +
    place (sat 8 (jobsOn s e (fun j => !isInline j && decide (j.st = .accepted)))) 16 + place (busyPct s e) 8 +
    flag g.inlineOnly 3 + engCode g.state)

/-- ENGQ_ABORT: every accepted job of the queue that has not ended ends ABORTED, and fetch stops until the next EQ_TAIL write (R382). -/
def abortQueue (s : State) (sl r : Nat) : State :=
  let js := queueJobs s sl r
  let s1 := { s with jobs := s.jobs.filter (fun j => !(js.any (fun k => decide (k.id = j.id)) && decide (j.st = .fetched))) }
  let s2 := (js.filter (fun j => decide (j.st = .accepted ∨ j.st = .running))).foldl abortJob s1
  modEq s2 (pairKey sl r) (fun q => { q with eqTail := q.eqHead, fetchStopped := true })

end Sys2Proof.Machine
end

