-- ==== Sys2Proof/Machine/Classes.lean ====
section
/-! DEFINITION. The fault classes: the class of each point (R438, R440) and the Noryth default table (R444). -/

namespace Sys2Proof.Machine

structure ClassRow where
  wholeClass : Bool
  n : Nat
  w : Nat
  action : Nat
  locked : Bool
deriving DecidableEq, Repr

namespace Action
def log : Nat := 0
def husk : Nat := 2
def isolate : Nat := 3
def fenceDie : Nat := 4
def holderFail : Nat := 5
def safe : Nat := 6
end Action

/-- First point of each class, in order of the points (R438, R444). -/
def classStarts : List (Nat × Nat) :=
  [(0, 0), (208, 1), (416, 2), (480, 3), (608, 4), (672, 5), (736, 6), (800, 7), (808, 8), (816, 9), (824, 10)] ++
  [(832, 11), (840, 12), (848, 13), (852, 14), (868, 15), (874, 16), (880, 17), (882, 18), (914, 19), (1426, 20)] ++
  [(1430, 21), (1434, 22), (1440, 23), (1504, 24), (1824, 25), (1825, 26), (1826, 27), (1828, 28), (1829, 29)] ++
  [(1830, 30), (1831, 31), (1833, 32), (1834, 33), (1835, 34), (1836, 35), (1837, 36)]

/-- The class of a point: that of the last start at or below it. -/
def classOf (pt : Nat) : Nat := (classStarts.foldl (fun acc x => if x.1 ≤ pt then x.2 else acc) 0)

def logOne : ClassRow := { wholeClass := false, n := 1, w := 1, action := Action.log, locked := false }

/-- The Noryth default table; classes 37-255 are reserved. -/
def classRow (c : Nat) : Option ClassRow :=
  match c with
  | 0 => some { logOne with n := 2, w := 100000, action := Action.husk }
  | 1 => some { logOne with action := Action.husk }
  | 4 => some { logOne with n := 2, w := 1000000, action := Action.isolate }
  | 6 | 7 => some { logOne with n := 255, w := 1000000 }
  | 8 => some { logOne with n := 4, w := 1000000, action := Action.isolate }
  | 9 => some { logOne with n := 16, w := 1000000 }
  | 12 => some { logOne with action := Action.isolate }
  | 15 => some { logOne with action := Action.isolate, locked := true }
  | 16 => some { logOne with wholeClass := true, n := 8, w := 1000 }
  | 18 => some { logOne with n := 2, w := 1000000, action := Action.isolate }
  | 22 | 23 => some { logOne with action := Action.fenceDie, locked := true }
  | 24 => some { logOne with n := 3, w := 1000 }
  | 26 => some { wholeClass := true, n := 3, w := 1000, action := Action.holderFail, locked := true }
  | 30 | 31 => some { logOne with action := Action.safe, locked := true }
  | _ => if c < 37 then some logOne else none

/-- Values that R445 lets a class take. -/
def classValueOk (n w : Nat) : Bool := decide (1 ≤ n ∧ n ≤ 255 ∧ 1 ≤ w ∧ w ≤ 1048576)

/-- A class that CLASS_SET and FAULT_CLASSES may name. -/
def classSettable (c : Nat) : Bool := match classRow c with | some r => !r.locked | none => false

/-- N and W in force: CLASS_SET's, else the image's, else the default (R445). -/
def classCfg (s : State) (c : Nat) : ClassCfg :=
  match tfind s.faults.classes c with
  | some x => x
  | none => match classRow c with
    | some r => { n := r.n, w := r.w }
    | none => { n := 1, w := 1 }

/-- At least one class differs from the default table (R453). -/
def expertClasses (s : State) : Bool :=
  s.faults.classes.any (fun e => match classRow e.1 with | some r => decide (e.2.n ≠ r.n ∨ e.2.w ≠ r.w) | none => false)

/-! ## Registers of the collector (R453) -/

def fcStatusWord (s : State) : W64 :=
  let f := s.faults
  BitVec.ofNat 64 (place f.head.toNat 32 + place (sat 16 f.overflow) 16 + place (sat 8 f.waiting.length) 8 +
    flag (expertClasses s) 1 + flag f.selfOk 0)

/-- SAFE_CAUSE for a cause forced now; the first since standby power came up stays. -/
def setSafeCause (s : State) (cause point : Nat) : State :=
  if field s.faults.safeCause 23 16 = 0 then
    modFaults s (fun f => { f with
      safeCause := BitVec.ofNat 64 (place (pip s % 2 ^ 32) 32 + place cause 16 + point) })
  else s

/-- A history entry as HISTORY_READ gives it (R448). -/
def historyBytes (e : FEvent) : List Byte :=
  leBytes 8 e.stamp.toNat ++ leBytes 2 (e.point + place (min e.rep 31) 11) ++ leBytes 2 e.detail.toNat

end Sys2Proof.Machine
end

