-- ==== Sys2Proof/Machine/Entries.lean ====
section
/-! DEFINITION. The configuration entries (R467): lengths, ranges, defaults and which of them change at run time. -/

namespace Sys2Proof.Machine

/-- Length of an entry's value; none for a number outside the table of R467. -/
def entryLen (n : Nat) : Option Nat :=
  if 0x100 ≤ n ∧ n < 0x140 then some 1
  else if n = 0x200 ∨ n = 0x201 ∨ n = 0x202 then some 1
  else if 0x210 ≤ n ∧ n < 0x218 then some 1
  else if 0x220 ≤ n ∧ n < 0x228 then some 1
  else if 0x300 ≤ n ∧ n < 0x310 then some 26
  else if 0x400 ≤ n ∧ n < 0x500 then some 16
  else if n = 0x500 then some 2
  else if 0x510 ≤ n ∧ n < 0x520 then some 2
  else if 0x600 ≤ n ∧ n < 0x680 then some 1
  else if 0x680 ≤ n ∧ n < 0x700 then some 2
  else if 0x700 ≤ n ∧ n < 0x800 then some 5
  else if 0x800 ≤ n ∧ n < 0x810 then some 2
  else none

/-- The value of an entry is in its range. Ranges of a partition are checked with the memory map (R331), classes by R444 and R445. -/
def entryInRange (n : Nat) (bs : List Byte) : Bool :=
  let v := ofLE bs
  if 0x100 ≤ n ∧ n < 0x140 then decide (v ≤ 1)
  else if n = 0x200 then decide (v ≤ 2)
  else if n = 0x201 then decide (v ≤ 1)
  else if n = 0x202 then decide (1 ≤ v)
  else if n < 0x218 then decide (v ≤ 8)
  else if n < 0x228 then decide (v ≤ 1)
  else if n < 0x310 then decide (leAt bs 16 1 ≤ 1 ∧ leAt bs 17 1 ≤ 1)
  else if n < 0x500 then decide (leAt bs 0 8 % 0x200000 = 0 ∧ leAt bs 8 8 % 0x200000 = 0)
  else if n = 0x500 then decide (0x600 ≤ v)
  else if n < 0x520 then decide (v ≤ 1024)
  else if n < 0x680 then decide (v ≤ 15)
  else if n < 0x700 then true
  else if n < 0x800 then classSettable (n - 0x700) && classValueOk (leAt bs 0 1) (leAt bs 1 4)
  else decide (leAt bs 0 1 = 1 ∨ leAt bs 0 1 = 2)

/-- Entries that CONFIG_WRITE may change (R467, R468). -/
def runTimeEntry (n : Nat) : Bool := n == 0x202 || (decide (0x680 ≤ n) && decide (n < 0x700))

/-- The bus addresses that are privileged: the image's sender table, or 0x08 on both buses (R398, R466) (LOG 87). -/
def senderTable (s : State) : List (Nat × Nat) :=
  let l := (List.range 16).filterMap (fun i => (cfg s (0x800 + i)).map (fun b => (leAt b 0 1, leAt b 1 1)))
  if l.isEmpty then [(1, 8), (2, 8)] else l

/-- Value in force of an entry that the image does not give. -/
def entryDefault (s : State) (n len : Nat) : List Byte :=
  if n = 0x202 then leBytes 1 24
  else if 0x210 ≤ n ∧ n < 0x218 then leBytes 1 8
  else if 0x220 ≤ n ∧ n < 0x228 then leBytes 1 (cxlHome s (n - 0x220))
  else if n = 0x500 then leBytes 2 0x88B5
  else if 0x510 ≤ n ∧ n < 0x520 then leBytes 2 64
  else if 0x600 ≤ n ∧ n < 0x680 then leBytes 1 ((n - 0x600) / 8)
  else if 0x680 ≤ n ∧ n < 0x700 then leBytes 2 (mbxSenders s (n - 0x680))
  else if 0x700 ≤ n ∧ n < 0x800 then
    (match classRow (n - 0x700) with | some r => leBytes 1 r.n ++ leBytes 4 r.w | none => leBytes 5 0)
  else leBytes len 0

/-- CONFIG_READ: the value in force (R468). -/
def entryValue (s : State) (n : Nat) : Option (List Byte) :=
  match entryLen n with
  | none => none
  | some len =>
    some (if 0x700 ≤ n ∧ n < 0x800 ∧ (classRow (n - 0x700)).isSome then
        (let c := classCfg s (n - 0x700); leBytes 1 c.n ++ leBytes 4 c.w)
      else if 0x210 ≤ n ∧ n < 0x218 then leBytes 1 (stack s (n - 0x210)).weight
      else match cfg s n with
        | some b => b
        | none => entryDefault s n len)

end Sys2Proof.Machine
end

