-- ==== Sys2Proof/Machine/Trio.lean ====
section
/-! DEFINITION. Trios, voting, retry, checkstop, rebuilds, spares and split cores (R133-R158). -/

namespace Sys2Proof.Machine

/-! ## Members, cores and the pool -/

def member (t : Trio) (p : Nat) : Member := match p with | 0 => t.a | 1 => t.b | _ => t.c

def modMember (t : Trio) (p : Nat) (f : Member → Member) : Trio :=
  match p with
  | 0 => { t with a := f t.a }
  | 1 => { t with b := f t.b }
  | _ => { t with c := f t.c }

/-- Positions in lockstep. -/
def lockstepSet (t : Trio) : List Nat := (List.range 3).filter (fun p => (member t p).lockstep)

def coreStat (s : State) (n : Nat) : CoreStat := tget .absent s.cores n
def setCore (s : State) (n : Nat) (x : CoreStat) : State := { s with cores := tset s.cores n x }

/-! ## Core clocks (R37, R38) -/

/-- The selector of a physical core: at the boot the three cores of a trio take its domain, a dedicated spare its own. -/
def coreClk (s : State) (k : Nat) : CoreClk := (tfind s.clocks.sel k).getD { dom := if k < 192 then some (k / 3) else none }

def setClk (s : State) (k : Nat) (x : CoreClk) : State := { s with clocks := { s.clocks with sel := tset s.clocks.sel k x } }

/-- A core is powered down, or held in retention, with its clock stopped (R151, R153). -/
def stopClk (s : State) (k : Nat) : State := setClk s k { coreClk s k with on := false }

/-- Frequency of the own domain of a dedicated spare, in MHz. -/
def spareClk (s : State) (i : Nat) : Nat := tget 1200 s.clocks.spare i

/-- Frequency at which a physical core runs, in MHz. -/
def coreMhz (s : State) (k : Nat) : Nat :=
  let x := coreClk s k
  if x.on then (match x.dom with | some n => (trio s n).clk | none => spareClk s (k - 192)) else 0

/-- Step 2 of an integration: a dedicated spare is powered up in its own domain; a split-pool spare has none and its clock stays
stopped (R38, R146). -/
def powerSpare (s : State) (k : Nat) : State := if 192 ≤ k then setClk s k {} else stopClk s k

/-- Step 3, all but its last pip: the own domain of a dedicated spare is stepped to the frequency of the trio. -/
def tuneSpare (s : State) (k n : Nat) : State :=
  if 192 ≤ k then { s with clocks := { s.clocks with spare := tset s.clocks.spare (k - 192) (trio s n).clk } } else s

/-- The end of step 3: the selector takes the trio's domain, and a stopped clock is started. -/
def joinClk (s : State) (k n : Nat) : State := setClk s k { dom := some n, on := true }

def coreOf (t : Trio) (p : Nat) : Option Nat := match (member t p).core with | .core n => some n | _ => none

/-- Half of a physical core (R15, R133). -/
def coreHalf (n : Nat) : Nat := if 192 ≤ n then (n - 192) / 8 else n / 96

/-- SPARE number of a physical core in a pool (R151). -/
def spareNo (n : Nat) : Nat := if 192 ≤ n then n - 192 else 16 + n / 3

def coreOfSpare (i : Nat) : Nat := if i < 16 then 192 + i else 3 * (i - 16) + 2

/-- The healthy spares of a half, by SPARE number (R151). -/
def poolOf (s : State) (h : Nat) : List Nat :=
  (List.range 80).filter (fun i => coreHalf (coreOfSpare i) == h && decide (coreStat s (coreOfSpare i) = .pool))

/-! ## The mesh (R216) -/

/-- A stop of half `h` at column x and row y of the table for H0: H1 has every x replaced by 7 - x. -/
def stopIn (h : Nat) (p : Nat × Nat) : Nat × Nat := if h = 1 then (7 - p.1, p.2) else p

/-- Stop number 8y + x. -/
def stopNo (p : Nat × Nat) : Nat := 8 * p.2 + p.1

/-- Stop of the L2 of TRIO[n]. -/
def trioStop (n : Nat) : Nat × Nat := let k := n % 32; let y := k / 4; stopIn (n / 32) (2 * (k % 4) + y % 2, y)

/-- Stop of an L3 slice, 32h + s, with its directory home. -/
def l3Stop (sl : Nat) : Nat × Nat := let k := sl % 32; let y := k / 4; stopIn (sl / 32) (2 * (k % 4) + 1 - y % 2, y)

/-- Stop of a spare; a split-pool spare sits at its own trio. -/
def spareStop (i : Nat) : Nat × Nat :=
  if i < 16 then stopIn (i / 8) (let k := i % 8; if k < 4 then (2 * k, 3) else (2 * (k - 4) + 1, 4)) else trioStop (i - 16)

/-- The edges of a mesh. -/
inductive Edge where
  | north | south | east | west
deriving DecidableEq, Repr

/-- East and west of the table for H0 in half `h`. -/
def edgeIn (h : Nat) (e : Edge) : Edge :=
  match e with
  | .east => if h = 1 then .west else .east
  | .west => if h = 1 then .east else .west
  | x => x

/-- Edge ports of the HBM controller of a stack. -/
def hbmPorts (j : Nat) : List (Edge × Nat × Nat) :=
  let q := j % 4
  (List.range 4).map (fun i => (if q < 2 then .north else .south, stopIn (j / 4) (4 * (q % 2) + i, if q < 2 then 0 else 7)))

/-- Edge port of half-to-half link `i` in half `h`. -/
def d2dPort (h i : Nat) : Edge × Nat × Nat := (edgeIn h .east, stopIn h (7, [1, 3, 4, 6].getD i 0))

/-- Edge port of link `e` of IO[d] in half `h`. -/
def ioPort (h d e : Nat) : Edge × Nat × Nat := (edgeIn h .west, stopIn h (0, 2 * d + e))

/-- Edge port of the management link. -/
def managementPort (h : Nat) : Edge × Nat × Nat := (edgeIn h .east, stopIn h (7, 0))

def hops (a b : Nat × Nat) : Nat := ((a.1 : Int) - b.1).natAbs + ((a.2 : Int) - b.2).natAbs

/-- Temperature of a sensor in the snapshot, in eighths of a degree (LOG 8). -/
def sensorAt (s : State) (i : Nat) : Int := tget 200 s.power.sensors i

/-- The first spare of a list with the least measure; ties go to the lower number (R152). -/
def leastBy (f : Nat → Int) (l : List Nat) : Option Nat :=
  l.foldl (fun best i => match best with | none => some i | some j => if f i < f j then some i else some j) none

/-- The spare that SPARE_POLICY selects for a trio (R152). -/
def selectSpare (s : State) (n : Nat) : Option Nat :=
  let pool := poolOf s (n / 32)
  (match sparePolicy s with
   | 1 => leastBy (fun i => (hops (spareStop i) (trioStop n) : Nat)) pool
   | 2 => leastBy (fun i => sensorAt s (coreOfSpare i)) pool
   | _ => pool.head?).map coreOfSpare

/-- The trio and position of a physical core. -/
def findCore (s : State) (n : Nat) : Option (Nat × Nat) :=
  s.trios.findSome? (fun e => ((List.range 3).find? (fun p => coreOf e.2 p == some n)).map (fun p => (e.1, p)))

/-- The partition that owns LCORE[2n] of a trio; a notice of the trio goes there. -/
def trioNotice (s : State) (n cause : Nat) : State :=
  match partOf s (2 * n) with
  | some p => notice s p cause n
  | none => s

/-- Retire the core at a position (R145, R153). -/
def retireAt (s : State) (n p : Nat) : State :=
  let s1 := match coreOf (trio s n) p with
    | some k => l1Clear (stopClk (setCore s k .retired) k) k
    | none => s
  modTrio s1 n (fun t => modMember t p (fun _ => {}))

def newRebuild (s : State) (p : Nat) (integrate : Bool) (pip0 : Nat) : Rebuild :=
  { pos := p, integrate := integrate, pip0 := pip0, stamp0 := stampNat s }

/-- Replace the rebuild of a position. -/
def setRebuild (t : Trio) (r : Rebuild) : Trio :=
  { t with rebuilds := t.rebuilds.filter (fun x => x.pos != r.pos) ++ [r] }

def dropRebuild (t : Trio) (p : Nat) : Trio := { t with rebuilds := t.rebuilds.filter (fun x => x.pos != p) }

/-- Retire a position's core and start the integration of a spare there, with pip 0 in pip `k` (R145, R150). -/
def integrateAt (s : State) (n p k : Nat) : State :=
  let s1 := retireAt s n p
  modTrio s1 n (fun t => { setRebuild t (newRebuild s p true k) with state := if t.state = .split then .split else .integrate })

/-! ## Dissent (R136, R145, R150, R161) -/

def dissentDetail (p lane : Nat) (parity : Bool) : Nat := p + 4 * lane + (if parity then 16 else 0)

/-- A member of a 2-of-3 trio dissents: it is outvoted and fenced, and its resync, or within 1,000 pips of its last lockstep
entry the integration of a spare, begins (R136, R145, R150). -/
def dissent (s : State) (n p lane : Nat) (parity : Bool) : State :=
  let t := trio s n
  let m := member t p
  match coreOf t p with
  | none => s
  | some k =>
    let s1 := report s (Pt.coreDissent k) (dissentDetail p lane parity)
    let s2 := modTrio s1 n (fun t =>
      { modMember t p (fun m => { m with lockstep := false }) with dissentCount := t.dissentCount + 1 })
    let soon := match m.entryPip with | some e => decide (pip s ≤ e + 1000) | none => false
    let s3 :=
      if soon then integrateAt s2 n p (pip s)
      else modTrio s2 n (fun t => { setRebuild t (newRebuild s p false (pip s)) with state := .resync })
    trioNotice s3 n Notice.trioDegraded

def execVoterDissent (t : TrioNo) (p : Pos) (lane : Fin 4) (s : State) : Res :=
  .next (if (trio s t).state = .voted ∧ lockstepSet (trio s t) = [0, 1, 2] ∧ timeRuns s then dissent s t p lane false else s)

/-! ## No majority and checkstop (R140-R142) -/

def pendMc (s : State) (c cause : Nat) : State :=
  modLCore s c (fun l => { l with
    mcCause := cause
    sets := l.sets.map (fun e => (e.1, if e.2.tstat.state = .empty then e.2 else modTstat e.2 (fun x => { x with mcpend := true }))) })

/-- What becomes of a rebuild that a checkstop abandons: a member under resync is retired, a spare returns to the pool (R150). -/
def abandonRebuild (s : State) (n : Nat) (r : Rebuild) : State :=
  if r.integrate then
    let s1 := match r.spare with
      | some k => stopClk (setCore s k .pool) k
      | none => s
    modTrio s1 n (fun t => modMember t r.pos (fun _ => {}))
  else retireAt s n r.pos

/-- The instruction in progress is given up: a checkstop or a machine check finds no access waiting (R142, R143), and what its request
still draws is for the L2 alone. An access in the replay buffer stays (R139). -/
def abandonWait (s : State) (c : Nat) : State :=
  let own := fun (o : OutReq) => if o.agent == c && answerKind o.r != 2 then { o with core := false } else o
  let placed := (lcore s c).replay.any (fun r => r.amo.isSome)
  modCoh (modLCore s c (fun l => { l with wait := none, reply := none })) (fun x =>
    if placed then x else { x with out := x.out.map own, held := x.held.map own })

/-- Pip 0 of a trio checkstop (R142). -/
def checkstop (s : State) (n : Nat) : State :=
  let t := trio s n
  let busy := !t.rebuilds.isEmpty
  let s1 := report s (Pt.trioCheckstop n) (1 + (if busy then 8 else 0))
  let s2 := t.rebuilds.foldl (fun s r => abandonRebuild s n r) s1
  let s3 := modTrio s2 n (fun x => { x with
    state := .checkstop, ckPip0 := some (pip s), ckMembers := lockstepSet t, ckFailed := [], ckLastPip := pip s
    agreeAB := true, agreeBC := true, agreeAC := true, rebuilds := [], ckCount := x.ckCount + 1, retryAt := none
    a := { x.a with lockstep := false }, b := { x.b with lockstep := false }, c := { x.c with lockstep := false } })
  pendMc (abandonWait s3 (2 * n)) (2 * n) 1

/-- No majority: rollback and one retry, or checkstop when the retire point has not advanced since the last rollback; a rebuild's
step in progress is repeated (R140, R141, R150). -/
def noMajority (s : State) (n : Nat) : State :=
  let t := trio s n
  let r := (lcore s (2 * n)).retired
  if t.retryAt = some r then checkstop s n
  else modTrio s n (fun t => { t with
    retryAt := some r, retryCount := t.retryCount + 1
    rebuilds := t.rebuilds.map (fun x => if x.started.isSome then { x with repeatStep := true } else x) })

/-- A voted trio executes behind its voter. -/
def votes (t : Trio) : Bool :=
  match t.state with
  | .voted | .resync | .integrate | .duplex => true
  | _ => false

def execVoterNoMajority (t : TrioNo) (s : State) : Res :=
  .next (if votes (trio s t) ∧ timeRuns s then noMajority s t else s)

/-! ## Split cores (R155) -/

/-- A detected error in a split core: rollback once at a checkpoint, then core checkstop (R155). -/
def splitError (s : State) (c : Nat) : State :=
  let l := lcore s c
  let n := trioOf c
  if l.failed || l.ckPip0.isSome then s
  else if l.splitRetryAt = some l.retired then
    let s1 := report s (Pt.trioCheckstop n) (2 + 4 * (c % 2))
    let s2 := modTrio s1 n (fun t => { t with ckCount := t.ckCount + 1 })
    pendMc (modLCore (abandonWait s2 c) c (fun l => { l with ckPip0 := some (pip s), splitRetryAt := none })) c 2
  else modTrio (modLCore s c (fun l => { l with splitRetryAt := some l.retired })) n (fun t => { t with retryCount := t.retryCount + 1 })

def execSplitCoreError (c : LC) (s : State) : Res :=
  .next (if (trio s (trioOf c)).state = .split ∧ timeRuns s then splitError s c else s)

/-- A parity error in a member's L1 forces its outputs unequal on every lane: it dissents, or a 2-of-2 trio finds no majority; in a
split core it is a detected error (R161). -/
def execL1ParityError (core : CoreNo) (s : State) : Res :=
  .next (
    match findCore s core with
    | none => s
    | some (n, p) =>
      let t := trio s n
      if !timeRuns s then s
      else if t.state = .split then splitError s (2 * n + p)
      else if !votes t || !(member t p).lockstep then s
      else if lockstepSet t = [0, 1, 2] then dissent s n p 0 true
      else noMajority s n)

/-! ## Checkstop recovery (R142, R143) -/

/-- An array check failure, by occasion (R516). -/
def arrayReport (s : State) (core arr occasion : Nat) : State := report s (Pt.coreArray core) (arr % 16 + 16 * occasion)

def ckFail (s : State) (n p : Nat) (f : Option (BitVec 4)) : State :=
  let t := trio s n
  match f, coreOf t p with
  | some arr, some k =>
    if t.ckMembers.contains p && !t.ckFailed.contains p then
      let s1 := arrayReport s k arr.toNat 1
      modTrio (retireAt s1 n p) n (fun t => { t with ckFailed := p :: t.ckFailed })
    else s
  | _, _ => s

/-- One pip of checkstop recovery: the flush of pip 1, the array checks of pips 2-5, the comparison of shadows in pips 6-21. -/
def execCheckstopRecoveryPip (t : TrioNo) (o : CheckObs) (s : State) : Res :=
  .next (whenServing s (
    let x := trio s t
    match x.ckPip0 with
    | none => s
    | some k0 =>
      if x.state ≠ .checkstop ∨ pip s ≤ x.ckLastPip then s
      else
        let k := pip s - k0
        let s1 := modTrio s t (fun x => { x with ckLastPip := pip s })
        if k = 1 then ((List.range 3).filterMap (coreOf x)).foldl l1Clear s1
        else if 2 ≤ k ∧ k ≤ 5 then ckFail (ckFail (ckFail s1 t 0 o.failA) t 1 o.failB) t 2 o.failC
        else if 6 ≤ k ∧ k ≤ 21 then
          modTrio s1 t (fun x => { x with
            agreeAB := x.agreeAB && o.agreeAB, agreeBC := x.agreeBC && o.agreeBC, agreeAC := x.agreeAC && o.agreeAC })
        else s1))

/-- Whether the shadows of two positions agree. -/
def shadowsAgree (t : Trio) (p q : Nat) : Bool :=
  match p, q with
  | 0, 1 => t.agreeAB
  | 1, 2 => t.agreeBC
  | 0, 2 => t.agreeAC
  | _, _ => false

/-- The pairs of members that passed the array check and agree. -/
def agreeing (t : Trio) : List (Nat × Nat) :=
  let passed := t.ckMembers.filter (fun p => !t.ckFailed.contains p)
  [(0, 1), (0, 2), (1, 2)].filter (fun q => passed.contains q.1 && passed.contains q.2 && shadowsAgree t q.1 q.2)

/-- The logical core becomes FAILED: LCORE_LOST to the owner on its other logical cores, or the husk stops the partition (R144). -/
def loseLCore (s : State) (c : Nat) : State :=
  let s1 := modLCore s c (fun l => { l with failed := true, ckPip0 := none })
  match partOf s c with
  | none => s1
  | some p =>
    let others := (List.range 128).any (fun d => d != c && (part s1 p).lcores.getLsbD d && !(lcore s1 d).failed)
    if others then notice s1 p Notice.lcoreLost c else modPart s1 p (fun e => { e with stopWanted := true })

/-- What a response in the replay buffer raises: ISOLATED_ACCESS, or the trap of a failed atomic, at the instruction (R181, R234). -/
def replayTrap (r : Replay) : Option TrapRec :=
  ((if r.isolated then some { no := Trap.isolated } else if r.amo.isSome then amoTrap r.status else none) : Option TrapRec).map
    (fun t => { t with info := ea r.va })

/-- Deliver the replay buffer at resumption, before any trap entry (R139). -/
def deliverReplay (s : State) (c : Nat) : State :=
  match (lcore s c).replay with
  | some r =>
    if r.arrived then
      let s1 := modLCore s c (fun l => { l with replay := none })
      match replayTrap r with
      | some t => raiseTrap (modSet s1 c r.set (fun x => setPc x r.pc)) c .long t
      | none => modSet s1 c r.set (fun t =>
        match r.vec with
        | some x => vwrite t r.rd x
        | none => gwrite t r.rd r.value)
    else s
  | none => s

/-- The RUNNING set enters the MACHINE_CHECK that is pending, unless INTRAP is set; a response of a device window or of a home that is
still out is delivered before any trap entry, and the entry follows it (R132, R139). -/
def enterMc (s : State) (c : Nat) : State :=
  if (lcore s c).replay.isNone && (curSet s c).tstat.mcpend && decide ((curSet s c).tstat.state = .running) then
    enterPending s c false
  else s

/-- A logical core resumes: its L1 arrays are invalid, the replay buffer is delivered, and the RUNNING set enters MACHINE_CHECK
(R132, R139, R143, R162). -/
def resumeCore (s : State) (c : Nat) : State := enterMc (deliverReplay (l1Invalidate s c true) c) c

/-- The position whose retirement is deferred. -/
def deferredAt (t : Trio) : Option Nat := (List.range 3).find? (fun q => (member t q).deferred)

/-- The resume step of pip 22 (R143). A retirement that a severe class called for meanwhile is made once three members run, or in
place of the resync of the third (R145). TRIO_DEGRADED is raised where three members took part, not again for a trio that was degraded
before (LOG 118). -/
def execCheckstopResume (t : TrioNo) (s : State) : Res :=
  .next (whenServing s (
    let x := trio s t
    match x.ckPip0 with
    | none => s
    | some k0 =>
      if x.state ≠ .checkstop ∨ pip s < k0 + 22 then s
      else
        let clear := fun (y : Trio) => { y with ckPip0 := none, ckMembers := [], ckFailed := [] }
        let lock := fun (y : Trio) (ps : List Nat) => ps.foldl (fun y p => modMember y p (fun m => { m with lockstep := true })) y
        match agreeing x with
        | [_, _, _] =>
          let s1 := modTrio s t (fun y => { lock (clear y) [0, 1, 2] with state := .voted })
          let s2 := match deferredAt (trio s1 t) with
            | some q => trioNotice (integrateAt s1 t q (pip s)) t Notice.trioDegraded
            | none => s1
          resumeCore s2 (2 * t.val)
        | [(p, q)] =>
          let r := 3 - p - q
          let resync := x.ckMembers.contains r && !x.ckFailed.contains r && !(member x r).deferred
          let s1 := modTrio s t (fun y => { lock (clear y) [p, q] with state := if resync then .resync else .integrate })
          let s2 := modTrio (if resync then s1 else retireAt s1 t r) t (fun y => setRebuild y (newRebuild s r (!resync) (pip s)))
          let s3 := if x.ckMembers.length = 3 then trioNotice s2 t Notice.trioDegraded else s2
          resumeCore s3 (2 * t.val)
        | _ => loseLCore (modTrio s t (fun y => { clear y with state := .failed })) (2 * t.val)))

/-- Pip 1 of a split core's checkstop: the core is flushed and its L1 arrays are invalidated (R155). -/
def splitFence (s : State) : State :=
  s.lcores.foldl (fun s e => if e.2.ckPip0.any (fun k => k + 1 == pip s) then l1Invalidate s e.1 true else s) s

/-- The test of a split core's arrays ends, in pip 6 or, with a failure, from pip 5 on (R155). -/
def execSplitCoreResume (c : LC) (arrayFail : Option (BitVec 4)) (shadowOk : Bool) (s : State) : Res :=
  .next (whenServing s (
    let l := lcore s c
    let n := trioOf c
    let p := c.val % 2
    match l.ckPip0 with
    | none => s
    | some k0 =>
      if (trio s n).state ≠ .split ∨ (trio s n).rebuilds.any (fun r => r.pos == p) then s
      else match arrayFail with
        | none =>
          if pip s < k0 + 6 then s else resumeCore (modLCore s c (fun l => { l with ckPip0 := none })) c
        | some arr =>
          if pip s < k0 + 5 then s
          else
            let s1 := match coreOf (trio s n) p with
              | some k => arrayReport s k arr.toNat 3
              | none => s
            if shadowOk then modLCore (integrateAt s1 n p (k0 + 5)) c (fun l => { l with mcCause := 3 })
            else
              let s2 := modTrio (retireAt s1 n p) n (fun t => modMember t p (fun m => { m with core := .lost }))
              loseLCore s2 c))

/-! ## Rebuild steps (R146-R150) -/

/-- Pips of the step table, and the step of R146 in pip `d` of it. -/
def rebuildPips (r : Rebuild) : Nat := if r.integrate then 31 else 23

def stepOf (integrate : Bool) (d : Nat) : Nat :=
  if integrate then
    if d = 0 then 0 else if d = 1 then 1 else if d ≤ 6 then 2 else if d ≤ 9 then 3 else if d ≤ 13 then 4
    else if d ≤ 29 then 5 else if d = 30 then 6 else 7
  else
    if d = 0 then 0 else if d = 1 then 1 else if d ≤ 5 then 4 else if d ≤ 21 then 5 else if d = 22 then 6 else 7

def putRebuild (s : State) (n : Nat) (r : Rebuild) : State := modTrio s n (fun t => setRebuild t r)

/-- The pool is empty: a voted trio stays 2-of-2 as DUPLEX until the next boot; a split core has no spare and is lost (R150, R155). -/
def poolEmpty (s : State) (n p : Nat) : State :=
  let s1 := modTrio s n (fun t => dropRebuild t p)
  if (trio s n).state = .split then
    loseLCore (modTrio s1 n (fun t => modMember t p (fun m => { m with core := .lost }))) (2 * n + p)
  else settle (modTrio s1 n (fun t => { t with
    state := .duplex, duplexed := true
    a := { t.a with deferred := false }, b := { t.b with deferred := false }, c := { t.c with deferred := false } }))

/-- Step 1: the member's L1 arrays are invalidated, or the spare is selected (R146, R152). -/
def rebuildStep1 (s : State) (n : Nat) (r : Rebuild) : State :=
  if r.integrate then
    match r.spare with
    | some _ => putRebuild s n r
    | none => match selectSpare s n with
      | some k =>
        let s1 := modTrio (l1Clear (stopClk (setCore s k .assigned) k) k) n (fun t => modMember t r.pos (fun _ => { core := .core k }))
        putRebuild s1 n { r with spare := some k }
      | none => poolEmpty s n r.pos
  else
    putRebuild (match coreOf (trio s n) r.pos with | some k => l1Clear s k | none => s) n r

/-- Step 7: lockstep entry with its L1 arrays invalid, or the retirement that more than 16 mismatched words call for; then a deferred
retirement, with which the trio is degraded again (R145, R146, R150, R156, R162). -/
def lockstepEntry (s : State) (n : Nat) (r : Rebuild) : State :=
  let p := r.pos
  if 16 < r.mismatches then integrateAt s n p (pip s)
  else if (trio s n).state = .split then
    resumeCore (modLCore (modTrio s n (fun t => dropRebuild t p)) (2 * n + p) (fun l => { l with ckPip0 := none })) (2 * n + p)
  else
    let s0 := match coreOf (trio s n) p with | some k => l1Clear s k | none => s
    let s1 := trioNotice (modTrio s0 n (fun t => { modMember (dropRebuild t p) p (fun m =>
      { m with lockstep := true, entryPip := some (pip s) }) with state := .voted })) n Notice.trioRestored
    match deferredAt (trio s1 n) with
    | some q => trioNotice (integrateAt s1 n q (pip s)) n Notice.trioDegraded
    | none => s1

/-- Change the spare that a rebuild integrates. -/
def onSpare (s : State) (r : Rebuild) (f : State → Nat → State) : State := match r.spare with | some k => f s k | none => s

/-- One step of one rebuild (R146), with what the hardware found. -/
def rebuildStep (s : State) (n : Nat) (r : Rebuild) (arrayFail : Option (BitVec 4)) (mismatches : Nat) : State :=
  if r.repeatStep then putRebuild s n { r with repeatStep := false }
  else
    let d := r.donePips + 1
    let r1 := { r with donePips := d, started := some (r.started.getD (pip s)) }
    match stepOf r.integrate d with
    | 1 => rebuildStep1 s n r1
    | 2 => putRebuild (if d = 2 then onSpare s r powerSpare else s) n r1
    | 3 => putRebuild (onSpare s r (fun s k => if d = 9 then joinClk (tuneSpare s k n) k n else tuneSpare s k n)) n r1
    | 4 => (match arrayFail, coreOf (trio s n) r.pos with
      | some arr, some k => integrateAt (arrayReport s k arr.toNat 2) n r.pos (pip s)
      | _, _ => putRebuild s n r1)
    | 5 => putRebuild s n { r1 with mismatches := r1.mismatches + mismatches }
    | 7 => lockstepEntry s n r1
    | _ => putRebuild s n r1

/-- Rebuilds of a half in order of their pip-0 stamps, as (trio, position) (R149). -/
def rebuildOrder (s : State) (h : Nat) : List (Nat × Rebuild) :=
  let all := (s.trios.filter (fun e => e.1 / 32 == h)).flatMap (fun e => e.2.rebuilds.map (fun r => (e.1, r)))
  let ins := fun (l : List (Nat × Rebuild)) (x : Nat × Rebuild) =>
    l.takeWhile (fun y => decide (y.2.stamp0 ≤ x.2.stamp0)) ++ x :: l.dropWhile (fun y => decide (y.2.stamp0 ≤ x.2.stamp0))
  all.foldl ins []

/-- The rebuilds that step in this pip: the started ones, and the oldest waiting ones up to four in a half, each after its pip 0. -/
def rebuildsDue (s : State) (h : Nat) : List (Nat × Rebuild) :=
  let l := rebuildOrder s h
  let active := l.filter (fun x => x.2.started.isSome)
  let waiting := l.filter (fun x => x.2.started.isNone && decide (x.2.pip0 < pip s))
  active ++ waiting.take (4 - active.length)

/-- An overrun of activity 5: the step of every rebuild due is repeated from its start in the next pip, and the pip counts against the
limit (R42). -/
def rebuildMissed (s : State) : State :=
  (rebuildsDue s 0 ++ rebuildsDue s 1).foldl (fun s x =>
    putRebuild s x.1 { x.2 with started := some (x.2.started.getD (pip s)) }) s

/-- Activity 5 of the husk loop: one step of every rebuild due (R146). -/
def rebuildPip (s : State) (obs : List RebuildObs) : State :=
  (rebuildsDue s 0 ++ rebuildsDue s 1).foldl (fun s x =>
    let o := obs.find? (fun o => o.trio.val == x.1 && o.pos.val == x.2.pos)
    match (trio s x.1).rebuilds.find? (fun r => r.pos == x.2.pos) with
    | some r =>
      rebuildStep s x.1 r (match o with | some o => o.arrayFail | none => none) (match o with | some o => o.mismatches | none => 0)
    | none => s) s

/-- The resync limit: 40 pips for a resync, 50 for an integration, counted from pip 0, or for one that waited from the pip before
step 1 (R147, R149). -/
def limitPip (r : Rebuild) (k : Nat) : Nat := max r.pip0 (k - 1) + (if r.integrate then 50 else 40)

/-- While no husk acts the member stays fenced, and the next holder restarts the rebuild (R150). -/
def execRebuildLimit (t : TrioNo) (p : Pos) (s : State) : Res :=
  .next (whenServing s (
    match (trio s t).rebuilds.find? (fun r => r.pos == p.val) with
    | none => s
    | some r => match r.started with
      | none => s
      | some k => if pip s ≤ limitPip r k ∨ (actingHusk s).isNone then s else integrateAt s t p (pip s)))

/-- The retirement that a severe class calls for; in a checkstop it is deferred to the resumption (R145) (LOG 73). -/
def retireCore (s : State) (k : Nat) : State :=
  match findCore s k with
  | none => s
  | some (n, p) =>
    let t := trio s n
    let m := member t p
    if t.state = .voted then
      trioNotice (integrateAt s n p (pip s)) n Notice.trioDegraded
    else if (t.state = .resync ∨ t.state = .integrate) ∧ m.lockstep then
      modTrio s n (fun t => modMember t p (fun m => { m with deferred := true }))
    else if t.state = .resync ∨ t.state = .integrate then integrateAt s n p (pip s)
    else if t.state = .checkstop then modTrio s n (fun t => modMember t p (fun m => { m with deferred := true }))
    else s

/-- The seed has passed: each rebuild restarts at step 1 with a new limit (R150). -/
def restartRebuilds (s : State) : State :=
  { s with trios := s.trios.map (fun e => (e.1, { e.2 with
      rebuilds := e.2.rebuilds.map (fun r => { r with started := none, donePips := 0, mismatches := 0, repeatStep := false }) })) }

/-! ## TRIO_STATUS (R156, R157) -/

def trioCode (x : TrioState) : Nat :=
  match x with
  | .absent => 0 | .voted => 1 | .resync => 2 | .integrate => 3 | .duplex => 4 | .checkstop => 5 | .failed => 6 | .split => 7
  | .unpowered => 8

/-- The state that a trio reports (R7, R156). -/
def trioShown (s : State) (n : Nat) : TrioState := if trioAbsent s n then .absent else (trio s n).state

def slotCode (m : Member) : Nat := match m.core with | .core n => n | .none => 0xFF | .lost => 0xFE

/-- TRIO_STATUS of TRIO[n]. Before the boot has placed the cores, and where the trio is fused off, the positions show their own cores;
in M0 to M2 the state is UNPOWERED (R7, R156, R157). -/
def trioStatusWord (s : State) (n : Nat) : W64 :=
  let t := trio s n
  let own := decide (t.state = .unpowered ∨ t.state = .absent)
  let slot := fun (m : Member) (p : Nat) => if own then 3 * n + p else slotCode m
  let rb := fun p => t.rebuilds.any (fun r => r.pos == p)
  let st := match t.rebuilds with | r :: _ => stepOf r.integrate r.donePips | [] => 0
  BitVec.ofNat 64 (place (sat 8 t.ckCount) 56 + place (sat 12 t.retryCount) 44 + place (sat 8 t.dissentCount) 36 +
    place (if t.state = .split then 0xFF else slot t.c 2) 28 + place (slot t.b 1) 20 + place (slot t.a 0) 12 +
    flag (rb 0) 8 + flag (rb 1) 9 + flag (rb 2) 10 + place st 4 + trioCode (trioShown s n))

end Sys2Proof.Machine
end

