-- ==== Sys2Proof/Machine/Parts.lean ====
section
/-! DEFINITION. Partitions (R331-R338): their ranges and zero-fill, start, stop and reset, and the evaluation and restart of R238
and R239. -/

namespace Sys2Proof.Machine

def granule : Nat := 0x200000
def maxRanges : Nat := 16

/-- A range lies in HBM or in one CXL window and is made of whole granules (R331). -/
def rangeOk (base size : Nat) : Bool :=
  decide (0 < size ∧ base % granule = 0 ∧ size % granule = 0) &&
  (decide (base + size ≤ hbmTop) ||
   match cxlPortOf base with
   | some k => decide (base + size ≤ cxlBase + (k + 1) * cxlWindow)
   | none => false)

def overlap (a b : Nat × Nat) : Bool := decide (a.1 < b.1 + b.2 ∧ b.1 < a.1 + a.2)

/-- Ranges of P[p] with their numbers; a range of size 0 is unused (R331). -/
def rangesOf (s : State) (p : Nat) : List (Nat × Nat × Nat) := (part s p).ranges.filter (fun r => decide (0 < r.2.2))

def allRanges (s : State) : List (Nat × Nat) := s.parts.flatMap (fun e => (e.2.ranges.map (·.2)).filter (fun r => decide (0 < r.2)))

def rangeTaken (s : State) (base size : Nat) : Bool := (allRanges s).any (overlap (base, size))

/-- Lowest number of an unused range. -/
def freeRange (s : State) (p : Nat) : Option Nat :=
  (List.range maxRanges).find? (fun r => (tget (0, 0) (part s p).ranges r).2 == 0)

/-- Units below unit `u` of a stack's range that lie on stack `j` (R200). -/
def unitsBelow (s : State) (stackTab : List Nat) (j u : Nat) : Nat :=
  let w := fun i => (stack s i).weight
  let rg := weightRing w stackTab
  let rounds := ((stackTab.filter (fun i => decide (0 < w i))).map (fun i => stackUnits / w i)).foldl min stackUnits
  let inner := rounds * rg.length
  if u < inner then u / rg.length * w j + ((rg.take (u % rg.length)).filter (fun i => i == j)).length
  else
    let before := ((stackTab.filter (fun i => decide (i < j))).map (fun i => stackUnits - rounds * w i)).foldl (· + ·) 0
    rounds * w j + min (stackUnits - rounds * w j) (u - inner - before)

/-- Lines of [base, base + size) that lie on stack `j`. -/
def linesOn (s : State) (j base size : Nat) : Nat :=
  let (stackTab, lo) := rangeStacks (memAll8 s) (if j < 4 then 0 else 4 * stackUnits * 1024)
  let hi := lo + stackTab.length * stackUnits * 1024
  let a := max base lo
  let b := min (base + size) hi
  if a < b then 8 * (unitsBelow s stackTab j ((b - lo) / 1024) - unitsBelow s stackTab j ((a - lo) / 1024)) else 0

/-- An address of a fenced stack. -/
def fencedAt (s : State) (pa : Nat) : Bool := (stackOf s pa).any (fun j => decide ((stack s j).state = .fenced))

/-- The writes of a range to fenced stacks are dropped and counted (R206). -/
def countDropped (s : State) (base size : Nat) : State :=
  { s with stackTab := s.stackTab.map (fun (e : Nat × Stack) =>
      if e.2.state = .fenced then (e.1, { e.2 with droppedWrites := e.2.droppedWrites + linesOn s e.1 base size }) else e) }

/-- Every word of the range is written with data 0 and tag RAW, but for those of a fenced stack, and no cache keeps a copy (R206, R337). -/
def zeroFill (s0 : State) (base size : Nat) : State :=
  let out := fun ln => !decide (base ≤ ln * 128 ∧ ln * 128 < base + size)
  let l1 := fun (t : Table (List Nat)) => t.map (fun e => (e.1, e.2.filter out))
  let s := countDropped s0 base size
  let kept := fun pa => !decide (base ≤ pa ∧ pa < base + size) || fencedAt s0 pa
  { s with
    mem :=
      if s.stackTab.any (fun e => decide (e.2.state = .fenced)) then
        { bytes := s.mem.bytes.filter (fun e => kept e.1)
          tags := s.mem.tags.filter (fun e => kept (8 * e.1))
          poison := s.mem.poison.filter (fun e => kept (8 * e.1)) }
      else Memory.zeroRange s.mem base size
    coh := { s.coh with
      l2 := s.coh.l2.filter (fun e => out (e.1 % 2 ^ 45))
      homes := s.coh.homes.filter (fun e => out e.1)
      net := s.coh.net.filter (fun m => out m.line)
      out := s.coh.out.filter (fun o => out o.line)
      held := s.coh.held.filter (fun o => out o.line)
      l1d := l1 s.coh.l1d, l1i := l1 s.coh.l1i } }

/-- Before a logical core joins a partition: its L2 is written back and invalidated and all its sets are emptied (R337) (LOG 85). -/
def emptyCore (s : State) (c : Nat) : State :=
  let s0 := abandonWait (modLCore s c (fun l => { l with replay := none })) c
  let s1 := l1Invalidate (forEach s0 (heldLines s0 c) (fun s ln => evictRun s c ln)) c true
  let s2 := modLCore s1 c (fun l => { l with
    sets := [], cur := 0, started := false, stopped := false, held := false, wait := none, reply := none, replay := none, evq := []
    twin := 0#64, vroot := TWord.mkRaw 0#64, mcCause := 0 })
  modEvents s2 (fun e => { e with blocks := e.blocks.filter (fun b => decide (b.1 / 32 ≠ c)) })

def coresOf (s : State) (p : Nat) : List Nat := (List.range 128).filter (fun c => (part s p).lcores.getLsbD c)

def slicesOf (s : State) (p : Nat) : List Nat :=
  (s.slices.filter (fun e => decide (e.2.state ≠ .free) && e.2.part == p)).map (·.1)

/-- RANGE[0]. -/
def range0 (s : State) (p : Nat) : Nat × Nat := tget (0, 0) (part s p).ranges 0

/-- A partition can start: it has a logical core that exists, and START is an even address in RANGE[0] (R8, R331). -/
def startable (s : State) (p : Nat) : Bool :=
  let r := range0 s p
  let a := (part s p).start.toNat
  (coresOf s p).any (lcoreExists s) && decide (a % 2 = 0 ∧ r.1 ≤ a ∧ a < r.1 + r.2)

/-- Set 0 at partition start (R114, R335). -/
def startSet (start base : W64) (p : Nat) : TaskSet :=
  { g := [(3, TWord.mkInt (BitVec.ofNat 64 p)), (4, TWord.mkAddr base)]
    pc := TWord.mkCode start
    tstat := { priv := true, state := .running } }

/-- LCORE[c] starts set 0 of its partition; its other sets are EMPTY (R113, R114, R335) (LOG 78). -/
def startCore (s : State) (c p : Nat) : State :=
  modLCore (abandonWait (modLCore s c (fun l => { l with replay := none })) c) c (fun l => { l with
    sets := [(0, startSet (part s p).start (BitVec.ofNat 64 (range0 s p).1) p)], cur := 0
    started := true, stopped := false, held := false, wait := none, reply := none, replay := none, evq := []
    twin := 0#64, vroot := TWord.mkRaw 0#64, mcCause := 0 })

def holdCores (s : State) (p : Nat) : State := forEach s (coresOf s p) (fun s c => modLCore s c (fun l => { l with held := true }))

/-- Slices of a partition that hold still go on, or those that are active are held (R351). -/
def holdSlices (s : State) (p : Nat) (on : Bool) : State :=
  forEach s (slicesOf s p) (fun s n => modSlice s n (fun e =>
    if on && decide (e.state = .active) then { e with state := .held }
    else if !on && decide (e.state = .held) then { e with state := .active } else e))

/-! ## Where a partition's memory and cores lie (R199, R238) -/

def halfTop : Nat := 4 * stackUnits * 1024

/-- Share of HBM bytes [base, base + size) that lies in half 0: by address under HALF, by the weights of the stacks under ALL8. -/
def bytesH0 (s : State) (base size : Nat) : Nat :=
  if base < hbmTop then
    if memAll8 s then
      let w := fun l => (l.map (fun j => (stack s j).weight)).foldl (· + ·) 0
      let all := w (List.range 8)
      if all = 0 then 0 else size * w (List.range 4) / all
    else min (base + size) (max base halfTop) - base
  else match cxlPortOf base with
    | some k => if cxlHome s k = 0 then size else 0
    | none => 0

def bytesIn (s : State) (h : Nat) (r : Nat × Nat) : Nat :=
  let b := bytesH0 s r.1 r.2
  if h = 0 then b else r.2 - b

def partBytesIn (s : State) (p h : Nat) : Nat := ((rangesOf s p).map (fun r => bytesIn s h r.2)).foldl (· + ·) 0

def partBytes (s : State) (p : Nat) : Nat := ((rangesOf s p).map (fun r => r.2.2)).foldl (· + ·) 0

/-- A logical core or memory of the partition lies in half `h` (R494). Under ALL8 every partition that holds HBM memory spans both halves
(R199). -/
def partInHalf (s : State) (p h : Nat) : Bool :=
  (coresOf s p).any (fun c => lcoreHalf c == h) || decide (0 < partBytesIn s p h) ||
  (memAll8 s && (rangesOf s p).any (fun r => decide (r.2.1 < hbmTop)))

def spans (s : State) (p : Nat) : Bool := partInHalf s p 0 && partInHalf s p 1

/-- Free usable HBM of a half: its 126 GiB less what the partitions' ranges hold there (R200, R238). -/
def freeHbm (s : State) (h : Nat) : Nat :=
  halfTop - (((allRanges s).filter (fun r => decide (r.1 < hbmTop))).map (bytesIn s h)).foldl (· + ·) 0

/-! ## Moving a partition into its home half (R239) -/

def insertRange (x : Nat × Nat) : List (Nat × Nat) → List (Nat × Nat)
  | [] => [x]
  | y :: ys => if x.1 ≤ y.1 then x :: y :: ys else y :: insertRange x ys

/-- Free stretches of [lo, hi) beside the used ranges, which rise. -/
def gaps (hi : Nat) : Nat → List (Nat × Nat) → List (Nat × Nat)
  | lo, [] => if lo < hi then [(lo, hi - lo)] else []
  | lo, (b, n) :: t =>
    if hi ≤ b then (if lo < hi then [(lo, hi - lo)] else [])
    else (if lo < b then [(lo, b - lo)] else []) ++ gaps hi (max lo (b + n)) t

/-- The lowest free memory that holds `need` bytes. -/
def takeGaps : Nat → List (Nat × Nat) → Option (List (Nat × Nat))
  | 0, _ => some []
  | _ + 1, [] => none
  | need + 1, (b, n) :: t =>
    if need + 1 ≤ n then some [(b, need + 1)] else (takeGaps (need + 1 - n) t).map ((b, n) :: ·)

/-- The part of a range that lies in half `h` under HALF. -/
def keepIn (s : State) (h : Nat) (r : Nat × Nat) : Option (Nat × Nat) :=
  if r.1 < hbmTop then
    let lo := if h = 0 then r.1 else max r.1 halfTop
    let hi := if h = 0 then min (r.1 + r.2) halfTop else r.1 + r.2
    if lo < hi then some (lo, hi - lo) else none
  else if bytesIn s h r = r.2 then some r else none

/-- The ranges that P[p] holds after a restart in half `h`, by number, and those that are new to it: what lies there stays under its
number, the rest gets the lowest free HBM of the half under the lowest unused numbers (LOG 28). -/
def movedRanges (s : State) (p h : Nat) : Option (Table (Nat × Nat) × List (Nat × Nat)) :=
  let kept : Table (Nat × Nat) := (rangesOf s p).filterMap (fun r => (keepIn s h r.2).map (fun x => (r.1, x)))
  let need := partBytes s p - (kept.map (fun r => r.2.2)).foldl (· + ·) 0
  let used := (allRanges s).foldl (fun l r => insertRange r l) []
  let unused := (List.range maxRanges).filter (fun n => !kept.any (fun r => r.1 == n))
  match takeGaps need (gaps (if h = 0 then halfTop else hbmTop) (if h = 0 then 0 else halfTop) used) with
  | none => none
  | some new =>
    if new.length ≤ unused.length then some ((unused.zip new).foldl (fun t x => tset t x.1 x.2) kept, new) else none

/-- Give P[p] its ranges in half `h`; START moves with RANGE[0] (R239, LOG 28). Under ALL8 the map lets no range lie in one half, so the
addresses stay. -/
def moveHome (s : State) (p h : Nat) : Option State :=
  if memAll8 s then some s
  else match movedRanges s p h with
    | none => none
    | some (all, new) =>
      let s1 := new.foldl (fun s r => zeroFill s r.1 r.2) s
      let old := (range0 s p).1
      some (modPart s1 p (fun e => { e with
        ranges := all
        start := BitVec.ofNat 64 (e.start.toNat - old + (tget (old, 0) all 0).1) }))

/-! ## Stop and reset -/

/-- A reset of the owner resets its mailboxes (R432) and marks the messages it has sent (R433). -/
def resetMailboxes (s : State) (p : Nat) : State :=
  let s1 := modEvents s (fun e => { e with resets := tmod 0 e.resets p (· + 1) })
  forEach s1 ((List.range 128).filter (fun m => mbxOwner s m == p)) mbxReset

/-- A partition reset begins: every slice is reset (R338); it ends in `after`. With the last QUIESCED partition M8 ends (R26). -/
def beginReset (s : State) (p : Nat) (after : PartState) : State :=
  let s1 := resetMailboxes s p
  let s2 := forEach s1 ((slicesOf s1 p).filter (fun n => decide ((sliceE s1 n).state ≠ .resetting))) startSliceReset
  settle (modPart s2 p (fun e => { e with state := .resetting, after := after, evaluate := false, stopWanted := false }))

/-- A restart holds the logical cores first. -/
def beginRestart (s : State) (p : Nat) : State := beginReset (holdCores s p) p .running

/-- Cores that start: in M7 those of the home half of a partition that has cores or memory in both (R239). -/
def startingCores (s : State) (p : Nat) : List Nat :=
  (coresOf s p).filter (fun c => lcoreExists s c &&
    (!(s.mode.split && spans s p) || lcoreHalf c == (part s p).homeHalf))

/-- PART_START, or the end of a restart (R335). With no core to start the partition stays held. -/
def startPart (s : State) (p : Nat) : State :=
  let cs := startingCores s p
  let s1 := forEach s cs (fun s c => startCore s c p)
  let s2 := modPart s1 p (fun e => { e with state := if cs.isEmpty then .held else .running })
  holdSlices s2 p (cs.isEmpty)

def endReset (s : State) (p : Nat) : State :=
  match (part s p).after with
  | .running => startPart s p
  | x => modPart (holdCores s p) p (fun e => { e with state := x })

/-- Resets whose slices have all been reset end (R336, R338). -/
def partProgress (s : State) : State :=
  forEach s (List.range 16) (fun s p =>
    if (part s p).state = .resetting ∧ (slicesOf s p).all (fun n => decide ((sliceE s n).state ≠ .resetting)) then endReset s p else s)

/-- Partitions that the husk is to stop, since no logical core of theirs is left to notify (R144). -/
def stopOrphans (s : State) : State :=
  forEach s (List.range 16) (fun s p =>
    if (part s p).stopWanted then
      (if (part s p).state = .resetting ∨ (part s p).state = .stopped then modPart s p (fun e => { e with stopWanted := false })
       else beginReset s p .stopped)
    else s)

/-! ## Hold and evaluation (R238, R239) -/

/-- A partition is held: its logical cores and the fetching of its slices stop. -/
def holdPart (s : State) (p : Nat) : State :=
  modPart (holdSlices (holdCores s p) p true) p (fun e => { e with state := .held })

/-- Accepted work that is not POSTED or ended. -/
def partBusy (s : State) (p : Nat) : Bool :=
  s.exchs.any (fun e => e.part == p && isAccepted e && decide (exRank e.st < 10)) ||
  s.jobs.any (fun j => j.part == p && decide (j.st ≠ .fetched))

/-- The memory in the home half and the free memory counted for it hold the partition (R238). -/
def evaluationOk (s : State) (p free : Nat) : Bool :=
  decide (partBytes s p ≤ partBytesIn s p (part s p).homeHalf + free)

/-- Restart in the home half, or hold; `free` is the free memory counted. -/
def evaluate (s : State) (p free : Nat) : State :=
  let s1 := modPart s p (fun e => { e with evaluate := false })
  if evaluationOk s p free then
    match moveHome s1 p (part s p).homeHalf with
    | some s2 => beginRestart s2 p
    | none => s1
  else s1

end Sys2Proof.Machine
end

