-- ==== Sys2Proof/Machine/Units.lean ====
section
/-! DEFINITION. Units that fail and return: targets declared dead and their hulls (R232-R236), fenced stacks (R206), lost dies (R222, R443,
R494), safe state (R488), the trios as they boot (R8, R151-R154), and what a rejoin rebuilds (R492, R493). -/

namespace Sys2Proof.Machine

/-! ## Where a sensor and a sleeping domain lie (R229, R484, R487) -/

/-- A sensor is valid until its class has become severe (R484). -/
def sensorValid (s : State) (i : Nat) : Bool := !s.power.invalid.contains i

/-- Die of a sensor: H0, H1, IO0-IO3 (2-5), the service die (6) (R484). -/
def sensorDie (i : Nat) : Nat :=
  if i < 208 then coreHalf i else if i < 240 then (i - 208) / 16 else if i < 272 then (i - 240) / 16
  else if i < 312 then 2 + (i - 272) / 10 else 6

/-- BELOW_ZERO holds by a sensor of this die: nothing on it is parked or sleeps (R487). -/
def coldDie (s : State) (d : Nat) : Bool :=
  s.power.belowZero && s.power.sensors.any (fun e => decide (e.2 < 0) && sensorValid s e.1 && sensorDie e.1 == d)

/-- The die of a domain's number. -/
def domainKeyDie (k : Nat) : Nat := if k < 32 then 2 + k / 8 else if k < 64 then (k - 32) / 4 else (k - 64) / 32

/-! ## Dead targets (R232) -/

namespace HullCause
def netTimeout : BitVec 2 := 1#2
def collector : BitVec 2 := 2#2
def splitLink : BitVec 2 := 3#2
end HullCause

/-- A target is declared dead; its hull follows within 1 pip (R232, R233) (LOG 96). -/
def declareDead (s : State) (h : Nat) (cause : BitVec 2) : State :=
  if targetDead s h then s else modNet s (fun n => { n with dead := n.dead ++ [(h, cause, pip s)] })

/-- Every home applies `cutHome`. -/
def cutHomes (gone : Nat → Nat → Bool) (forget : Bool) (s : State) : State :=
  (s.coh.homes.map (·.1)).foldl (cutHome gone forget) s

/-- The hull of a declared target is in place; requests outstanding to it complete with ISOLATED (R233, R234, R236). -/
def placeHull (s : State) (h : Nat) : State :=
  match s.net.dead.find? (fun e => e.1 == h) with
  | none => s
  | some (_, cause, _) =>
    let s1 := modNet (modHull s h (fun x => { x with active := true, ever := true, cause := cause }))
      (fun n => { n with dead := n.dead.filter (fun e => e.1 != h) })
    let s2 := cutRequests (fun a ln => isolatedFrom s1 (agentHalf a) ln) s1
    if 128 ≤ h then cutHomes (fun a _ => a == h - 128) false s2 else s2

/-- A hull is removed at the end of a rejoin (R236). -/
def removeHull (s : State) (h : Nat) : State :=
  modNet (modHull s h (fun x => { x with active := false, cause := 0#2 })) (fun n => { n with dead := n.dead.filter (fun e => e.1 != h) })

/-- HULL_STATUS (R236). -/
def hullStatusWord (h : Hull) : W64 :=
  BitVec.ofNat 64 (place (sat 32 h.dropped) 32 + place (sat 16 h.isoCount) 16 + place (sat 8 h.late) 8 + place h.cause.toNat 2 +
    flag h.ever 1 + flag h.active 0)

/-! ## Stacks -/

/-- Rounds and slots of the interleave of the range that holds an address (R200). -/
def ringOf (s : State) (pa : Nat) : Nat × Nat :=
  let stackTab := (rangeStacks (memAll8 s) pa).1
  let w := fun j => (stack s j).weight
  (((stackTab.filter (fun j => decide (0 < w j))).map (fun j => stackUnits / w j)).foldl min stackUnits, (weightRing w stackTab).length)

/-- The tail of stack `j`: first address and length (R200). -/
def tailSpan (s : State) (j : Nat) : Nat × Nat :=
  let (stackTab, base) := rangeStacks (memAll8 s) (if j < 4 then 0 else halfTop)
  let (rounds, sw) := ringOf s base
  let tail := fun i => stackUnits - rounds * (stack s i).weight
  let before := ((stackTab.filter (fun i => decide (i < j))).map tail).foldl (· + ·) 0
  (base + (rounds * sw + before) * 1024, tail j * 1024)

/-- A range holds a unit of stack `j`: in the interleaved space, where 64 units reach every stack of the ring, or in the stack's
tail. -/
def rangeOnStack (s : State) (r : Nat × Nat) (j : Nat) : Bool :=
  decide (r.1 < hbmTop) &&
  (overlap r (tailSpan s j) ||
   [r.1, max r.1 halfTop].any (fun b => (List.range 64).any (fun u =>
     decide (u * 1024 < r.2 ∧ b + u * 1024 < r.1 + r.2) && stackOf s (b + u * 1024) == some j)))

def partOnStack (s : State) (p j : Nat) : Bool := (rangesOf s p).any (fun r => rangeOnStack s r.2 j)

/-- A stack is fenced: HBM_STACK_FENCED, a hull, and MEM_STACK_LOST to each partition that has memory there (R206). -/
def fenceStack (s : State) (j why : Nat) : State :=
  if (stack s j).state = .fenced then s
  else
    let s1 := report (modStack s j (fun x => { x with state := .fenced })) (Pt.stackFenced j) why
    let s2 := declareDead s1 (HullAt.stack j) HullCause.collector
    forEach s2 ((List.range 16).filter (fun p => partOnStack s p j)) (fun s p => notice s p Notice.memStackLost j)

/-! ## Safe state (R455, R488) -/

/-- M11: cores stop with their shadow state kept, transmitters, PCIe and CXL links and engines go off, every stack that stands enters
self-refresh, ALIVE stops, and the SPI lines are released (R459). -/
def enterSafe (s : State) (cause point reason : Nat) : State :=
  if s.mode.mode = 11 then s
  else
    let s1 := setSafeCause s cause point
    let s2 := { s1 with
      stackTab := s1.stackTab.map (fun e => (e.1, if e.2.state = .fenced then e.2 else { e.2 with state := .selfRefresh }))
      engs := s1.engs.map (fun e => (e.1, { e.2 with state := .unpowered }))
      chans := s1.chans.map (fun e => (e.1, { e.2 with pcs := false, state := if e.2.group.isSome then .down else .noGroup }))
      cxl := s1.cxl.map (fun e => (e.1, { e.2 with lost := true })) }
    let s3 := modBoot (modPins s2 (fun p => { p with aliveStopped := true })) (fun b => { b with spiDriven := false })
    setMode (modModeS s3 (fun m => { m with safeReason := reason })) 11

/-! ## Loss of a die (R222, R240, R443, R494) -/

/-- The caches and directory of half `h` are lost; requests that its homes held end with ISOLATED, and the other half's homes go on without
its agents and forget them (R234; LOG 79). -/
def dropHalf (s : State) (h : Nat) : State :=
  let gone := fun a => decide (a < 128) && agentHalf a == h
  let mine := fun ln => homeHalf s ln == h
  let s1 := modCoh s (fun c => { c with
    l2 := c.l2.filter (fun e => !gone (e.1 / 2 ^ 45))
    homes := c.homes.filter (fun e => !mine e.1)
    net := c.net.filter (fun m => !gone m.agent && !mine m.line)
    l1d := c.l1d.filter (fun e => coreHalf e.1 != h), l1i := c.l1i.filter (fun e => coreHalf e.1 != h) })
  let s2 := cutRequests (fun a ln => mine ln && !gone a) (cutHomes (fun a _ => gone a) true s1)
  modCoh s2 (fun c => { c with out := c.out.filter (fun o => !gone o.agent), held := c.held.filter (fun o => !gone o.agent) })

/-- Every partition with a logical core or memory in a fenced half is stopped (R494). -/
def stopPartsOf (s : State) (h : Nat) : State :=
  forEach s (List.range 16) (fun s p =>
    if partInHalf s p h ∧ (part s p).state ≠ .stopped ∧ (part s p).state ≠ .resetting then beginReset (holdCores s p) p .stopped else s)

/-- Some husk holds the seed or could take it. -/
def huskAble (s : State) : Bool :=
  let ok := fun (h : Husk) => (decide (h.stat = .holder) && !h.refused) || decide (h.stat = .ready)
  ok s.husks.a || ok s.husks.b

/-- A die is fenced and declared lost: 0 and 1 are the halves, 2-5 the I/O dies. The module enters M6, or M11 when neither half
runs (R240, R480). -/
def loseDie (s : State) (d : Nat) : State :=
  if dieLost s d then s
  else
    let s1 := modNet s (fun n => { n with lost := tset n.lost d true, lostPip := tset n.lostPip d (pip s) })
    let s2 := declareDead s1 (HullAt.die d) HullCause.collector
    let s3 := if d < 2 then dropHalf (stopPartsOf s2 d) d else s2
    settle (if dieLost s3 0 && dieLost s3 1 then enterSafe s3 3 0 (if huskAble s3 then 2 else 1) else s3)

/-! ## Trios as they boot (R7, R8, R151-R154) -/

def coreGood (s : State) (k : Nat) : Bool := decide (coreStat s k ≠ .excluded ∧ coreStat s k ≠ .retired)

/-- The cores of a trio and the spares of its half as the pool has them before the members are chosen. -/
def bootCores (s : State) (n : Nat) : State :=
  let put := fun (s : State) k (x : CoreStat) =>
    if coreGood s k then setClk (setCore s k x) k { dom := some n, on := decide (x = .assigned) } else stopClk s k
  if trioAbsent s n then forEach s [3 * n, 3 * n + 1, 3 * n + 2] (fun s k => stopClk (setCore s k .absent) k)
  else put (put (put s (3 * n) .assigned) (3 * n + 1) .assigned) (3 * n + 2) (if trioSplitCfg s n then .pool else .assigned)

/-- The member of a position: its own core, or a spare where that core is out (R153, LOG 29). -/
def bootMember (s : State) (n p : Nat) : State × Member :=
  if coreGood s (3 * n + p) then (s, { core := .core (3 * n + p), lockstep := !trioSplitCfg s n })
  else match selectSpare s n with
    | some k => (joinClk (setCore s k .assigned) k n, { core := .core k, lockstep := !trioSplitCfg s n })
    | none => (s, { core := if trioSplitCfg s n then .lost else .none })

/-- TRIO[n] comes up VOTED, or SPLIT by its TRIO_MODE; without a core for a position it is DUPLEX, with its event to the owner (R156), or
FAILED, and a split core without one is FAILED. -/
def bootTrio (s : State) (n : Nat) : State :=
  if trioAbsent s n then modTrio s n (fun _ => { state := .absent })
  else
    let split := trioSplitCfg s n
    let (s1, a) := bootMember s n 0
    let (s2, b) := bootMember s1 n 1
    let (s3, c) := if split then (s2, ({} : Member)) else bootMember s2 n 2
    let up := ([a, b, c].filter (fun m => match m.core with | .core _ => true | _ => false)).length
    let st : TrioState := if split then .split else if up = 3 then .voted else if up = 2 then .duplex else .failed
    let s4 := modTrio s3 n (fun _ => { state := st, duplexed := decide (st = .duplex), splitBoot := split, a := a, b := b, c := c })
    let fail := fun (s : State) k => modLCore s k (fun l => { l with failed := true })
    if split then
      (let s5 := if a.core = .lost then fail s4 (2 * n) else s4
       if b.core = .lost then fail s5 (2 * n + 1) else s5)
    else if st = .failed then fail s4 (2 * n)
    else if st = .duplex then trioNotice s4 n Notice.trioDegraded else s4

def triosOf (h : Nat) : List Nat := (List.range 32).map (fun k => 32 * h + k)

/-- The spares and trios of a half. -/
def bootHalf (s : State) (h : Nat) : State :=
  let s1 := forEach s ((List.range 8).map (fun i => 192 + 8 * h + i)) (fun s k =>
    if coreGood s k then stopClk (setClk (setCore s k .pool) k {}) k else stopClk s k)
  let s2 := forEach s1 (triosOf h) bootCores
  forEach s2 (triosOf h) bootTrio

/-! ## Rejoin (R236, R245, R492, R493) -/

/-- At most one half-to-half link is up: the condition of D2D_DEGRADED (R221). -/
def d2dFlag (s : State) : State := modNet s (fun n => { n with d2dDegraded := decide (d2dUp s ≤ 1) })

/-- Links of a die by link number: 0-3 half-to-half, 4 + 4d + 2h + e I/O-to-half, 20-21 mirror. -/
def linksOf (d : Nat) : List Nat :=
  if d < 2 then [0, 1, 2, 3] ++ (List.range 4).flatMap (fun i => [4 + 4 * i + 2 * d, 5 + 4 * i + 2 * d])
  else [4 + 4 * (d - 2), 5 + 4 * (d - 2), 6 + 4 * (d - 2), 7 + 4 * (d - 2), 20 + (d - 2) / 2]

/-- Hull positions of a die and of the units on it. -/
def hullsOf (d : Nat) : List Nat :=
  if d < 2 then
    [HullAt.die d] ++ (List.range 4).map (fun q => HullAt.stack (4 * d + q)) ++ (List.range 32).map (fun i => HullAt.l3 (32 * d + i)) ++
      (List.range 64).map (fun i => HullAt.l2 (64 * d + i))
  else [HullAt.die d] ++ (List.range 8).map (fun i => HullAt.engine (8 * (d - 2) + i))

/-- The half's cores, caches, directory and stacks come back empty (R493). -/
def rejoinHalf (s : State) (h : Nat) : State :=
  let onHalf := fun a => decide (a < hbmTop) && (match stackOf s a with | some j => j / 4 == h | none => false)
  let s1 := dropHalf s h
  let s2 := { s1 with
    mem := { bytes := s1.mem.bytes.filter (fun e => !onHalf e.1)
             tags := s1.mem.tags.filter (fun e => !onHalf (8 * e.1))
             poison := s1.mem.poison.filter (fun e => !onHalf (8 * e.1)) }
    lcores := s1.lcores.map (fun e => if lcoreHalf e.1 = h then (e.1, { e.2 with failed := false, started := false }) else e) }
  let s3 := forEach s2 ((List.range 4).map (fun q => 4 * h + q)) (fun s j => modStack s j (fun x => { x with state := .active, idlePips := 0 }))
  bootHalf s3 h

/-- Channels of a returned I/O die enter DOWN, or PROBING under a PCS that is up; its leaf cache is empty; groups with a path on each die
are protected again (R245, R307, R493). -/
def rejoinIo (s : State) (d : Nat) : State :=
  let chans : Table Chan := s.chans.map (fun e =>
    if chanDie e.1 = d then
      (e.1, { e.2 with
        state := if e.2.group.isNone then .noGroup else if e.2.pcs then .probing else .down
        unacked := [], peer := none, hellos := 0 })
    else e)
  let engs : Table Eng := s.engs.map (fun e => if e.1 / 8 = d then (e.1, { e.2 with state := .active }) else e)
  let s1 : State := { s with leaves := tdel s.leaves d, chans := chans, engs := engs }
  { s1 with groups := s1.groups.map (fun (e : Nat × Group) =>
      if e.2.opened && e.2.chans.any (fun n => chanDie n == d) && !ioLost s1 (d ^^^ 1) && bothDies e.2 then
        (e.1, { e.2 with isProtected := true }) else e) }

/-- A die has come back: it is no longer lost, its links are up and its hulls are gone. -/
def returnDie (s : State) (d : Nat) : State :=
  let s1 := modNet s (fun n => { n with
    lost := tdel n.lost d
    lostPip := tdel n.lostPip d
    domains := n.domains.filter (fun e => domainKeyDie e.1 != d)
    renewSeen := tset n.renewSeen d (pip s) })
  let s2 := d2dFlag (forEach s1 (linksOf d) (fun s l => modLink s l (fun _ => {})))
  let s3 := forEach s2 (hullsOf d) removeHull
  if d < 2 then rejoinHalf s3 d else rejoinIo s3 (d - 2)

/-! ## M7 (R237-R241, R493, R494) -/

/-- The home of a line is in the other half than agent `a`. -/
def crossHalf (s : State) (a ln : Nat) : Bool := decide (a < 128) && homeHalf s ln != agentHalf a

/-- At the commit of M7 each L2 invalidates the lines homed in the other half, in the L1 arrays too; a modified line is dropped and reported.
Messages on the links are lost, and requests that cross end with ISOLATED, at the home as at the requester (R234, R238, R494). -/
def dropCross (s : State) : State :=
  let l2 := s.coh.l2.filter (fun e => crossHalf s (e.1 / 2 ^ 45) (e.1 % 2 ^ 45))
  let dirty := l2.filter (fun e => e.2.st = .st .m || e.2.st = .xiA .m || e.2.st = .xiW .m)
  let s1 := dirty.foldl (fun s e => report s (Pt.wbIsolated (agentHalf (e.1 / 2 ^ 45))) (e.1 % 65536)) s
  let s2 := l2.foldl (fun s e => setL2 s (e.1 / 2 ^ 45) (e.1 % 2 ^ 45) {}) s1
  let s3 := modCoh s2 (fun c => { c with net := c.net.filter (fun m => !crosses s m) })
  cutRequests (crossHalf s) (cutHomes (crossHalf s) false s3)

/-- After M7 each home clears the sharers and owners in the other half, and the hulls of the links go (R493). -/
def rejoinHalves (s : State) : State :=
  forEach (cutHomes (crossHalf s) true s) [0, 1, 2, 3] (fun s i => removeHull s (HullAt.d2d i))

/-- M7 is committed: hulls at the link ports, the free memory counted, spanning partitions held (R237-R239). -/
def enterSplit (s : State) : State :=
  let s1 := forEach s [0, 1, 2, 3] (fun s i => placeHull (declareDead s (HullAt.d2d i) HullCause.splitLink) (HullAt.d2d i))
  let s2 := dropCross s1
  let s3 := modModeS s2 (fun m => { m with split := true, m7Free := (freeHbm s2 0, freeHbm s2 1), rejoining := m.rejoining.filter (· != 8) })
  let s4 := modNet s3 (fun n => { n with lastRetrain := pip s })
  settle (forEach s4 (List.range 16) (fun s p =>
    if spans s p ∧ ((part s p).state = .running ∨ (part s p).state = .quiesced) then
      modPart (holdPart s p) p (fun e => { e with evaluate := true })
    else s))

end Sys2Proof.Machine
end

