-- ==== Sys2Proof/Machine/MemRows.lean ====
section
/-! DEFINITION. Memory events: patrol scrub (R201-R203), memory errors (R206), slow stacks (R208), self-refresh (R192, R490) and the loss
of a CXL link (R215). -/

namespace Sys2Proof.Machine

/-! ## From a stack's line back to its address (R200) -/

/-- Physical address of local line `l` of stack `j`: the inverse of the interleave. -/
def stackLineAddr (s : State) (j l : Nat) : Option Nat :=
  let (stackTab, base) := rangeStacks (memAll8 s) (if j < 4 then 0 else halfTop)
  let w := fun i => (stack s i).weight
  let rg := weightRing w stackTab
  let (rounds, sw) := ringOf s base
  let u := l / 8
  let at_ := fun (unit : Nat) => base + unit * 1024 + l % 8 * 128
  if stackUnits ≤ u then none
  else if u < rounds * w j then
    let slots := (List.range sw).filter (fun k => rg.getD k 8 == j)
    some (at_ (u / w j * sw + slots.getD (u % w j) 0))
  else
    let before := ((stackTab.filter (fun i => decide (i < j))).map (fun i => stackUnits - rounds * w i)).foldl (· + ·) 0
    some (at_ (rounds * sw + before + (u - rounds * w j)))

/-- Groups of a stack (R201), seven lines each (R200). -/
def stackGroups : Nat := 37748736

/-- Bits [22:7] of an address, the DETAIL of memory errors (R516). -/
def lineDetail (pa : Nat) : Nat := lineOf pa % 65536

/-! ## Errors (R206) -/

/-- A line was corrected and written back (R202, R206). -/
def lineCorrected (s : State) (pa : Nat) : State :=
  match stackOf s pa with
  | none => s
  | some j => report (modStack s j (fun x => { x with ceCount := x.ceCount + 1 })) (Pt.hbmCe j) (lineDetail pa)

/-- All 16 words of an uncorrectable line are poisoned in memory, but for a fenced stack, to which writes are dropped and counted (R202, R206). -/
def linePoisoned (s : State) (pa : Nat) : State :=
  match stackOf s pa with
  | none => s
  | some j =>
    let s1 :=
      if (stack s j).state = .fenced then modStack s j (fun x => { x with droppedWrites := x.droppedWrites + 1 })
      else { s with mem := (List.range 16).foldl (fun m k => Memory.setPoison m (16 * lineOf pa + k) true) s.mem }
    report (modStack s1 j (fun x => { x with ueCount := x.ueCount + 1 })) (Pt.hbmUe j) (lineDetail pa)

/-- The stack answers: it is powered and not fenced. -/
def stackUp (s : State) (j : Nat) : Bool := decide ((stack s j).state ≠ .unpowered ∧ (stack s j).state ≠ .fenced)

def addrUp (s : State) (pa : Nat) : Bool := match stackOf s pa with | some j => stackUp s j | none => false

def execHbmCorrectableError (pa : PAddr) (s : State) : Res :=
  .next (if addrUp s pa.toNat then lineCorrected s pa.toNat else s)

def execHbmUncorrectableError (pa : PAddr) (s : State) : Res :=
  .next (if addrUp s pa.toNat then linePoisoned s pa.toNat else s)

/-- A command or address parity error: retried, and if it persists handled as an uncorrectable line. -/
def execHbmCaParityError (pa : PAddr) (persists : Bool) (s : State) : Res :=
  .next (match stackOf s pa.toNat with
    | none => s
    | some j =>
      if stackUp s j then
        let s1 := report s (Pt.hbmCa j) (lineDetail pa.toNat)
        if persists then linePoisoned s1 pa.toNat else s1
      else s)

def execHbmPhyFailure (j : StackNo) (s : State) : Res := .next (if stackUp s j then fenceStack s j 0 else s)

/-! ## Patrol scrub (R201-R203) -/

/-- Pips between two patrol groups. -/
def patrolStep (s : State) : Nat := scrubHours s * 3600000000 / stackGroups

/-- Patrol runs on every stack that is powered and not in self-refresh (R201). -/
def patrolOn (s : State) (j : Nat) : Bool := decide ((stack s j).state ≠ .unpowered ∧ (stack s j).state ≠ .selfRefresh)

/-- The stack serves accesses: it is active or throttled. -/
def stackServes (s : State) (j : Nat) : Bool := decide ((stack s j).state = .active ∨ (stack s j).state = .throttled)

/-- Address of slot `i` of the patrol group. -/
def patrolAddr (s : State) (j i : Nat) : Option Nat := stackLineAddr s j (7 * (stack s j).patrolGroup + i)

def forAddrs (s : State) (l : List (Option Nat)) (f : State → Nat → State) : State :=
  l.foldl (fun s a => match a with | some pa => f s pa | none => s) s

/-- One group is scrubbed; the next follows PATROL_STEP pips later. -/
def execPatrolScrubStep (j : StackNo) (corrected uncorrectable : List (Fin 7)) (s : State) : Res :=
  .next (
    if patrolOn s j && decide ((stack s j).patrolNext ≤ pip s) then
      let s1 := forAddrs s (corrected.map (fun (i : Fin 7) => patrolAddr s j i.val)) lineCorrected
      let s2 := forAddrs s1 (uncorrectable.map (fun (i : Fin 7) => patrolAddr s j i.val)) linePoisoned
      modStack s2 j (fun x =>
        let last := decide (stackGroups ≤ x.patrolGroup + 1)
        { x with
          patrolGroup := if last then 0 else x.patrolGroup + 1
          passCount := if last then x.passCount + 1 else x.passCount
          patrolNext := pip s + patrolStep s })
    else s)

/-- SCRUB_STATUS (R205). -/
def scrubStatusWord (s : State) (j : Nat) : W64 :=
  let x := stack s j
  BitVec.ofNat 64 (place (sat 24 x.passCount) 40 + place (sat 32 x.demandProgress) 8 + flag x.demandActive 1 + flag (patrolOn s j) 0)

/-! ## Slow stacks (R207, R208) -/

/-- Pips of a full queue below 80 % after which a stack is slow. -/
def slowLimit : Nat := 1000

/-- The stack has been slow for 1,000 consecutive pips, a new onset: SLOW, and STACK_SLOW to each partition with memory there. -/
def execStackSlow (j : StackNo) (s : State) : Res :=
  .next (
    if decide (slowLimit ≤ (stack s j).slowPips) && !(stack s j).slowNow then
      let s1 := modStack s j (fun x => { x with slow := true, slowNow := true })
      forEach s1 ((List.range 16).filter (fun p => partOnStack s1 p j)) (fun s p => notice s p Notice.stackSlow j)
    else s)

/-- What a pip edge latches of a stack's readings. -/
def stackObserved (s : State) (o : StackObs) : State :=
  modStack s o.stack (fun x =>
    let low := o.queueBusy && decide (o.bwPct < 80)
    { x with
      bwPct := o.bwPct
      slowPips := if low then x.slowPips + 1 else 0
      slowNow := x.slowNow && low
      idlePips := if o.queueBusy then 0 else x.idlePips + 1 })

def stackCode (x : StackState) : Nat :=
  match x with | .active => 0 | .selfRefresh => 1 | .throttled => 2 | .fenced => 3 | .unpowered => 4

/-- The hottest sensor of a stack in whole degrees, as 8 bits signed (R207, R484); with no valid sensor a free value. A stack without power
shows the reset value 0. -/
def stackTemp (s : State) (j : Nat) : Nat :=
  if (stack s j).state = .unpowered then 0 else
  let l := ((List.range 4).filter (fun i => !s.power.invalid.contains (208 + 4 * j + i))).map (fun i => sensorAt s (208 + 4 * j + i))
  match l with
  | [] => (Config.blindReading (pip s) (0x60 + j)).toNat % 256
  | t :: ts => ((ts.foldl max t / 8) % 256).toNat

/-- STACK_STATUS (R207). -/
def stackStatusWord (s : State) (j : Nat) : W64 :=
  let x := stack s j
  BitVec.ofNat 64 (place (sat 16 x.ceCount) 48 + place (sat 8 x.ueCount) 40 + place (sat 8 x.bwPct) 32 +
    place (x.pendingWeight.getD 15) 28 + place x.weight 24 + place (stackTemp s j) 16 + flag x.slow 3 + stackCode x.state)

/-! ## Self-refresh (R192, R487, R490) -/

/-- In M9 a stack that has been idle for 1,000 pips enters self-refresh, with its contents kept, unless a sensor is below 0. -/
def execStackSelfRefreshEntry (j : StackNo) (s : State) : Res :=
  .next (
    if s.mode.parkCond && !coldDie s (j / 4) && stackServes s j && decide (1000 ≤ (stack s j).idlePips) then
      modNet (modStack s j (fun x => { x with state := .selfRefresh }))
        (fun n => { n with domains := tset n.domains (stackDomain j) .asleep })
    else s)

/-! ## CXL (R215) -/

/-- The link of a port fails or its device is removed; the window goes behind a hull. -/
def execCxlLinkLoss (k : PortNo) (removed : Bool) (s : State) : Res :=
  .next (
    if (cxlPort s k).lost || (cxlPort s k).capacity.isNone then s
    else
      let s1 := report (modCxl s k (fun p => { p with lost := true })) (Pt.cxlLink k) (if removed then 1 else 0)
      declareDead s1 (HullAt.cxl k) HullCause.collector)

end Sys2Proof.Machine
end

