-- ==== Sys2Proof/Machine/Net.lean ====
section
/-! DEFINITION. The on-module network (R219-R241): die-to-die links, sleeping domains, dead targets and their hulls, split-link isolation
and the self-stop of a die. -/

namespace Sys2Proof.Machine

/-! ## Links (R219-R222) -/

def linkNo (l : LinkId) : Nat :=
  match l with
  | .d2d i => i
  | .io d h e => 4 + 4 * d + 2 * h + e
  | .mirror p => 20 + p

/-- The fault point of a link. A mirror link is reported on its pair's even die (R438, LOG 30). -/
def linkPoint (l : LinkId) : Nat :=
  match l with
  | .d2d i => Pt.d2dLink i
  | .io d h e => Pt.ioLink (4 * d + 2 * h + e)
  | .mirror p => Pt.mirrorLink (2 * p)

def maxResends : Nat := 16
def retrainPips : Nat := 4

/-- What follows from the links that are down: with both links of IO[d] to one half down the die is lost (R222); with one half-to-half
link up D2D_DEGRADED goes to every partition (R221); with none up the pip is kept for R237. -/
def linksChanged (s : State) (l : LinkId) : State :=
  match l with
  | .io d h _ => if !(link s (linkNo (.io d h 0))).up && !(link s (linkNo (.io d h 1))).up then loseDie s (2 + d) else s
  | .mirror _ => s
  | .d2d _ =>
    let k := d2dUp s
    let s1 := d2dFlag (modNet s (fun n => { n with lastLinkDown := if k = 0 then some (n.lastLinkDown.getD (pip s)) else none }))
    if k = 1 ∧ !s.net.d2dDegraded then noticeAll s1 Notice.d2dDegraded 0 else s1

/-- When a half-to-half link goes down, what its replay buffer holds is sent on a surviving link ahead of later messages for the same lines
(R220). -/
def resendFirst (s : State) (i : Nat) : State :=
  let mine := fun (m : CohMsg) => crosses s m && lineLink s m.line == i
  modCoh s (fun c => { c with net := c.net.filter mine ++ c.net.filter (fun m => !mine m) })

/-- A link goes down and retrains for up to 4 pips (R219). -/
def linkDown (s : State) (l : LinkId) (detail : Nat) : State :=
  let s0 := match l with | .d2d i => resendFirst s i | _ => s
  let s1 := modLink s0 (linkNo l) (fun _ => { up := false, retrainBy := some (pip s + retrainPips) })
  linksChanged (report s1 (linkPoint l) detail) l

/-- Resends of a flit of a link in this pip. -/
def resendsOf (s : State) (k flit : Nat) : Nat :=
  let x := link s k
  if x.resendPip = pip s then tget 0 x.resends flit else 0

/-- A flit fails its CRC and is resent; after 16 resends of it in one pip the link goes down. -/
def execFlitCrcError (l : LinkFlit) (s : State) : Res :=
  .next (whenPowered s (
    let k := linkNo l.link
    if !(link s k).up then s
    else
      let n := resendsOf s k l.flit + 1
      if n < maxResends then
        modLink s k (fun x => { x with resends := tset (if x.resendPip = pip s then x.resends else []) l.flit n, resendPip := pip s })
      else linkDown s l.link 0))

/-- The retraining of a link has failed: it stays down until its far end rejoins (R219, R516). -/
def retrainFailed (s : State) (l : LinkId) : State :=
  report (modLink s (linkNo l) (fun x => { x with retrainBy := none, downForRejoin := true })) (linkPoint l) 3

/-- A training ends. A link that was up and fails a training goes down and retrains. -/
def execLinkTrainingEnd (l : LinkId) (ok : Bool) (s : State) : Res :=
  .next (whenPowered s (
    let x := link s (linkNo l)
    if x.downForRejoin then s
    else if ok then
      if x.up then s else linksChanged (modLink s (linkNo l) (fun _ => {})) l
    else match x.retrainBy with
      | some _ => retrainFailed s l
      | none => linkDown s l 1))

/-- Every link of R16. -/
def allLinks : List LinkId :=
  [.d2d 0, .d2d 1, .d2d 2, .d2d 3] ++
  ([0, 1, 2, 3] : List IoDie).flatMap (fun d => [.io d 0 0, .io d 0 1, .io d 1 0, .io d 1 1]) ++ [.mirror 0, .mirror 1]

/-- A retraining that has not ended within its 4 pips has failed (R219). -/
def linksEdge (s : State) : State :=
  allLinks.foldl (fun s l => if (link s (linkNo l)).retrainBy.any (fun k => decide (k < pip s)) then retrainFailed s l else s) s

/-! ## Sleeping domains (R229-R231) -/

def domainNo (d : Domain) : Nat :=
  match d with
  | .engine e => e
  | .stack j => stackDomain j
  | .trio t => 64 + t

def wakeBound (d : Domain) : Nat := match d with | .engine _ => 2 | .stack _ => 3 | .trio _ => 5

def wakeOf (s : State) (d : Domain) : Wake := tget .awake s.net.domains (domainNo d)

def setWake (s : State) (d : Domain) (w : Wake) : State := modNet s (fun n => { n with domains := tset n.domains (domainNo d) w })

/-- A packet for a sleeping domain starts its wake; later packets wait at the boundary. In M9 vectors do not wake a trio (R230). -/
def domainWake (s : State) (d : Domain) : State := domainPacket s (domainNo d)

def execDomainWake (d : Domain) (s : State) : Res := .next (whenServing s (domainWake s d))

/-- A trio runs again: both L1 arrays of every member are invalid before its first instruction (R230). -/
def unparkTrio (s : State) (n : Nat) : State :=
  l1Invalidate (l1Invalidate (modTrio s n (fun t => { t with parked := false, idlePips := 0 })) (2 * n) true) (2 * n + 1) true

/-- The requests that waited for a stack's wake go on at their homes (R229). -/
def stackRequests (s : State) (j : Nat) : State :=
  (((s.coh.homes.filter (fun e => !e.2.queue.isEmpty)).map (·.1)).filter (fun ln => decide (stackOf s (ln * 128) = some j))).foldl
    (fun s ln => settleLine (drainHome s ln) ln) s

/-- The end of a wake. A unit that was fenced or lost its power meanwhile stays so. -/
def domainAwake (s : State) (d : Domain) : State :=
  let s1 := setWake s d .awake
  match d with
  | .engine e => if (eng s e).state = .waking then modEng s1 e (fun x => { x with state := .active }) else s1
  | .stack j => stackRequests (modStack s1 j (fun x => { x with
      state := if x.state = .selfRefresh then .active else x.state, idlePips := 0 })) j
  | .trio t => unparkTrio s1 t

def execDomainWakeDone (d : Domain) (s : State) : Res :=
  .next (whenServing s (match wakeOf s d with | .waking _ _ => domainAwake s d | _ => s))

/-- DETAIL of WAKE_OVERRUN (R516). -/
def wakeDetail (d : Domain) : Nat :=
  match d with
  | .engine e => place e 8
  | .stack j => 1 + place j 8
  | .trio t => 2 + place t 8

/-- The die of a domain, which reports its overrun: H0, H1, IO0-IO3. -/
def domainDie (d : Domain) : Nat := match d with | .engine e => 2 + e / 8 | .stack j => j / 4 | .trio t => t / 32

/-- The wake has gone 1 pip past its bound (R231). -/
def execWakeOverrun (d : Domain) (s : State) : Res :=
  .next (whenServing s (match wakeOf s d with
    | .waking k _ => if k + wakeBound d + 1 ≤ pip s then report s (Pt.wakeOverrun (domainDie d)) (wakeDetail d) else s
    | _ => s))

/-! ## Clock domains (R37) -/

/-- The groups of R37's table in its order: how many domains, and the fixed frequency in kHz; the cores' own is in the trio or the spare. -/
def clockGroups : List (Nat × Nat) :=
  [(80, 0), (32, 2400000), (4, 2400000), (8, 3200000), (24, 1200000), (4, 2000000), (64, 1328125), (8, 1000000), (32, 2000000), (8, 400000)]

/-- Number of synchronous domains. -/
def clockDomains : Nat := (clockGroups.map (·.1)).foldl (· + ·) 0

/-- Group of a domain and its place in the group. -/
def clockGroupOf : List (Nat × Nat) → Nat → Nat → Option (Nat × Nat × Nat)
  | [], _, _ => none
  | (n, f) :: rest, g, k => if k < n then some (g, k, f) else clockGroupOf rest (g + 1) (k - n)

/-- The sleeping domain of R229 that a clock domain belongs to: 3 of each stack, one of each engine, one of each trio. -/
def sleepDomain (group k : Nat) : Option Nat :=
  match group with
  | 0 => if k < 64 then some (64 + k) else none
  | 4 => some (stackDomain (k / 3))
  | 8 => some k
  | _ => none

/-- Frequency of clock domain `d` in kHz, 0 while it is gated: every domain but the service die's while the dies have no power, and one
that sleeps (R25, R37, R229). -/
def domainKhz (s : State) (d : Nat) : Nat :=
  match clockGroupOf clockGroups 0 d with
  | none => 0
  | some (g, k, f) =>
    if !timeRuns s || (g != 9 && !diesPowered s) then 0
    else if (sleepDomain g k).any (fun n => decide (tget .awake s.net.domains n = .asleep)) then 0
    else if g = 0 then 1000 * (if k < 64 then (trio s k).clk else spareClk s (k - 64))
    else f

/-! ## Dead targets (R232-R235) -/

/-- The pip from which the timer of R232 may run for a target: while it is waking within its bound it does not, and it runs from the pip in
which the wake exceeds the bound (R231). -/
def timerFrom (s : State) (h : Nat) : Nat :=
  (s.net.domains.map (fun e => match e.2 with
    | .waking k _ =>
      let hullOf := if e.1 < 32 then some (HullAt.engine e.1) else if e.1 < 64 then some (HullAt.stack (e.1 - 32)) else none
      let bound := if e.1 < 32 then 2 else 3
      if hullOf = some h then k + bound + 1 else 0
    | _ => 0)).foldl max 0

/-- The die of an agent: H0, H1, IO0-IO3. -/
def agentDie (a : Nat) : Nat := if 128 ≤ a then 2 + (a - 128) else a / 64

/-- Hull positions of the units that answer a request for a line. -/
def lineTargets (s : State) (ln : Nat) : List Nat :=
  homeHulls s ln ++ (match cxlPortOf (ln * 128) with
    | some k => [HullAt.cxl k]
    | none => (match stackOf s (ln * 128) with | some j => [HullAt.stack j] | none => []))

/-- Requests without a response: the requester's die, the target's hull position and the pip of the request. -/
def unanswered (s : State) : List (Nat × Nat × Nat) :=
  s.coh.out.flatMap (fun o => (lineTargets s o.line).map (fun h => (agentDie o.agent, h, o.since))) ++
  (s.coh.net.filter (fun m => m.kind = .fwdShared || m.kind = .fwdOwn || m.kind = .inval)).flatMap
    (fun m => (agentHulls m.agent).map (fun h => (homeHalf s m.line, h, m.since))) ++
  (s.jobs.filter (fun j => decide (j.st = .running))).flatMap
    (fun j => match j.engine with | some e => [(2 + j.die, HullAt.engine e, j.since)] | none => []) ++
  s.lcores.flatMap (fun e => match e.2.replay with
    | some r => (match r.die with | some d => [(lcoreHalf e.1, HullAt.die (2 + d), r.since)] | none => [])
    | none => [])

/-- A request of `reporter` to the target has had no response across 8 consecutive pip edges (R231, R232). -/
def silent (s : State) (reporter target : Nat) : Bool :=
  (unanswered s).any (fun q => q.1 == reporter && q.2.1 == target && decide (max q.2.2 (timerFrom s target) + 8 ≤ pip s))

/-- A requester has had no response across 8 pip edges and reports it. The collector's class action declares the target dead at the next
edge. -/
def execNetTimeout (reporter : DieNo) (target : HullPos) (s : State) : Res :=
  .next (whenPowered s (if silent s reporter target then report s (Pt.netTimeout reporter) target else s))

def execHullPlacement (target : HullPos) (s : State) : Res := .next (placeHull s target)

/-- A message at a hull: a request is consumed and answered ISOLATED, a posted write or a response to the target is dropped, a message
from the target is discarded. -/
def execHullArrival (h : HullPos) (m : HullMsg) (s : State) : Res :=
  .next (
    if (hull s h).active then modHull s h (fun x => match m with
      | .request => { x with isoCount := x.isoCount + 1 }
      | .posted | .response => { x with dropped := x.dropped + 1 }
      | .fromTarget => { x with late := x.late + 1 })
    else s)

/-! ## Split-link isolation (R237-R241) -/

/-- All four links are down. The seed holder sees over the management links whether each half is healthy: M7 is committed when both are, else
the loss is a fault of the half that is not (R237). -/
def execSplitLinkIsolation (s : State) : Res :=
  let ok := fun (h : Nat) => s.net.healthy.getLsbD h
  .next (
    if s.mode.base = 5 ∧ s.mode.mode ≠ 11 ∧ !s.mode.split ∧ d2dUp s = 0 ∧ !dieLost s 0 ∧ !dieLost s 1 ∧ (actingHusk s).isSome then
      (if ok 0 ∧ ok 1 then enterSplit s
       else
         let s1 := if ok 0 then s else loseDie s 0
         if ok 1 then s1 else loseDie s1 1)
    else s)

/-- A spanning partition with no accepted exchange left is restarted in its home half or stays held (R238). -/
def execSpanningPartitionEvaluate (p : PartNo) (s : State) : Res :=
  .next (whenServing s (
    if (part s p).evaluate ∧ (part s p).state = .held ∧
        !s.exchs.any (fun e => e.part == p.val && isAccepted e && decide (exRank e.st < 10)) then
      evaluate s p (if (part s p).homeHalf = 0 then s.mode.m7Free.1 else s.mode.m7Free.2)
    else s))

/-- In M7 the links are retrained every 1,000 pips; with at least 2 up the module leaves M7 through M10 (R241, R493). -/
def execM7Retrain (up : BitVec 4) (s : State) : Res :=
  .next (whenServing s (
    if s.mode.split ∧ s.net.lastRetrain + 1000 ≤ pip s then
      let s1 := forEach s [0, 1, 2, 3] (fun s i => modLink s i (fun x => if up.getLsbD i then {} else { x with up := false }))
      let s2 := d2dFlag (modNet s1 (fun n => { n with lastRetrain := pip s, lastLinkDown := if up = 0#4 then n.lastLinkDown else none }))
      if 2 ≤ d2dUp s2 then settle (modModeS s2 (fun m => { m with split := false, rejoining := m.rejoining ++ [8] })) else s2
    else s))

/-! ## Self-stop (R240, R390) -/

/-- The pips without a renewal after which a die stops itself: LEASE + GUARD. -/
def leaseGuard : Nat := 2100

/-- A half stops itself: it is lost with its cores, its I/O-to-half links are fenced, and its stacks are held in self-refresh as in M11
(R240). -/
def stopHalf (s : State) (h : Nat) : State :=
  let s1 := loseDie s h
  let s2 := forEach s1 ((List.range 4).map (fun q => 4 * h + q)) (fun s j => modStack s j (fun x =>
    { x with state := if x.state = .fenced ∨ x.state = .unpowered then x.state else .selfRefresh }))
  forEach s2 ((List.range 4).flatMap (fun d => [4 + 4 * d + 2 * h, 5 + 4 * d + 2 * h])) (fun s l =>
    modLink s l (fun _ => { up := false, downForRejoin := true }))

/-- A half or I/O die that no renewal has reached in 2,100 pips stops itself; the module enters M11 when neither half runs. -/
def execDieSelfStop (d : DieNo) (s : State) : Res :=
  .next (
    if 2 ≤ s.mode.base ∧ s.mode.mode ≠ 11 ∧ !dieLost s d ∧ tget 0 s.net.renewSeen d + leaseGuard + 1 ≤ pip s then
      (if d.val < 2 then stopHalf s d else loseDie s d)
    else s)

end Sys2Proof.Machine
end

