-- ==== Sys2Proof/Machine/Packets.lean ====
section
/-! DEFINITION. Command packets (R397-R411): senders and privilege, the checks on a request, replies, kept replies, polls, long
operations and refusals. What each opcode does stands in the files of its group. -/

namespace Sys2Proof.Machine

namespace St
def ok : Nat := 0x00
def acceptedLong : Nat := 0x01
def running : Nat := 0x02
def pending : Nat := 0x03
def ignored : Nat := 0x10
def refused : Nat := 0x11
def badParam : Nat := 0x12
def badLevel : Nat := 0x13
def busy : Nat := 0x14
def notReady : Nat := 0x15
def noPoll : Nat := 0x16
def placement : Nat := 0x20
def overlap : Nat := 0x21
def noPath : Nat := 0x22
def failed : Nat := 0x23
def storeFull : Nat := 0x24
end St

/-! ## The opcode table (R405, R287, R336, R383) -/

/-- Classes of modes in which an opcode is valid (R405). -/
inductive ModeClass where
  | a | d | s
deriving DecidableEq, Repr

structure CmdInfo where
  expert : Bool
  modes : ModeClass
  long : Bool
deriving DecidableEq, Repr

def inModes (m : Nat) (c : ModeClass) : Bool :=
  match c with
  | .a => decide (1 ≤ m ∧ m ≤ 11)
  | .d => decide (3 ≤ m ∧ m ≤ 10)
  | .s => decide (5 ≤ m ∧ m ≤ 10)

/-- SLICE_LOG is long for SWITCH and STOP; its action is parameter byte 2 (LOG 31). -/
def infoOf (opcode : Nat) (params : List Byte) : Option CmdInfo :=
  let b := fun m l => some { expert := false, modes := m, long := l : CmdInfo }
  let x := fun m l => some { expert := true, modes := m, long := l : CmdInfo }
  match opcode with
  | 0x0101 | 0x0102 => b .a false
  | 0x0103 => x .s false
  | 0x0104 => x .a false
  | 0x0201 => x .s false
  | 0x0202 => b .s false
  | 0x0203 => b .s true
  | 0x0204 => x .s true
  | 0x0205 => x .s false
  | 0x0206 => b .s true
  | 0x0207 | 0x0208 => b .s false
  | 0x0209 => b .s true
  | 0x020A => x .s (leAt params 2 1 != 0)
  | 0x020B | 0x020C => b .s false
  | 0x0301 | 0x0302 | 0x0303 | 0x0304 | 0x0305 | 0x0306 => b .a false
  | 0x0307 => x .a false
  | 0x0401 | 0x0402 | 0x0403 => b .a false
  | 0x0404 => x .s false
  | 0x0405 | 0x0406 => b .s true
  | 0x0501 => b .s false
  | 0x0502 => b .s true
  | 0x0503 | 0x0504 => x .s false
  | 0x0505 => b .s false
  | 0x0506 => b .s true
  | 0x0507 => b .s false
  | 0x0508 => b .s true
  | 0x0601 => b .s false
  | 0x0602 | 0x0603 => b .s true
  | 0x0604 => b .s false
  | 0x0605 => x .s false
  | 0x0701 => b .a false
  | 0x0702 => b .d true
  | 0x0703 => x .a false
  | 0x0704 => b .s false
  | 0x0705 | 0x0706 => b .s true
  | 0x0707 => b .a false
  | 0x0708 => x .a false
  | 0x0709 => x .d true
  | 0x0801 => b .s false
  | 0x0802 => x .s false
  | 0x0803 => b .s false
  | 0x0804 => b .a false
  | 0x0805 => b .s true
  | 0x0806 | 0x0807 => b .a false
  | _ => none

/-! ## Requests and senders (R397, R398) -/

/-- The 48 parameter bytes: those given, then zeros. -/
def params48 (q : Request) : List Byte := padTo 48 q.params

/-- Parameter bytes [i, i + n) as a number. -/
def par (q : Request) (i n : Nat) : Nat := leAt (params48 q) i n

def isExpert (q : Request) : Bool := q.flags.getLsbD 0
def isPoll (q : Request) : Bool := q.flags.getLsbD 1

/-- A request that breaks R397. -/
def malformed (q : Request) : Bool :=
  decide (4 ≤ q.flags.toNat ∨ 48 < q.paramLength.toNat ∨ 48 < q.params.length) || (q.params.drop q.paramLength.toNat).any (· != 0#8)

/-- Sender identity: SOURCE and bus address, or SOURCE and partition. -/
def senderKey (q : Request) : Nat := q.source.toNat * 256 + q.addr.toNat

/-- The partition whose command mailbox sent the request. -/
def senderPart (q : Request) : Option Nat :=
  if 16 ≤ q.source.toNat ∧ q.source.toNat < 32 then some (q.source.toNat - 16) else none

/-- A partition sender is privileged only for its own slices, for PART_STATUS of its own partition and for SLICE_LOG of its slices
(R336). -/
def partPrivileged (s : State) (p opcode : Nat) (q : Request) : Bool :=
  let own := fun n => decide ((sliceE s n).state ≠ .free) && (sliceE s n).part == p
  match opcode with
  | 0x0207 | 0x020C => par q 0 1 == p
  | 0x0208 | 0x0209 | 0x020A | 0x020B => own (par q 0 2)
  | _ => false

/-- Whether a request comes from a privileged sender (R336, R398). -/
def privileged (s : State) (opcode : Nat) (q : Request) : Bool :=
  match senderPart q with
  | some p => partPrivileged s p opcode q
  | none => (senderTable s).contains (q.source.toNat, q.addr.toNat)

/-- Bytes 8-15 as the hardware writes them (R397). -/
def senderBytes (q : Request) (priv : Bool) : List Byte :=
  [q.source, q.addr, if priv then 1#8 else 0#8, 0#8] ++ leBytes 4 (q.arrival.toNat % 2 ^ 32)

/-! ## The husk that acts (R385, R388) -/

/-- The standby. -/
def standbyStat (s : State) : HuskStat :=
  match holderId s with
  | some h => (huskOf s (otherHusk h)).stat
  | none => .idle

/-- SEED as it reads (R385). -/
def seedWord (s : State) : W64 :=
  let x := s.husks.seed
  let sb := match holderId s, standbyStat s with
    | none, _ => 4
    | _, .ready => 0
    | _, .rejoin => 1
    | _, .selfTest => 2
    | _, .out => 3
    | _, _ => 4
  BitVec.ofNat 64 (place (x.lastRenew % 2 ^ 32) 32 + place (x.epoch % 256) 24 + place (sat 4 x.failsB) 20 + place (sat 4 x.failsA) 16 +
    place sb 12 + place x.lastChange 8 + flag x.released 7 + x.holder)

/-! ## Replies (R399, R400, R403) -/

/-- What a command answers to a sender that may give it. -/
inductive Answer where
  /-- done, with its result -/
  | ok (s : State) (result : List Byte)
  /-- no effect, with this status -/
  | no (status : Nat)
  /-- a long operation has started -/
  | long (s : State) (k : LongKind)

abbrev Handler := State → Request → Answer

/-- Pips after the take at which a reply can be read: 1 to 3, left open by R401 and R395. -/
def replyDelay (s : State) : Nat := 1 + (Config.free s.free).toNat % 3

/-- A reply becomes readable; with `keep` it is the sender's kept reply (R403), which the standby must have first (R395). -/
def postReply (s : State) (opcode : Nat) (q : Request) (status progress : Nat) (result : List Byte) (delay : Nat) (keep : Bool) : State :=
  let k : Kept := { opcode := opcode, seq := q.seq.toNat, nonce := q.nonce.toNat, flags := q.flags.toNat, status := status
                    progress := progress, resultLength := result.length, result := padTo 48 result, readyAt := pip s + delay, copied := !keep }
  modHusks s (fun h => { h with
    shown := tset h.shown (senderKey q) k
    kept := if keep then tset h.kept (senderKey q) k else h.kept
    mirrorDirty := true })

/-- A reply under the bound of R401; its pip is a free value (LOG 9). -/
def reply (s : State) (opcode : Nat) (q : Request) (status progress : Nat) (result : List Byte) : State :=
  postReply { s with free := s.free + 1 } opcode q status progress result (replyDelay s) true

/-- A reply can be read: its pip has come, and it is with the standby where one is READY (R395, R401). -/
def readable (s : State) (k : Kept) : Bool := decide (k.readyAt ≤ pip s) && (k.copied || decide (standbyStat s ≠ .ready))

/-- The 64 bytes that a read returns (R399, R400); all zero before the first request of the identity. -/
def replyBytes (s : State) (key : Nat) : List Byte :=
  match tfind s.husks.shown key with
  | none => List.replicate 64 0#8
  | some k =>
    let ready := readable s k
    leBytes 2 k.opcode ++ leBytes 2 k.seq ++ leBytes 2 (if ready then k.status else St.pending) ++ leBytes 1 k.flags ++
      leBytes 1 k.nonce ++ leBytes 4 (if ready then k.progress else 0) ++ leBytes 2 (if ready then k.resultLength else 0) ++ [0#8, 0#8] ++
      (if ready then k.result else List.replicate 48 0#8)

def countIgnored (s : State) : State := modHusks s (fun h => { h with ignored := h.ignored + 1 })

/-! ## Long operations (R401, R402) -/

def maxLong : Nat := 16

def openOps (s : State) : Nat := (s.husks.longOps.filter (fun o => !o.done)).length

/-- The operation that a request started. -/
def opOf (s : State) (opcode : Nat) (q : Request) : Option LongOp :=
  s.husks.longOps.find? (fun o => o.opcode == opcode && o.source == q.source.toNat && o.addr == q.addr.toNat &&
    o.seq == q.seq.toNat && o.nonce == q.nonce.toNat)

/-- Another operation of the same sender with these numbers is forgotten when a new one starts. -/
def startOp (s : State) (opcode : Nat) (q : Request) (k : LongKind) : State :=
  let o : LongOp := { key := s.husks.opCount, opcode := opcode, source := q.source.toNat, addr := q.addr.toNat, seq := q.seq.toNat
                      nonce := q.nonce.toNat, kind := k, since := pip s }
  modHusks s (fun h => { h with
    longOps := h.longOps.filter (fun p => !(p.opcode == opcode && p.source == o.source && p.addr == o.addr && p.seq == o.seq && p.nonce == o.nonce))
                 ++ [o]
    opCount := h.opCount + 1 })

/-- A finished operation is kept until the sender's next request (R400). -/
def dropFinished (s : State) (q : Request) : State :=
  modHusks s (fun h => { h with
    longOps := h.longOps.filter (fun o => !(o.done && o.source == q.source.toNat && o.addr == q.addr.toNat)) })

/-! ## Taking a request (R401-R408) -/

/-- The checks before a command is carried out, in this order: malformed, poll, illegal sequence, level, BUSY (LOG 32); the status, or
none. -/
def precheck (s : State) (opcode : Nat) (q : Request) : Option Nat :=
  if malformed q then some St.badParam
  else if isPoll q then (if (opOf s opcode q).isSome then none else some St.noPoll)
  else match infoOf opcode (params48 q) with
    | none => some St.ignored
    | some i =>
      if !inModes s.mode.mode i.modes then some St.ignored
      else if i.expert && !isExpert q then some St.badLevel
      else if i.long && decide (maxLong ≤ openOps s) then some St.busy
      else none

/-- The status that a privileged sender would receive. -/
def wouldBe (s : State) (opcode : Nat) (q : Request) (h : Handler) : Nat :=
  match precheck s opcode q with
  | some c => c
  | none =>
    if isPoll q then St.running
    else match h s q with
      | .ok _ _ => St.ok
      | .no c => c
      | .long _ _ => St.acceptedLong

/-- A privileged request (R402, R407). -/
def serveOpen (s : State) (opcode : Nat) (q : Request) (h : Handler) : State :=
  match precheck s opcode q with
  | some c => reply (if c = St.ignored then countIgnored s else s) opcode q c 0 []
  | none =>
    if isPoll q then
      (match opOf s opcode q with
       | some o => if o.done then reply s opcode q o.status o.progress o.result else reply s opcode q St.running o.progress o.result
       | none => s)
    else match h s q with
      | .ok s1 r => reply s1 opcode q St.ok 0 r
      | .no c => reply (if c = St.ignored then countIgnored s else s) opcode q c 0 []
      | .long s1 k => reply (startOp s1 opcode q k) opcode q St.acceptedLong 0 []

/-- Opcodes that an unprivileged sender may execute (R408). -/
def openToAll (opcode : Nat) : Bool := opcode == 0x0101 || opcode == 0x0707

/-- Entries of the privileged refusal log. -/
def privLogSize : Nat := 64

/-- REFUSED, readable at the edge of pip t + 4 exactly, with the reason in the refusal log (R408, R522). -/
def refuse (s : State) (opcode : Nat) (q : Request) (status : Nat) : State :=
  let reason := if status = St.ok ∨ status = St.acceptedLong ∨ status = St.running then 0x11 else status % 256
  let s1 := if status = St.ignored then countIgnored s else s
  let e : PrivEntry := { stamp := now s, sender := senderBytes q false, opcode := opcode, reason := reason }
  postReply (modHusks s1 (fun h => { h with privLog := (e :: h.privLog).take privLogSize })) opcode q St.refused 0 [] 4 false

/-- The holder takes a request in this pip. A repeated request is answered from the kept reply (R403). -/
def takeRequest (s : State) (opcode : Nat) (q : Request) (h : Handler) : State :=
  let again := match tfind s.husks.kept (senderKey q) with
    | some k => if !isPoll q && k.nonce == q.nonce.toNat && k.seq == q.seq.toNat then some k else none
    | none => none
  match again with
  | some k =>
    modHusks { s with free := s.free + 1 } (fun x => { x with
      shown := tset x.shown (senderKey q) { k with readyAt := pip s + replyDelay s }, mirrorDirty := true })
  | none =>
    let s1 := if isPoll q then s else dropFinished s q
    if privileged s opcode q then serveOpen s1 opcode q h
    else
      let w := wouldBe s1 opcode q h
      if openToAll opcode && w == St.ok && !isPoll q then serveOpen s1 opcode q h else refuse s1 opcode q w

/-! ## Queues (R21, R401, R436) -/

def busQueue : Nat := 8

def busOf (q : Request) : Option Bus := if q.source = 1#8 then some .mbA else if q.source = 2#8 then some .mbB else none

def mbus (s : State) (b : Bus) : MBus := match b with | .mbA => s.husks.mbA | .mbB => s.husks.mbB

def modBus (s : State) (b : Bus) (f : MBus → MBus) : State :=
  modHusks s (fun x => match b with | .mbA => { x with mbA := f x.mbA } | .mbB => { x with mbB := f x.mbB })

def cmdMbx (s : State) (p : Nat) : CmdMbx := tget {} s.husks.mailboxes p

def modCmdMbx (s : State) (p : Nat) (f : CmdMbx → CmdMbx) : State :=
  modHusks s (fun x => { x with mailboxes := tmod {} x.mailboxes p f })

/-- The module takes commands on the request's bus: it is not marked failed (R507). -/
def busUp (s : State) (q : Request) : Bool := match busOf q with | some b => !(mbus s b).failed | none => true

/-- A request joins its bus's queue, or its partition's mailbox; a full one takes it not, nor does a failed bus. -/
def enqueue (s : State) (r : QReq) : State :=
  match busOf r.q, senderPart r.q with
  | some b, _ => if busUp s r.q ∧ (mbus s b).queue.length < busQueue then modBus s b (fun m => { m with queue := m.queue ++ [r] }) else s
  | none, some p => if (cmdMbx s p).queued.isNone then modCmdMbx s p (fun m => { m with queued := some r }) else s
  | none, none => s

/-- The last grain of the husk loop's window (R40). -/
def loopEnd : Nat := 767

/-- The holder takes requests now: its loop of this pip has begun, its window lasts and activity 6 has not overrun, and the snapshot holds
the request, which was stamped before grain 16 and came on a bus in service (R21, R40, R42, R48, R507). -/
def taking (s : State) (q : Request) : Bool :=
  timeRuns s && (actingHusk s).isSome && s.time.loopPip == some (pip s) && decide (s.time.grain ≤ loopEnd) && !overran s 6 &&
  decide (q.arrival.toNat < pip s * 1024 + 16) && busUp s q

/-- A request of one opcode meets the holder in its loop, or is queued for it (R21, R401). In M0, and while RESET_N is low, nothing runs
(R25, R34). -/
def serve (s : State) (opcode : Nat) (q : Request) (h : Handler) : State :=
  if taking s q then takeRequest s opcode q h else if timeRuns s then enqueue s { opcode := opcode, q := q } else s

end Sys2Proof.Machine
end

