-- ==== Sys2Proof/Machine/CmdChannels.lean ====
section
/-! DEFINITION. The channel commands, 0x05xx (R244-R248, R287, R288, R323, R324, R327, R330), and the engine commands, 0x06xx (R359, R382,
R383). Parameter bytes that the spec does not place are the model's own (LOG 31). -/

namespace Sys2Proof.Machine

/-! ## Path groups -/

def groupPar (q : Request) : Option Nat := if par q 0 2 < 512 then some (par q 0 2) else none

def freeGroup (s : State) : Option Nat := (List.range 512).find? (fun g => !(group s g).opened)

/-- The channel list: [0] count, [4 + 2i] channel i. -/
def channelList (q : Request) : List Nat := (List.range (min 8 (par q 0 1))).map (fun i => par q (4 + 2 * i) 2)

def distinct : List Nat → Bool
  | [] => true
  | x :: xs => !xs.contains x && distinct xs

/-- A channel list that PG_OPEN takes (R243, R288, R327). -/
def listOk (s : State) (l : List Nat) : Bool :=
  distinct l && l.all (fun n => decide (n < 512) && (chan s n).group.isNone) &&
  (match l with
   | [] => false
   | n :: _ => l.all (fun m => chanDie m / 2 == chanDie n / 2 && isExpress m == isExpress n))

/-- A LINK key that every partition of the group may use (R324, R466, R471) (LOG 89). -/
def linkKeyOk (s : State) (h : Nat) (mask : BitVec 16) : Bool :=
  match keyE s h with
  | some k => k.kind == 3 && !k.barred && decide (mask &&& ~~~k.mask = 0#16)
  | none => false

/-- A channel enters a group: its path starts anew in PROBING, or DOWN without block lock (R307). -/
def joinGroup (s : State) (g i n : Nat) : State :=
  modChan s n (fun c => { c with
    group := some g, pathIndex := i, state := if c.pcs && !ioLost s (chanDie n) then .probing else .down
    epoch := 0, peer := none, txSeq := 0, rxSeq := 0, unacked := [], queued := [], rtoCount := 0, nakFor := none, hellos := 0, helloSent := none
    lastHello := none, seenPip := none, avg := none, lastComplete := none, slowEdges := 0, fastEdges := 0, demoted := false, cur := 0
    retxCount := 0, authFail := 0, lossCount := 0, lossReason := 0, discards := 0, frameCounter := 1, goneLeft := 0, nextReady := false })

/-- [1] SINGLE_DIE, [2-3] D, at expert level; [20-27] remote identity, [28-29] partition mask, [30-31] key handle or 0 (R13, R244, R288). -/
def cmdPgOpen (s : State) (q : Request) : Answer :=
  let l := channelList q
  let n := par q 0 1
  let single := if isExpert q then par q 1 1 else 0
  let d := if isExpert q then par q 2 2 else 0
  let mask := BitVec.ofNat 16 (par q 28 2)
  let key := par q 30 2
  if n = 0 ∨ 8 < n ∨ 1 < single ∨ (d ≠ 0 ∧ (d < 5 ∨ 1000 < d)) ∨ mask = 0#16 ∨ !listOk s l ∨ (key ≠ 0 ∧ !linkKeyOk s key mask) then
    .no St.badParam
  else
    let both := bothDies ({ chans := l : Group })
    if !both && single == 0 then .no St.placement
    else match freeGroup s with
      | none => .no St.ignored
      | some g =>
        let x : Group := { opened := true, chans := l, remote := BitVec.ofNat 64 (par q 20 8), mask := mask, singleDie := single == 1
                           isProtected := both && l.all (fun n => !ioLost s (chanDie n))
                           dPips := if d = 0 then 20 else d
                           key := if key = 0 then none else some key
                           keyValue := (match keyE s key with | some k => if key = 0 then none else some k.value | none => none)
                           keyPip := pip s, noPathSince := some (pip s) }
        let s1 := modGroup s g (fun _ => x)
        .ok (l.zipIdx.foldl (fun s e => joinGroup s g e.2 e.1) s1) (leBytes 2 g)

/-- New descriptors naming the group complete with BAD_PATH_GROUP from now on. -/
def cmdPgClose (s : State) (q : Request) : Answer :=
  match groupPar q with
  | none => .no St.badParam
  | some g =>
    if (group s g).opened ∧ !(group s g).closing then .long (modGroup s g (fun x => { x with closing := true })) (.pgClose g)
    else .no St.ignored

/-- A group parameter by its number: 1 D, 2 EXCH_TIMEOUT, 3 NO_PATH_WAIT, 4 ATTEMPT_MAX, 5 MAX_DATA, 6 RTO, 7 RETX_MAX, 8 SLOW_FACTOR in
quarters, 9 SLOW_PIPS, 10 DEMOTE_DIV, 11 REKEY_INTERVAL (R288, R330). -/
def setGroupParam (x : Group) (k v : Nat) : Option Group :=
  let within := fun lo hi (y : Group) => if lo ≤ v ∧ v ≤ hi then some y else none
  match k with
  | 1 => within 5 1000 { x with dPips := v }
  | 2 => within 1 (2 ^ 32 - 1) { x with exchTimeout := v }
  | 3 => within 0 (2 ^ 32 - 1) { x with noPathWait := v }
  | 4 => within 1 15 { x with attemptMax := v }
  | 5 => if v = 256 ∨ v = 512 ∨ v = 1024 ∨ v = 2048 then some { x with maxData := v } else none
  | 6 => within 1 255 { x with rto := v }
  | 7 => within 2 32 { x with retxMax := v }
  | 8 => within 5 32 { x with slowFactor := v }
  | 9 => within 10 1000000 { x with slowPips := v }
  | 10 => within 2 16 { x with demoteDiv := v }
  | 11 => within 1000000 (2 ^ 32 - 1) { x with rekeyInterval := v }
  | _ => none

/-- [0-1] group, [2] parameter, [8-15] value. -/
def cmdPgSet (s : State) (q : Request) : Answer :=
  match groupPar q with
  | none => .no St.badParam
  | some g =>
    if !(group s g).opened then .no St.ignored
    else match setGroupParam (group s g) (par q 2 1) (par q 8 8) with
      | some x => .ok (modGroup s g (fun _ => x)) []
      | none => .no St.badParam

/-- A channel parameter: 1 S, 2 weight, 3 WINDOW, 4 VLAN (0, or VID with the priority in [14:12]), 5 medium (0 CR1, 1 C2M),
6 auto-negotiation and training, 7 precoding (0 off, 1 on, 2 negotiated) (R288, R330). -/
def setChanParam (c : Chan) (k v : Nat) : Option Chan :=
  let within := fun lo hi (y : Chan) => if lo ≤ v ∧ v ≤ hi then some y else none
  match k with
  | 1 => within 1 16 { c with slots := v }
  | 2 => within 1 255 { c with weight := v }
  | 3 => within 64 1024 { c with window := v }
  | 4 =>
    if v = 0 then some { c with vlan := none }
    else if 1 ≤ v % 4096 ∧ v % 4096 ≤ 4094 ∧ v / 4096 ≤ 7 then some { c with vlan := some (v % 4096, v / 4096) } else none
  | 5 => within 0 1 { c with medium := v }
  | 6 => within 0 1 { c with autoNeg := some (v == 1) }
  | 7 => within 0 2 { c with precoding := v }
  | _ => none

/-- [0-1] channel, [2] parameter, [8-15] value. A LIVE path is declared lost (R310, LOG 36). -/
def cmdChSet (s : State) (q : Request) : Answer :=
  let n := par q 0 2
  if 512 ≤ n then .no St.badParam
  else match setChanParam (chan s n) (par q 2 1) (par q 8 8) with
    | some c => .ok (losePath (modChan s n (fun _ => c)) n 6 6) []
    | none => .no St.badParam

/-- [0-1] group, [2] page. Page 0: LATE_DISCARDS, stale discards, unconfirmed aborts, RETAIN and INCARNATION of the far end (4 bytes
each), channels, protected, closing, mirror pair, remote identity. Page k, path k − 1: PATH_STATUS, weight, channel, round trip in
grains, discards, epoch, MAX_OPEN. -/
def cmdPgStatus (s : State) (q : Request) : Answer :=
  match groupPar q with
  | none => .no St.badParam
  | some g =>
    let x := group s g
    let k := par q 2 1
    if !x.opened then .no St.ignored
    else if x.chans.length < k then .no St.badParam
    else if k = 0 then
      .ok s (leBytes 4 (sat 32 x.lateDiscards) ++ leBytes 4 (sat 32 x.staleDiscards) ++ leBytes 4 (sat 32 x.abortUnconfirmed) ++
        leBytes 4 (chan s (x.chans.headD 0)).peerRetain ++ leBytes 4 (x.farIncarnation.getD 0) ++ leBytes 1 x.chans.length ++
        leBytes 1 (if x.isProtected then 1 else 0) ++ leBytes 1 (if x.closing then 1 else 0) ++ leBytes 1 (chanDie (x.chans.headD 0) / 2) ++
        leBytes 8 x.remote.toNat)
    else
      let n := x.chans.getD (k - 1) 0
      let c := chan s n
      .ok s (leBytes 8 (pathStatusWord s n).toNat ++ leBytes 2 c.weight ++ leBytes 2 n ++ leBytes 4 c.rtt ++ leBytes 4 (sat 32 c.discards) ++
        leBytes 1 c.epoch ++ leBytes 2 c.peerMaxOpen)

/-- The parameters of R323; the query goes out at once on a LIVE path, or when one comes. -/
def cmdResumeQuery (s : State) (q : Request) : Answer :=
  match groupPar q with
  | none => .no St.badParam
  | some g =>
    let n := par q 8 1
    if n = 0 ∨ 4 < n then .no St.badParam
    else if !(group s g).opened ∨ (group s g).query.isSome then .no St.ignored
    else
      let x : ResumeQ := { opKey := s.husks.opCount, queryId := s.husks.opCount % 2 ^ 32, since := pip s, incarnation := par q 4 4, sent := false
                           tags := (List.range n).map (fun i => BitVec.ofNat 64 (par q (16 + 8 * i) 8)) }
      .long (sendQuery (modGroup s g (fun y => { y with query := some x })) g) (.resumeQuery g)

/-! ## Ring pairs. Parameters: [0-1] slice, [2] mirror pair -/

/-- Slice and mirror pair. -/
def pairPar (q : Request) : Option (Nat × Nat) :=
  if par q 0 2 < 4096 ∧ par q 2 1 < 2 then some (par q 0 2, par q 2 1) else none

/-- The source is a queue source of the slice's partition (R413). -/
def sourceOk (s : State) (n e : Nat) : Bool := decide (e < 1024) && srcOwner s e == some (sliceE s n).part

/-- Which die of a pair serves: the slice's parity, or the choice made at expert level; a lost die's partner (R248, R272). -/
def serveOf (s : State) (n r : Nat) (choice : Option Nat) : Nat :=
  let d := choice.getD (n % 2)
  if ioLost s (2 * r + d) && !ioLost s (2 * r + (1 - d)) then 1 - d else d

/-- [3] k of the submission ring, [4] k of the completion ring, [5] EXPRESS and [6] SERVE at expert level, [8-15] and [16-23] ring
bases, [24-25] source (R246-R248, R327, R413). -/
def cmdRingSetup (s : State) (q : Request) : Answer :=
  match pairPar q with
  | none => .no St.badParam
  | some (n, r) =>
    let x := isExpert q
    let kOk := fun k => decide (6 ≤ k ∧ k ≤ 16)
    if !kOk (par q 3 1) ∨ !kOk (par q 4 1) ∨ par q 8 8 % 4096 ≠ 0 ∨ par q 16 8 % 4096 ≠ 0 ∨ (x ∧ (1 < par q 5 1 ∨ 1 < par q 6 1)) then
      .no St.badParam
    else if (sliceE s n).state = .free ∨ (ring s (pairKey n r)).active then .no St.ignored
    else if !sourceOk s n (par q 24 2) then .no St.badParam
    else .ok (modRing s (pairKey n r) (fun _ => {
      active := true, express := x && par q 5 1 == 1, serve := serveOf s n r (if x then some (par q 6 1) else none)
      sqK := par q 3 1, cqK := par q 4 1, sqBase := par q 8 8, cqBase := par q 16 8, source := par q 24 2 })) []

/-- Fetch stops; the pair is freed when every accepted exchange is POSTED. -/
def cmdRingTeardown (s : State) (q : Request) : Answer :=
  match pairPar q with
  | none => .no St.badParam
  | some (n, r) =>
    if (ring s (pairKey n r)).active ∧ !(ring s (pairKey n r)).tearing then
      .long (modRing s (pairKey n r) (fun x => { x with tearing := true })) (.ringTeardown n r)
    else .no St.ignored

/-! ## Engine queues -/

/-- [3] k, [4] SERVE at expert level, [8-15] base, [16-17] source (R359, R413). -/
def cmdEngqSetup (s : State) (q : Request) : Answer :=
  match pairPar q with
  | none => .no St.badParam
  | some (n, r) =>
    let x := isExpert q
    if par q 3 1 < 4 ∨ 12 < par q 3 1 ∨ par q 8 8 % 4096 ≠ 0 ∨ (x ∧ 1 < par q 4 1) then .no St.badParam
    else if (sliceE s n).state = .free ∨ (eqq s (pairKey n r)).active then .no St.ignored
    else if !sourceOk s n (par q 16 2) then .no St.badParam
    else .ok (modEq s (pairKey n r) (fun _ => {
      active := true, serve := serveOf s n r (if x then some (par q 4 1) else none), base := par q 8 8, k := par q 3 1
      source := par q 16 2 })) []

def cmdEngqTeardown (s : State) (q : Request) : Answer :=
  match pairPar q with
  | none => .no St.badParam
  | some (n, r) =>
    if (eqq s (pairKey n r)).active ∧ !(eqq s (pairKey n r)).tearing then
      .long (modEq s (pairKey n r) (fun x => { x with tearing := true })) (.engqTeardown n r)
    else .no St.ignored

/-- Every accepted job of the queue ends with ABORTED (R382). -/
def cmdEngqAbort (s : State) (q : Request) : Answer :=
  match pairPar q with
  | none => .no St.badParam
  | some (n, r) =>
    if (eqq s (pairKey n r)).active then .long (abortQueue s n r) (.engqAbort n r) else .no St.ignored

/-- [0] I/O die, [1] half of its engines: eight registers do not fit one reply (LOG 31). -/
def cmdEngStatus (s : State) (q : Request) : Answer :=
  if 4 ≤ par q 0 1 ∨ 2 ≤ par q 1 1 then .no St.badParam
  else .ok s ((List.range 4).flatMap (fun i => leBytes 8 (engStatusWord s (8 * par q 0 1 + 4 * par q 1 1 + i)).toNat))

/-- [0] engine, [1] INLINE_ONLY, [2] whether the engine may sleep. -/
def cmdEngSet (s : State) (q : Request) : Answer :=
  let e := par q 0 1
  if 32 ≤ e ∨ 1 < par q 1 1 ∨ 1 < par q 2 1 then .no St.badParam
  else .ok (modEng s e (fun x => { x with inlineOnly := par q 1 1 == 1, maySleep := par q 2 1 == 1 })) []

/-! ## One row for each opcode -/

def execPgOpen (q : Request) (s : State) : Res := .next (serve s 0x0501 q cmdPgOpen)
def execPgClose (q : Request) (s : State) : Res := .next (serve s 0x0502 q cmdPgClose)
def execPgSet (q : Request) (s : State) : Res := .next (serve s 0x0503 q cmdPgSet)
def execChSet (q : Request) (s : State) : Res := .next (serve s 0x0504 q cmdChSet)
def execRingSetup (q : Request) (s : State) : Res := .next (serve s 0x0505 q cmdRingSetup)
def execRingTeardown (q : Request) (s : State) : Res := .next (serve s 0x0506 q cmdRingTeardown)
def execPgStatus (q : Request) (s : State) : Res := .next (serve s 0x0507 q cmdPgStatus)
def execResumeQuery (q : Request) (s : State) : Res := .next (serve s 0x0508 q cmdResumeQuery)
def execEngqSetup (q : Request) (s : State) : Res := .next (serve s 0x0601 q cmdEngqSetup)
def execEngqTeardown (q : Request) (s : State) : Res := .next (serve s 0x0602 q cmdEngqTeardown)
def execEngqAbort (q : Request) (s : State) : Res := .next (serve s 0x0603 q cmdEngqAbort)
def execEngStatus (q : Request) (s : State) : Res := .next (serve s 0x0604 q cmdEngStatus)
def execEngSet (q : Request) (s : State) : Res := .next (serve s 0x0605 q cmdEngSet)

end Sys2Proof.Machine
end

