-- ==== Sys2Proof/Machine/CmdKeys.lean ====
section
/-! DEFINITION. The key and image commands, 0x08xx (R469, R471-R476). -/

namespace Sys2Proof.Machine

/-! Kinds of keys (R471). -/

namespace KeyKind
def xts : Nat := 1
def gcm : Nat := 2
def link : Nat := 3
def wrap : Nat := 4
end KeyKind

def kindOk (k : Nat) : Bool := decide (1 ≤ k ∧ k ≤ 4)

def maxStored : Nat := 769

def storedKeys (s : State) : Nat := (s.boot.keys.filter (fun e => decide (0x100 ≤ e.1))).length

/-- Lowest free handle of a stored key (R473). -/
def freeHandle (s : State) : Option Nat := ((List.range maxStored).map (· + 0x100)).find? (fun h => (keyE s h).isNone)

/-- Store a key under the lowest free handle, or STORE_FULL with no effect (R473). -/
def storeKey (s : State) (k : KeyE) : Answer :=
  match freeHandle s with
  | none => .no St.storeFull
  | some h => .ok (modBoot s (fun b => { b with keys := tset b.keys h k })) (leBytes 2 h)

/-- [0] kind, [1] directions, [2-3] partition mask. The key and its engine-instance value are drawn (R473). -/
def cmdKeyGenerate (s : State) (q : Request) : Answer :=
  if !kindOk (par q 0 1) ∨ 3 < par q 1 1 then .no St.badParam
  else
    let (s1, w) := useFree s
    storeKey s1 { kind := par q 0 1, dirs := par q 1 1, mask := BitVec.ofNat 16 (par q 2 2), value := Config.keyMaterial s.free
                  inst := w.setWidth 32, stored := true }

/-- [0-1] wrapping handle, [2] kind, [8-47] wrapped key: unwrapped by a WRAP key that permits unwrap. Directions, mask and instance value
of the new key are free values: the spec states none (LOG 37). -/
def cmdKeyImport (s : State) (q : Request) : Answer :=
  let kind := par q 2 1
  if kind ≠ KeyKind.gcm ∧ kind ≠ KeyKind.link ∧ kind ≠ KeyKind.wrap then .no St.badParam
  else match keyE s (par q 0 2) with
    | none => .no St.ignored
    | some w =>
      if w.kind ≠ KeyKind.wrap ∨ !w.dirs.testBit 1 then .no St.badParam
      else match unwrapKey ((keyBytes w).take 32) (slice (params48 q) 8 40) with
        | none => .no St.badParam
        | some v =>
          let (s1, f) := useFree s
          let (s2, g) := useFree s1
          storeKey s2 { kind := kind, dirs := field f 1 0, mask := f.extractLsb' 16 16, value := BitVec.ofNat 512 (ofBE (padTo 64 v))
                        inst := g.setWidth 32, stored := true }

/-- The key is erased at once. A LINK key in use by an open encrypted group stays: an illegal sequence (R475). -/
def cmdKeyDestroy (s : State) (q : Request) : Answer :=
  let h := par q 0 2
  if (keyE s h).isNone ∨ s.groups.any (fun e => e.2.opened && e.2.key == some h) then .no St.ignored
  else .ok (modBoot s (fun b => { b with
    keys := tdel b.keys h
    ivKept := b.ivKept ++ (match tfind b.keys h with | some k => [ivRecord k] | none => []) })) []

/-- Kind, directions, partition mask. -/
def cmdKeyInfo (s : State) (q : Request) : Answer :=
  match keyE s (par q 0 2) with
  | none => .no St.ignored
  | some k => .ok s (leBytes 1 k.kind ++ leBytes 1 k.dirs ++ leBytes 2 k.mask.toNat)

/-- Only an open encrypted group is rekeyed (R326). -/
def cmdRekey (s : State) (q : Request) : Answer :=
  let g := par q 0 2
  if 512 ≤ g then .no St.badParam
  else if (group s g).opened ∧ (group s g).keyValue.isSome ∧ (group s g).rekey.isNone then .long (startRekey s g) (.rekey g)
  else .no St.ignored

def measOf (s : State) (i : Nat) : List Byte := tget (List.replicate 48 0#8) s.boot.meas i

def cmdMeasurementRead (s : State) (q : Request) : Answer :=
  if 8 ≤ par q 0 1 then .no St.badParam else .ok s (measOf s (par q 0 1))

/-- R476. -/
def cmdImageStatus (s : State) (_q : Request) : Answer :=
  let b := s.boot
  .ok s (leBytes 1 b.used ++ leBytes 1 b.result0 ++ leBytes 1 b.result1 ++ [0#8] ++ leBytes 4 b.version0 ++ leBytes 4 b.version1 ++
    leBytes 1 b.svnFused ++ leBytes 1 b.revoked.toNat ++ leBytes 2 b.keys.length ++ List.replicate 32 0#8)

/-! ## One row for each opcode -/

def execKeyGenerate (q : Request) (s : State) : Res := .next (serve s 0x0801 q cmdKeyGenerate)
def execKeyImport (q : Request) (s : State) : Res := .next (serve s 0x0802 q cmdKeyImport)
def execKeyDestroy (q : Request) (s : State) : Res := .next (serve s 0x0803 q cmdKeyDestroy)
def execKeyInfo (q : Request) (s : State) : Res := .next (serve s 0x0804 q cmdKeyInfo)
def execRekey (q : Request) (s : State) : Res := .next (serve s 0x0805 q cmdRekey)
def execMeasurementRead (q : Request) (s : State) : Res := .next (serve s 0x0806 q cmdMeasurementRead)
def execImageStatus (q : Request) (s : State) : Res := .next (serve s 0x0807 q cmdImageStatus)

end Sys2Proof.Machine
end

