-- ==== Sys2Proof/Machine/CmdParts.lean ====
section
/-! DEFINITION. The partition and slice commands, 0x02xx (R331-R338, R347-R351). The spec gives their effects and no packet layout; the
parameter bytes are the model's own (LOG 31). -/

namespace Sys2Proof.Machine

/-! ## Partitions. Parameters: [0] partition -/

def partPar (q : Request) : Option Nat := if par q 0 1 < 16 then some (par q 0 1) else none

/-- [1] home half, [8-15] START, [16-31] LCORES, of a STOPPED partition (R331, R332). A core that joins is emptied first (R337). -/
def cmdPartDefine (s : State) (q : Request) : Answer :=
  match partPar q with
  | none => .no St.badParam
  | some p =>
    let start := par q 8 8
    let mask := BitVec.ofNat 128 (par q 16 16)
    if 1 < par q 1 1 ∨ start % 2 ≠ 0 ∨ (List.range 128).any (fun c => mask.getLsbD c && !lcoreExists s c) then .no St.badParam
    else if (part s p).state ≠ .stopped then .no St.ignored
    else if (List.range 16).any (fun o => o != p && decide ((part s o).lcores &&& mask ≠ 0#128)) then .no St.overlap
    else
      let joining := (List.range 128).filter (fun c => mask.getLsbD c && !(part s p).lcores.getLsbD c)
      let s1 := forEach s joining emptyCore
      .ok (modPart s1 p (fun e => { e with
        defined := true, lcores := mask, homeHalf := par q 1 1, start := BitVec.ofNat 64 start })) []

/-- R335. -/
def cmdPartStart (s : State) (q : Request) : Answer :=
  match partPar q with
  | none => .no St.badParam
  | some p => if (part s p).state = .stopped ∧ startable s p then .ok (startPart s p) [] else .no St.ignored

/-- Resets every slice, then holds the logical cores. -/
def cmdPartStop (s : State) (q : Request) : Answer :=
  match partPar q with
  | none => .no St.badParam
  | some p =>
    if (part s p).state = .stopped ∨ (part s p).state = .resetting then .no St.ignored
    else .long (beginReset s p .stopped) (.partStop p)

/-- [8-15] base, [16-23] size. -/
def cmdPartRangeAdd (s : State) (q : Request) : Answer :=
  match partPar q with
  | none => .no St.badParam
  | some p =>
    let b := par q 8 8
    let n := par q 16 8
    if !rangeOk b n then .no St.badParam
    else if rangeTaken s b n then .no St.overlap
    else if (freeRange s p).isNone then .no St.badParam
    else .long s (.rangeAdd p b n)

/-- [1] range number, of a STOPPED partition. -/
def cmdPartRangeRemove (s : State) (q : Request) : Answer :=
  match partPar q with
  | none => .no St.badParam
  | some p =>
    let r := par q 1 1
    if maxRanges ≤ r ∨ (tget (0, 0) (part s p).ranges r).2 = 0 then .no St.badParam
    else if (part s p).state ≠ .stopped then .no St.ignored
    else .ok (modPart s p (fun e => { e with ranges := tdel e.ranges r })) []

/-- A partition reset; a HELD partition is evaluated with the free memory of now (R239). -/
def cmdPartRestart (s : State) (q : Request) : Answer :=
  match partPar q with
  | none => .no St.badParam
  | some p =>
    match (part s p).state with
    | .stopped | .resetting => .no St.ignored
    | .held => .long (evaluate s p (freeHbm s (part s p).homeHalf)) (.partRestart p)
    | _ => .long (beginRestart s p) (.partRestart p)

/-- [0] state, [1] home half, [2] AUTOSTART, [3] ranges in use, [4-7] dropped writes, [8-15] START, [16-31] LCORES, [32-39] bytes. -/
def cmdPartStatus (s : State) (q : Request) : Answer :=
  match partPar q with
  | none => .no St.badParam
  | some p =>
    let e := part s p
    let st := match e.state with | .stopped => 0 | .running => 1 | .quiesced => 2 | .held => 3 | .resetting => 4
    .ok s (leBytes 1 st ++ leBytes 1 e.homeHalf ++ leBytes 1 (if e.autostart then 1 else 0) ++ leBytes 1 (rangesOf s p).length ++
      leBytes 4 (sat 32 e.dropped) ++ leBytes 8 e.start.toNat ++ leBytes 16 e.lcores.toNat ++ leBytes 8 (partBytes s p))

/-! ## Slices. Parameters: [0-1] slice -/

def slicePar (q : Request) : Option Nat := if par q 0 2 < 4096 then some (par q 0 2) else none

def freeSlice (s : State) : Option Nat := (List.range 4096).find? (fun n => decide ((sliceE s n).state = .free))

/-- [0] partition, [1] CXL use, [4-7] process identifier, [8-15] translation root; the lowest free number and its next generation
(R338). -/
def cmdSliceCreate (s : State) (q : Request) : Answer :=
  match partPar q with
  | none => .no St.badParam
  | some p =>
    let pid := par q 4 4
    if 1 < par q 1 1 ∨ 2 ^ 20 ≤ pid then .no St.badParam
    else if (slicesOf s p).any (fun n => (sliceE s n).pid == pid) then .no St.ignored
    else match freeSlice s with
      | none => .no St.ignored
      | some n =>
        let g := match tfind s.lastGen n with | some g => (g + 1) % 256 | none => 0
        let held := (part s p).state = .held ∨ (part s p).state = .quiesced
        let s1 := modSlice s n (fun _ => { state := if held then .held else .active, part := p, pid := pid, root := par q 8 8 / 4096 % 2 ^ 40 * 4096
                                           cxl := par q 1 1 == 1, gen := g })
        .ok { s1 with lastGen := tset s1.lastGen n g } (leBytes 2 n)

def hasRings (s : State) (n : Nat) : Bool := [0, 1].any (fun r => (ring s (pairKey n r)).active || (eqq s (pairKey n r)).active)

/-- Frees a slice that has no ring pair, nor an engine queue. -/
def cmdSliceDestroy (s : State) (q : Request) : Answer :=
  match slicePar q with
  | none => .no St.badParam
  | some n =>
    if (sliceE s n).state = .free ∨ (sliceE s n).state = .resetting ∨ hasRings s n then .no St.ignored
    else .ok (dropLeaves (modSlice s n (fun e => { e with state := .free, logOn := false })) n 0 0) []

def cmdSliceReset (s : State) (q : Request) : Answer :=
  match slicePar q with
  | none => .no St.badParam
  | some n =>
    if (sliceE s n).state = .free ∨ (sliceE s n).state = .resetting then .no St.ignored
    else .long (startSliceReset s n) (.sliceReset n)

def cmdSliceStatus (s : State) (q : Request) : Answer :=
  match slicePar q with
  | none => .no St.badParam
  | some n => .ok s (leBytes 8 (sliceStatusWord (sliceE s n)).toNat)

/-- SLICE_LOG START, action 0 in [2]: [8-15] LOG_IOVA, [16-23] LOG_PAGES, [24-31] BUF0, [32-39] BUF1 (R347). -/
def cmdSliceLogStart (s : State) (q : Request) : Answer :=
  match slicePar q with
  | none => .no St.badParam
  | some n =>
    let e := sliceE s n
    let iova := par q 8 8
    let pages := par q 16 8
    let bytes := 4 * logAreaBytes pages
    let bufOk := fun b => decide (b % 128 = 0) && inRanges s e.part b bytes
    if iova % 4096 ≠ 0 ∨ 2 ^ 48 ≤ iova ∨ pages = 0 ∨ 2 ^ 28 < pages ∨ !bufOk (par q 24 8) ∨ !bufOk (par q 32 8) then .no St.badParam
    else if e.state = .free ∨ e.logOn then .no St.ignored
    else .ok (modSlice s n (fun e => { e with
      logOn := true, logBuffer := false, logOutside := false, logIova := iova, logPages := pages, buf0 := par q 24 8, buf1 := par q 32 8 })) []

/-- SWITCH, action 1: every die moves to the other buffer (R349). -/
def cmdSliceLogSwitch (s : State) (q : Request) : Answer :=
  match slicePar q with
  | none => .no St.badParam
  | some n =>
    if (sliceE s n).logOn then .long (modSlice s n (fun e => { e with logBuffer := !e.logBuffer })) (.logSwitch n false) else .no St.ignored

/-- STOP, action 2: as SWITCH, and then logging ends (R349). -/
def cmdSliceLogStop (s : State) (q : Request) : Answer :=
  match slicePar q with
  | none => .no St.badParam
  | some n =>
    if (sliceE s n).logOn then .long (modSlice s n (fun e => { e with logBuffer := !e.logBuffer })) (.logSwitch n true) else .no St.ignored

/-- SLICE_LOG by its action byte. -/
def cmdSliceLog (s : State) (q : Request) : Answer :=
  match par q 2 1 with
  | 0 => cmdSliceLogStart s q
  | 1 => cmdSliceLogSwitch s q
  | 2 => cmdSliceLogStop s q
  | _ => .no St.badParam

/-- The request with another SLICE_LOG action, as a row that fixes the action reads it. -/
def withAction (q : Request) (a : Nat) : Request :=
  if 48 < q.params.length then q
  else { q with params := splice (params48 q) 2 [BitVec.ofNat 8 a], paramLength := if q.paramLength.toNat < 3 then 3#16 else q.paramLength }

/-! ## One row for each opcode -/

def execPartDefine (q : Request) (s : State) : Res := .next (serve s 0x0201 q cmdPartDefine)
def execPartStart (q : Request) (s : State) : Res := .next (serve s 0x0202 q cmdPartStart)
def execPartStop (q : Request) (s : State) : Res := .next (serve s 0x0203 q cmdPartStop)
def execPartRangeAdd (q : Request) (s : State) : Res := .next (serve s 0x0204 q cmdPartRangeAdd)
def execPartRangeRemove (q : Request) (s : State) : Res := .next (serve s 0x0205 q cmdPartRangeRemove)
def execPartRestart (q : Request) (s : State) : Res := .next (serve s 0x0206 q cmdPartRestart)
def execSliceCreate (q : Request) (s : State) : Res := .next (serve s 0x0207 q cmdSliceCreate)
def execSliceDestroy (q : Request) (s : State) : Res := .next (serve s 0x0208 q cmdSliceDestroy)
def execSliceReset (q : Request) (s : State) : Res := .next (serve s 0x0209 q cmdSliceReset)
def execSliceLogStart (q : Request) (s : State) : Res := .next (serve s 0x020A (withAction q 0) cmdSliceLogStart)
def execSliceLogSwitch (q : Request) (s : State) : Res := .next (serve s 0x020A (withAction q 1) cmdSliceLogSwitch)
def execSliceLogStop (q : Request) (s : State) : Res := .next (serve s 0x020A (withAction q 2) cmdSliceLogStop)
def execSliceStatus (q : Request) (s : State) : Res := .next (serve s 0x020B q cmdSliceStatus)
def execPartStatus (q : Request) (s : State) : Res := .next (serve s 0x020C q cmdPartStatus)

end Sys2Proof.Machine
end

