-- ==== Sys2Proof/Machine/CmdModule.lean ====
section
/-! DEFINITION. The commands of the module, fault, power and maintenance groups: 0x01xx, 0x03xx, 0x04xx and 0x07xx (R405, R522). -/

namespace Sys2Proof.Machine

/-! ## Registers that the replies carry -/

/-- PIP_STATUS (R36). -/
def pipStatusWord (s : State) : W64 :=
  let t := s.time
  BitVec.ofNat 64 (place (sat 32 t.overrunCount) 32 + place t.lastOverrun 24 + place (sat 8 t.skewMax) 16 + flag t.overrun 2 +
    flag t.refLost 1 + flag t.holdover 0)

/-- MODE_STATUS (R482). -/
def modeStatusWord (s : State) : W64 :=
  let m := s.mode
  BitVec.ofNat 64 (place (m.entryPip % 2 ^ 32) 32 + place m.safeReason 24 + flag s.power.capUnmet 19 + flag s.power.belowZero 18 +
    flag s.power.throttle 17 + flag m.split 11 + flag (!m.rejoining.isEmpty) 10 + flag (quiescedAny s) 9 + flag (degraded s) 8 +
    place m.prev 4 + m.mode)

/-- P, the sum of the three inputs (R483). -/
def powerSum (s : State) : Nat := s.power.vinA + s.power.vinB + s.power.standby

/-! ## 0x01xx -/

def identityPage0 (s : State) : List Byte :=
  leBytes 8 s.ident.moduleId.toNat ++ leBytes 4 s.ident.incarnation.toNat ++
  [match s.ident.code with | .aa => 1#8 | .ab => 2#8, if s.boot.defaulted then 1#8 else 0#8] ++
  leBytes 1 s.mode.mode ++ leBytes 1 s.husks.seed.holder ++ leBytes 4 s.boot.version

def cmdIdentity (s : State) (q : Request) : Answer :=
  let k := par q 0 1
  if 64 < k then .no St.badParam
  else if k = 0 then .ok s (identityPage0 s)
  else .ok s ((List.range 8).flatMap (fun i => leBytes 6 (Config.channelAddress (8 * k - 8 + i)).toNat))

def cmdConfigRead (s : State) (q : Request) : Answer :=
  match entryValue s (par q 0 2) with
  | some v => .ok s v
  | none => .no St.badParam

/-- Only entries marked Run time change, until the next boot (R468). -/
def cmdConfigWrite (s : State) (q : Request) : Answer :=
  let n := par q 0 2
  match entryLen n with
  | none => .no St.badParam
  | some len =>
    let v := slice (params48 q) 8 len
    if !runTimeEntry n then .no St.ignored
    else if !entryInRange n v then .no St.badParam
    else .ok (modBoot s (fun b => { b with entries := tset b.entries n v })) []

/-- Weight that a stack will have at the next boot. -/
def nextWeight (s : State) (j : Nat) : Nat := (stack s j).pendingWeight.getD (stack s j).weight

/-- A pending weight; at least one stack of each range must keep a weight above 0 (R200, R210). -/
def cmdStackWeightSet (s : State) (q : Request) : Answer :=
  let j := par q 0 1
  let w := par q 1 1
  if 8 ≤ j ∨ 8 < w then .no St.badParam
  else
    let s1 := modStack s j (fun x => { x with pendingWeight := some w })
    let (stackTab, _) := rangeStacks (memAll8 s) (if j < 4 then 0 else halfTop)
    if stackTab.all (fun i => nextWeight s1 i == 0) then .no St.badParam else .ok s1 []

/-! ## 0x03xx -/

/-- A record of the log, whole; index 0xFFFF_FFFF gives FC_STATUS and SAFE_CAUSE (R452, R453). -/
def cmdFaultLogRead (s : State) (q : Request) : Answer :=
  let i := BitVec.ofNat 32 (par q 0 4)
  let f := s.faults
  if i = 0xFFFFFFFF#32 then .ok s (leBytes 8 (fcStatusWord s).toNat ++ leBytes 8 f.safeCause.toNat)
  else if (f.head - 1#32 - i).toNat < f.kept then .ok s (tget (List.replicate 48 0#8) f.log (i.toNat % 4096))
  else .no St.badParam

/-- Four entries of the history, the newest being 0 (R448). -/
def cmdHistoryRead (s : State) (q : Request) : Answer :=
  let k := par q 0 1
  if 31 < k then .no St.badParam
  else .ok s ((List.range 4).flatMap (fun i => match s.faults.history[k + i]? with
    | some e => historyBytes e
    | none => List.replicate 12 0#8))

def cmdTrioStatusRead (s : State) (q : Request) : Answer :=
  let n := par q 0 1
  if 64 ≤ n then .no St.badParam else .ok s (leBytes 8 (trioStatusWord s n).toNat)

/-- The counters of TRIO_STATUS (R157). -/
def clearCounters (s : State) (n : Nat) : State := modTrio s n (fun t => { t with ckCount := 0, retryCount := 0, dissentCount := 0 })

def cmdCounterClear (s : State) (q : Request) : Answer :=
  let n := par q 0 1
  if n = 0xFF then .ok (forEach s (List.range 64) clearCounters) []
  else if 64 ≤ n then .no St.badParam
  else .ok (clearCounters s n) []

def cmdHullStatusRead (s : State) (q : Request) : Answer :=
  let h := par q 0 2
  if 256 ≤ h then .no St.badParam else .ok s (leBytes 8 (hullStatusWord (hull s h)).toNat)

def cmdClassRead (s : State) (q : Request) : Answer :=
  let c := par q 0 1
  match classRow c with
  | none => .no St.badParam
  | some r =>
    let v := classCfg s c
    .ok s (leBytes 1 v.n ++ leBytes 1 r.action ++ leBytes 1 (if r.wholeClass then 1 else 0) ++ leBytes 1 (if r.locked then 1 else 0) ++
      leBytes 4 v.w)

/-- New values take effect after the next close (R445, R446). -/
def cmdClassSet (s : State) (q : Request) : Answer :=
  let c := par q 0 1
  let n := par q 1 1
  let w := par q 4 4
  if classSettable c && classValueOk n w then
    .ok (modFaults s (fun f => { f with newClasses := f.newClasses ++ [(c, { n := n, w := w })] })) []
  else .no St.badParam

/-! ## 0x04xx -/

/-- The cap is used by the loop from the next pip on (R483). -/
def cmdCapSet (s : State) (q : Request) : Answer :=
  let v := par q 0 2
  if v < 1000 ∨ 2500 < v then .no St.badParam else .ok (modPower s (fun p => { p with newCap := some v })) []

def meanPower (s : State) : Nat := (s.power.hist.foldl (· + ·) 0) / max 1 s.power.hist.length

def cmdPowerRead (s : State) (_q : Request) : Answer :=
  let p := s.power
  .ok s (leBytes 2 (powerSum s) ++ leBytes 2 p.vinA ++ leBytes 2 p.vinB ++ leBytes 2 p.standby ++ leBytes 2 p.ivrLoss ++
    leBytes 2 (p.newCap.getD p.cap) ++ leBytes 2 (meanPower s) ++ [0#8, 0#8] ++ leBytes 8 (modeStatusWord s).toNat)

/-- 24 sensors from the first, in whole degrees rounded down, 16 bits signed each; zero past the last (LOG 33). -/
def cmdSensorRead (s : State) (q : Request) : Answer :=
  let k := par q 0 2
  if 320 ≤ k then .no St.badParam
  else .ok s ((List.range 24).flatMap (fun i =>
    if k + i < 320 then leBytes 2 ((sensorAt s (k + i) / 8) % 65536).toNat else [0#8, 0#8]))

def cmdTrioClockLimit (s : State) (q : Request) : Answer :=
  let n := par q 0 1
  let f := par q 2 2
  if 64 ≤ n ∨ f < 1200 ∨ 4800 < f ∨ f % 25 ≠ 0 then .no St.badParam else .ok (modTrio s n (fun t => { t with ceil := f })) []

/-- PARK is valid in M5 and M6 while no QUIESCE of the same pip waits (R479, R490). -/
def cmdPark (s : State) (_q : Request) : Answer :=
  if (s.mode.mode = 5 ∨ s.mode.mode = 6) ∧ !s.mode.parkReq ∧ !s.mode.parkCond ∧ s.mode.quiesceReq = 0#16 then
    .long (modModeS s (fun m => { m with parkReq := true })) .park
  else .no St.ignored

def cmdUnpark (s : State) (_q : Request) : Answer :=
  if s.mode.parkCond ∧ !s.mode.unparkReq then .long (modModeS s (fun m => { m with unparkReq := true })) .unpark else .no St.ignored

/-! ## 0x07xx -/

def cmdPipStatusRead (s : State) (_q : Request) : Answer := .ok s (leBytes 8 (pipStatusWord s).toNat)

/-- A range of HBM, aligned to 1 KiB (R204). -/
def cmdDemandScrub (s : State) (q : Request) : Answer :=
  let b := par q 0 8
  let n := par q 8 8
  if b % 1024 ≠ 0 ∨ n % 1024 ≠ 0 ∨ n = 0 ∨ hbmTop < b + n then .no St.badParam
  else
    let s1 := forEach s ((List.range 8).filter (fun j => rangeOnStack s (b, n) j))
      (fun s j => modStack s j (fun x => { x with demandActive := true, demandProgress := 0 }))
    .long s1 (.scrub b n)

/-- The shadow state of a task set, which is its architectural state at the last voted retire point (R112, R137): G0-G31, PC, TEPC, TINFO,
TSTAT, TCAUSE, FSTAT, FEPC, TVEC and the lanes of V0-V15, each as its data and its tag. -/
def shadowBytes (k : Nat) (t : TaskSet) : List Byte :=
  ((List.range 32).map (gread t) ++ [t.pc, t.tepc, t.tinfo, TWord.mkRaw (tstatWord k t.tstat), TWord.mkRaw t.tcause,
    TWord.mkRaw (fstatWord t.fstat), t.fepc, t.tvec] ++
    (List.range 64).map (fun i => TWord.mkRaw (lane (vread t (i / 4)) (i % 4)))).flatMap (fun w => leBytes 8 w.data.toNat ++ [w.tag.setWidth 8])

/-- One byte of a trio dump: of the shadow state, at a place that the spec does not give (LOG 12). -/
def dumpByte (bs : List Byte) (i : Nat) : Byte := bs.getD (Config.shadowPlace i) (Config.shadowPad i)

/-- 40 bytes of the shadow state of a trio's task set from an offset on, readable in every state of the trio (R144, R156, R405). Sets 32-63
of a split trio are those of its second logical core (LOG 12). -/
def cmdTrioDump (s : State) (q : Request) : Answer :=
  let n := par q 0 1
  let k := par q 1 1
  if 64 ≤ n ∨ (if (trio s n).state = .split then 64 else 32) ≤ k then .no St.badParam
  else
    let bs := shadowBytes (k % 32) (taskSet s (2 * n + k / 32) (k % 32))
    .ok s ((List.range 40).map (fun i => dumpByte bs (par q 2 2 + i)))

def rebuilding (s : State) : Bool := s.trios.any (fun e => !e.2.rebuilds.isEmpty)

/-- Matched checksums that SWAP asks for. -/
def swapMatches : Nat := 100

/-- The seed passes to the standby at the edge that begins the next pip (R392). -/
def cmdSwap (s : State) (q : Request) : Answer :=
  match holderId s with
  | none => .no St.notReady
  | some h =>
    let o := huskOf s (otherHusk h)
    if (s.mode.mode = 5 ∨ s.mode.mode = 6) ∧ o.stat = .ready ∧ swapMatches ≤ o.matchPips ∧ !rebuilding s ∧ s.husks.swapReq.isNone then
      .ok (modHusks s (fun x => { x with swapReq := some { opcode := 0x0704, q := q } }))
        [BitVec.ofNat 8 (huskCode (otherHusk h)), BitVec.ofNat 8 (s.husks.seed.epoch + 1)]
    else .no St.notReady

/-- The named partitions that run are to be QUIESCED at the commit of this pip (R479, R489, LOG 34). -/
def cmdQuiesce (s : State) (q : Request) : Answer :=
  let m := BitVec.ofNat 16 (par q 0 2)
  if m = 0#16 then .no St.badParam
  else if (s.mode.mode = 5 ∨ s.mode.mode = 6) ∧ !s.mode.parkReq ∧ !s.mode.parkCond ∧
      (List.range 16).any (fun p => m.getLsbD p && decide ((part s p).state = .running)) then
    .long (modModeS s (fun x => { x with quiesceReq := x.quiesceReq ||| m })) (.quiesce m.toNat)
  else .no St.ignored

/-- Valid while a named partition is QUIESCED (R479). -/
def cmdQuiesceEnd (s : State) (q : Request) : Answer :=
  let m := BitVec.ofNat 16 (par q 0 2)
  if (List.range 16).any (fun p => m.getLsbD p && decide ((part s p).state = .quiesced)) then
    .long (modModeS s (fun x => { x with quiesceEndReq := x.quiesceEndReq ||| m })) (.quiesceEnd m.toNat)
  else .no St.ignored

/-- IGNORED_COUNT is zero for an unprivileged sender (R405, R522). -/
def cmdHuskStatus (s : State) (q : Request) : Answer :=
  .ok s (leBytes 8 (seedWord s).toNat ++ leBytes 4 (if privileged s 0x0707 q then sat 32 s.husks.ignored else 0) ++ leBytes 4 0 ++
    leBytes 8 (match s.husks.lastSwap with | some w => w.toNat | none => 0))

/-- Entry 0 is the newest; an unwritten entry is zero (R522). -/
def cmdPrivLogRead (s : State) (q : Request) : Answer :=
  let k := par q 0 1
  if 63 < k then .no St.badParam
  else .ok s (match s.husks.privLog[k]? with
    | some e => leBytes 8 e.stamp.toNat ++ e.sender ++ leBytes 2 e.opcode ++ leBytes 1 e.reason
    | none => List.replicate 19 0#8)

def huskOfUnit (u : Nat) : HuskId := if u = 6 then .a else .b

/-- Pips that a husk's self-test lasts at most (R396). -/
def selfTestPips : Nat := 1000

/-- A husk is reset into its self-test (R396). -/
def startSelfTest (s : State) (h : HuskId) : State :=
  modHusk s h (fun x => { x with stat := .selfTest, testSince := pip s, copySince := none, matchPips := 0 })

/-- A lost die, or a husk that does not hold the seed and is not OUT (R396, R492, R493, LOG 35). -/
def cmdUnitRejoin (s : State) (q : Request) : Answer :=
  let u := par q 0 1
  if 8 ≤ u then .no St.badParam
  else if u < 6 then
    if dieLost s u ∧ !s.mode.rejoining.contains u then
      .long (settle (modModeS s (fun m => { m with rejoining := m.rejoining ++ [u] }))) (.unitRejoin u)
    else .no St.ignored
  else
    let h := huskOfUnit u
    if (huskOf s h).stat = .ready ∨ (huskOf s h).stat = .idle then .long (startSelfTest s h) (.unitRejoin u) else .no St.ignored

/-! ## One row for each opcode -/

def execIdentity (q : Request) (s : State) : Res := .next (serve s 0x0101 q cmdIdentity)
def execConfigRead (q : Request) (s : State) : Res := .next (serve s 0x0102 q cmdConfigRead)
def execConfigWrite (q : Request) (s : State) : Res := .next (serve s 0x0103 q cmdConfigWrite)
def execStackWeightSet (q : Request) (s : State) : Res := .next (serve s 0x0104 q cmdStackWeightSet)
def execFaultLogRead (q : Request) (s : State) : Res := .next (serve s 0x0301 q cmdFaultLogRead)
def execHistoryRead (q : Request) (s : State) : Res := .next (serve s 0x0302 q cmdHistoryRead)
def execTrioStatusRead (q : Request) (s : State) : Res := .next (serve s 0x0303 q cmdTrioStatusRead)
def execCounterClear (q : Request) (s : State) : Res := .next (serve s 0x0304 q cmdCounterClear)
def execHullStatusRead (q : Request) (s : State) : Res := .next (serve s 0x0305 q cmdHullStatusRead)
def execClassRead (q : Request) (s : State) : Res := .next (serve s 0x0306 q cmdClassRead)
def execClassSet (q : Request) (s : State) : Res := .next (serve s 0x0307 q cmdClassSet)
def execCapSet (q : Request) (s : State) : Res := .next (serve s 0x0401 q cmdCapSet)
def execPowerRead (q : Request) (s : State) : Res := .next (serve s 0x0402 q cmdPowerRead)
def execSensorRead (q : Request) (s : State) : Res := .next (serve s 0x0403 q cmdSensorRead)
def execTrioClockLimit (q : Request) (s : State) : Res := .next (serve s 0x0404 q cmdTrioClockLimit)
def execPark (q : Request) (s : State) : Res := .next (serve s 0x0405 q cmdPark)
def execUnpark (q : Request) (s : State) : Res := .next (serve s 0x0406 q cmdUnpark)
def execPipStatusRead (q : Request) (s : State) : Res := .next (serve s 0x0701 q cmdPipStatusRead)
def execDemandScrub (q : Request) (s : State) : Res := .next (serve s 0x0702 q cmdDemandScrub)
def execTrioDump (q : Request) (s : State) : Res := .next (serve s 0x0703 q cmdTrioDump)
def execSwap (q : Request) (s : State) : Res := .next (serve s 0x0704 q cmdSwap)
def execQuiesce (q : Request) (s : State) : Res := .next (serve s 0x0705 q cmdQuiesce)
def execQuiesceEnd (q : Request) (s : State) : Res := .next (serve s 0x0706 q cmdQuiesceEnd)
def execHuskStatus (q : Request) (s : State) : Res := .next (serve s 0x0707 q cmdHuskStatus)
def execPrivLogRead (q : Request) (s : State) : Res := .next (serve s 0x0708 q cmdPrivLogRead)
def execUnitRejoin (q : Request) (s : State) : Res := .next (serve s 0x0709 q cmdUnitRejoin)

end Sys2Proof.Machine
end

