-- ==== Sys2Proof/Machine/Power.lean ====
section
/-! DEFINITION. Power and thermal control (R483-R487): the snapshot, activity 2 of the husk loop and its commit. Temperatures are in
eighths of a degree, clocks in MHz, powers in watts. -/

namespace Sys2Proof.Machine

def limitTemp : Int := 840
def releaseTemp : Int := 824
def clockFloor : Nat := 1200
def clockStep : Nat := 25
def clockTop : Nat := 4800
/-- Ceiling of a trio with no valid sensor (R484). -/
def blindCeil : Nat := 2400

/-! ## The snapshot (R40, R483, R487) -/

/-- Sensors that differ from the value of an unlisted one (LOG 8) and read below 0 degrees, of the valid ones. -/
def anyBelowZero (s : State) : Bool := s.power.sensors.any (fun e => decide (e.2 < 0) && sensorValid s e.1)

/-- The snapshot of a pip: sensors and input powers, with the ones before kept for a stale snapshot (R42). -/
def latch (s : State) (i : PipInputs) : State :=
  let s1 := modPower s (fun p => { p with
    prev := p.sensors
    prevIn := (p.vinA, p.vinB, p.standby)
    sensors := i.sensors.foldl (fun t e => tset t e.1.val e.2) p.sensors
    vinA := i.vinA
    vinB := i.vinB
    standby := i.standby
    ivrLoss := i.ivrLoss
    hist := (i.vinA + i.vinB + i.standby) :: p.hist.take 999 })
  let below := anyBelowZero s1
  let s2 := modPower s1 (fun p => { p with
    belowZero := below
    warmPips := if s.mode.base = 4 ∧ !below then p.warmPips + 1 else 0 })
  i.stackTab.foldl stackObserved (modNet s2 (fun n => { n with mgmt := i.mgmt, healthy := i.healthy }))

/-! ## Decisions (R484, R485) -/

/-- The reading that the loop acts on: an overrun of the snapshot leaves it the one before (R42). -/
def reading (s : State) (i : Nat) : Int :=
  tget 200 (if s.time.overruns.contains 1 then s.power.prev else s.power.sensors) i

def powerNow (s : State) : Nat :=
  if s.time.overruns.contains 1 then s.power.prevIn.1 + s.power.prevIn.2.1 + s.power.prevIn.2.2
  else s.power.vinA + s.power.vinB + s.power.standby

def hottest (l : List Int) : Option Int := match l with | [] => none | t :: ts => some (ts.foldl max t)

/-- Hottest valid sensor of a list of sensors. -/
def hottestOf (s : State) (l : List Nat) : Option Int := hottest ((l.filter (sensorValid s)).map (reading s))

def memberCores (s : State) (n : Nat) : List Nat := (List.range 3).filterMap (coreOf (trio s n))

/-- Trios that skip the loop: in checkstop, parked, without a running clock, or at step 3 or later of a rebuild (R148, R485). -/
def clockHeld (s : State) (n : Nat) : Bool :=
  let t := trio s n
  t.parked || s.mode.parkCond ||
  (match t.state with
   | .checkstop | .failed | .absent | .unpowered => true
   | _ => false) ||
  t.rebuilds.any (fun r => r.started.isSome && decide (3 ≤ stepOf r.integrate (r.donePips + 1)))

/-- One trio in the loop: its number, F, LIM and its steps so far in this pip. -/
structure ClockRow where
  n : Nat
  f : Nat
  lim : Nat
  steps : Nat := 0
deriving DecidableEq, Repr

/-- The thermal part of the loop for one trio. -/
def thermalRow (s : State) (n : Nat) : ClockRow :=
  let t := trio s n
  let hot := hottestOf s (memberCores s n)
  let ceil := match hot with | none => min t.ceil blindCeil | some _ => t.ceil
  let raw := match hot with
    | none => ceil
    | some x => if limitTemp < x then t.f - clockStep else if releaseTemp < x then t.f else ceil
  let lim := max clockFloor (min raw ceil)
  { n := n, f := min t.f lim, lim := lim }

/-- A thermal limit holds a trio below its ceiling (R484). -/
def thermalHit (s : State) (n : Nat) : Bool :=
  match hottestOf s (memberCores s n) with
  | some x => decide (releaseTemp < x)
  | none => false

def setRow (l : List ClockRow) (r : ClockRow) : List ClockRow := l.map (fun x => if x.n = r.n then r else x)

/-- The trio with the highest F that may still step down; ties go to the lower number. -/
def pickDown (l : List ClockRow) : Option ClockRow :=
  (l.filter (fun r => decide (clockFloor < r.f ∧ r.steps < 8))).foldl
    (fun best r => match best with | none => some r | some b => if b.f < r.f then some r else some b) none

/-- The trio with the lowest F that may step up; ties go to the lower number. -/
def pickUp (l : List ClockRow) : Option ClockRow :=
  (l.filter (fun r => decide (r.f < r.lim ∧ r.steps = 0))).foldl
    (fun best r => match best with | none => some r | some b => if r.f < b.f then some r else some b) none

def stepsDown (k : Nat) (l : List ClockRow) : List ClockRow :=
  match k with
  | 0 => l
  | k + 1 => match pickDown l with
    | none => l
    | some r => stepsDown k (setRow l { r with f := r.f - clockStep, steps := r.steps + 1 })

def stepsUp (k : Nat) (l : List ClockRow) : List ClockRow :=
  match k with
  | 0 => l
  | k + 1 => match pickUp l with
    | none => l
    | some r => stepsUp k (setRow l { r with f := r.f + clockStep, steps := r.steps + 1 })

/-- The most steps that a pip can make: eight for each trio. -/
def maxSteps : Nat := 512

/-- F after the cap's steps, 0.2 W each; with a stale snapshot none goes up (R42, R485). -/
def capSteps (s : State) (l : List ClockRow) : List ClockRow :=
  let p := powerNow s
  let cap := s.power.cap
  if cap < p then stepsDown (min maxSteps (5 * (p - cap))) l
  else if cap - p ≤ 50 ∨ s.time.overruns.contains 1 then l
  else stepsUp (min maxSteps (5 * (cap - p - 50))) l

/-- The further measures: one more in a pip whose P is above the cap while every trio runs at the floor, one less after 1,000
consecutive pips with more than 50 W to spare (R485) (LOG 80). -/
def nextMeasure (s : State) (l : List ClockRow) : State :=
  let p := powerNow s
  let cap := s.power.cap
  let low := decide (p + 50 < cap)
  let lowPips := if low then s.power.lowPips + 1 else 0
  if decide (cap < p) && l.all (fun r => decide ((trio s r.n).f ≤ clockFloor)) then
    let m := min 3 (s.power.measure + 1)
    modPower s (fun x => { x with measure := m, lowPips := 0, capUnmet := x.capUnmet || decide (m = 3) })
  else if 1000 ≤ lowPips ∧ s.power.measure ≠ 0 then
    modPower s (fun x => { x with measure := x.measure - 1, lowPips := 0 })
  else modPower s (fun x => { x with lowPips := lowPips })

/-- Sensors of a stack (0-7) and of an I/O die (8 + d), with the limit's hysteresis (R484). -/
def groupSensors (g : Nat) : List Nat :=
  if g < 8 then (List.range 4).map (fun i => 208 + 4 * g + i) else (List.range 10).map (fun i => 272 + 10 * (g - 8) + i)

def groupHot (s : State) (g : Nat) : Bool :=
  match hottestOf s (groupSensors g) with
  | none => false
  | some x => if limitTemp < x then true else if x ≤ releaseTemp then false else s.power.throttled.contains g

/-- Rates of stacks and engines under the limits in force (R484, R485). -/
def applyLimits (s : State) : State :=
  let hot := s.power.throttled
  let m := s.power.measure
  let s1 := forEach s (List.range 8) (fun s j =>
    let lim := hot.contains j || decide (2 ≤ m)
    modStack s j (fun x => { x with
      limited := lim
      state := match x.state with
        | .active => if lim then .throttled else .active
        | .throttled => if lim then .throttled else .active
        | y => y }))
  forEach s1 (List.range 32) (fun s e => modEng s e (fun x => { x with limited := hot.contains (8 + e / 8) || decide (1 ≤ m) }))

/-- Activity 2 of the loop on the snapshot: LIM, the F and the measures that the commit takes up (R485). -/
def powerLoop (s : State) : State :=
  let rows := ((List.range 64).filter (fun n => !clockHeld s n)).map (thermalRow s)
  let out := capSteps s rows
  let s1 := forEach (nextMeasure s rows) (List.range 64) (fun s n => match out.find? (fun r => r.n = n) with
    | some r => modTrio s n (fun t => { t with lim := r.lim })
    | none => s)
  let hot := (List.range 12).filter (groupHot s)
  modPower s1 (fun p => { p with
    staged := out.map (fun r => (r.n, r.f))
    throttled := hot
    throttle := !hot.isEmpty || rows.any (fun r => thermalHit s r.n) })

/-! ## Commit (R41, R486, R505) -/

/-- A trio at the edge after a commit: a step down takes the clock now and the voltage at the next commit's, a step up the voltage now and
the clock at the next (R41, R486). -/
def commitClock (t : Trio) (f : Nat) : Trio :=
  { t with
    f := f
    clk := if f ≤ t.clk then f else max t.clk (min f t.volt)
    volt := max f t.clk }

/-- Pump demand: 10 % in M4, 100 % otherwise (R505). -/
def pumpDemand (s : State) : Nat := if s.mode.mode = 4 then 10 else 100

/-- Fan demand: R505 gives its reset value and no law (LOG 80). -/
def fanDemand (s : State) : Nat := s.power.fan

/-- The commit arms clocks, voltages, the cap and the cooling demand for the next edge. After an overrun of activity 2 every output keeps
its last value for this pip (R41, R42). -/
def commitPower (s : State) : State :=
  if overran s 2 then modPower s (fun p => { p with staged := [] })
  else
    let held := fun (n : Nat) => clockHeld s n
    let clocks : Table Nat :=
      if s.mode.base = 5 ∧ s.mode.mode ≠ 11 then
        ((List.range 64).filter (fun n => !held n)).map (fun n => (n, tget (trio s n).f s.power.staged n))
      else []
    modPower s (fun p => { p with
      staged := []
      newCap := none
      armed := some { clocks := clocks, cap := p.newCap.getD p.cap, pump := pumpDemand s, fan := fanDemand s } })

/-- The cap, pump and fan demand in force from the next edge on. -/
def capOut (s : State) : Nat := match s.power.armed with | some a => a.cap | none => s.power.cap
def pumpOut (s : State) : Nat := match s.power.armed with | some a => a.pump | none => s.power.pump
def fanOut (s : State) : Nat := match s.power.armed with | some a => a.fan | none => s.power.fan

/-- The edge: what was committed takes effect (R40, R41). -/
def armedEdge (s : State) : State :=
  match s.power.armed with
  | none => s
  | some a =>
    let s1 := a.clocks.foldl (fun s e => modTrio s e.1 (fun t => commitClock t e.2)) s
    let s2 := modPower s1 (fun p => { p with armed := none, cap := a.cap, pump := a.pump, fan := a.fan })
    whenServing s2 (applyLimits s2)

end Sys2Proof.Machine
end

