-- ==== Sys2Proof/Machine/Sentry.lean ====
section
/-! DEFINITION. The Sentry bus (R41, R501-R504): the shadow that the commit stages, and the word that each address answers. -/

namespace Sys2Proof.Machine

/-- Word `i` of a 64-bit register. -/
def regHalf (w : W64) (i : Nat) : Half := w.extractLsb' (16 * i) 16

/-- A place's hottest valid sensor in eighths of a degree, 16 bits signed; with no valid sensor a free value. -/
def hotWord (s : State) (place : Nat) (l : List Nat) : Half :=
  match hottest ((l.filter (sensorValid s)).map (sensorAt s)) with
  | some x => BitVec.ofInt 16 x
  | none => Config.blindReading (pip s) place

/-- Sensors of address 0x6C-0x6E: the L3 domains of H0 and of H1, and the service die (R484). -/
def lateSensors (i : Nat) : List Nat :=
  match i with
  | 0 => (List.range 16).map (240 + ·)
  | 1 => (List.range 16).map (256 + ·)
  | _ => (List.range 8).map (312 + ·)

/-- What an address of the shadow is staged with. -/
def stagedWord (s : State) (a : Nat) : Half :=
  if a = 0 then BitVec.ofNat 16 (pip s)
  else if a < 0x04 then 0#16
  else if a < 0x08 then regHalf (modeStatusWord s) (a - 0x04)
  else if a < 0x0C then regHalf (fcStatusWord s) (a - 0x08)
  else if a < 0x10 then regHalf s.faults.safeCause (a - 0x0C)
  else if a < 0x14 then regHalf (pipStatusWord s) (a - 0x10)
  else if a < 0x18 then 0#16
  else if a < 0x1E then
    BitVec.ofNat 16 (match a - 0x18 with
      | 0 => powerSum s | 1 => s.power.vinA | 2 => s.power.vinB | 3 => s.power.standby | 4 => s.power.ivrLoss | _ => capOut s)
  else if a < 0x20 then 0#16
  else if a < 0x60 then hotWord s a (memberCores s (a - 0x20))
  else if a < 0x6C then hotWord s a (groupSensors (a - 0x60))
  else if a < 0x6F then hotWord s a (lateSensors (a - 0x6C))
  else if a < 0x70 then 0#16
  else if a < 0x80 then
    BitVec.ofNat 16 ((List.range 4).map (fun b => place (trioCode (trioShown s (4 * (a - 0x70) + b))) (4 * b))).sum
  else if a < 0x88 then BitVec.ofNat 16 (place (stack s (a - 0x80)).weight 4 + stackCode (stack s (a - 0x80)).state)
  else if a = 0x8C then BitVec.ofNat 16 (place (fanOut s) 8 + pumpOut s)
  else 0#16

/-- Addresses of the shadow. -/
def shadowTop : Nat := 0x8D

def stageShadow (s : State) : State :=
  { s with stagedShadow := some ((List.range shadowTop).map (fun a => (a, stagedWord s a))) }

/-- SEN_STATUS (R503). -/
def senStatus (s : State) : Half :=
  BitVec.ofNat 16 (flag s.husks.mbB.failed 13 + flag s.husks.mbA.failed 12 + flag (!s.pins.thermtripN) 11 + flag s.time.holdover 10 +
    flag s.boot.defaulted 9 + flag (!s.pins.resetN) 8 + place s.mode.prev 4 + s.mode.mode)

/-- The seed word; HOLDER reads 0b00 while no husk acts (R391, R502). -/
def seedHalf (s : State) : Half :=
  BitVec.ofNat 16 (place (s.husks.seed.epoch % 256) 2 + (match actingHusk s with | some h => huskCode h | none => 0))

/-- Addresses whose content is fixed at boot. -/
def bootWord (s : State) (a : Nat) : Half :=
  if a < 0x94 then regHalf s.ident.moduleId (a - 0x90)
  else if a < 0x96 then regHalf (s.ident.incarnation.setWidth 64) (a - 0x94)
  else if a = 0x96 then (match s.ident.code with | .aa => 1#16 | .ab => 2#16)
  else regHalf (BitVec.ofNat 64 s.boot.version) (a - 0x97)

/-- The answer to an address; none in M0, where SEN_D is not driven (R501, R502, R504). -/
def sentryWord (s : State) (a : Byte) : Option Half :=
  let n := a.toNat
  if !s.pins.standbyGood then none
  else if n = 0xFF then some 0xA55A#16
  else if !s.pins.resetN then some (if n = 1 then 0x0101#16 else 0#16)
  else if n = 1 then some (senStatus s)
  else if n = 2 then some (seedHalf s)
  else if 0x90 ≤ n ∧ n ≤ 0x98 then some (bootWord s n)
  else some (tget 0#16 s.shadow n)

end Sys2Proof.Machine
end

