-- ==== Sys2Proof/Machine/Seed.lean ====
section
/-! DEFINITION. The seed and the husk pair (R385-R396): placement, renewal, self-checks, takeover, SWAP and rejoin of a husk. -/

namespace Sys2Proof.Machine

/-- Unit number of a husk in UNIT_REJOIN and in the list of rejoins. -/
def huskUnit (h : HuskId) : Nat := match h with | .a => 6 | .b => 7

def renewPips : Nat := 400

/-- The module leaves M1 once PWR_OK is high and a husk holds the seed (R478). -/
def toImageCheck (s : State) : State :=
  if s.mode.base = 1 ∧ s.pins.pwrOk ∧ (holderId s).isSome ∧ s.mode.mode ≠ 11 then
    settle (modBoot (modModeS s (fun m => { m with base := 2 })) (fun b => { b with spiDriven := true }))
  else s

/-! ## A husk fails (R388, R396) -/

def maxFailures : Nat := 3

def reportCheck (s : State) (h : HuskId) (code : Nat) (held : Bool) : State := report s (Pt.huskCheck h) (code + flag held 4)

/-- OUT until the next boot: by a failed self-test, or by the third failure or loss. -/
def huskOut (s : State) (h : HuskId) (third : Bool) : State :=
  let s1 := if third then s else reportCheck s h 7 false
  let s2 := report s1 Pt.huskOut ((match h with | .a => 0 | .b => 1) + flag third 1)
  settle (modModeS (modHusk s2 h (fun x => { x with stat := .out, refused := true }))
    (fun m => { m with rejoining := m.rejoining.filter (· != huskUnit h) }))

/-- A failure or loss is counted; the third makes the husk OUT, another sends it into its self-test (R396). -/
def countFailure (s : State) (h : HuskId) : State :=
  let s1 := modHusk s h (fun x => { x with failures := x.failures + 1 })
  if maxFailures ≤ (huskOf s1 h).failures then huskOut s1 h true
  else settle (modModeS (startSelfTest s1 h) (fun m => { m with rejoining := m.rejoining.filter (· != huskUnit h) }))

/-- Husk `h` holds the seed and its writes are accepted. -/
def holdsSeed (s : State) (h : HuskId) : Bool := actingHusk s == some h

/-- A failed self-check of R388, by its DETAIL code. -/
def huskFails (s : State) (h : HuskId) (code : Nat) : State :=
  let held := holdsSeed s h
  let s1 := reportCheck s h code held
  let s2 := modHusks s1 (fun x => { x with seed := (match h with
    | .a => { x.seed with failsA := x.seed.failsA + 1 }
    | .b => { x.seed with failsB := x.seed.failsB + 1 }) })
  let s3 := if held then modHusks (modHusk s2 h (fun x => { x with refused := true })) (fun x => { x with seed := { x.seed with released := true } })
    else s2
  countFailure s3 h

/-- Checks that the husk runs now: 0 lockstep, 1 ECC, 2 digest, 3 windows, 4 readback, 5 mirrored checksum. -/
def checkRuns (s : State) (h : HuskId) (check : Nat) : Bool :=
  if holdsSeed s h then check != 5 else decide ((huskOf s h).stat = .ready) && check != 3 && check != 4

def execHuskSelfCheckFail (h : HuskId) (check : Fin 6) (s : State) : Res :=
  .next (if timeRuns s ∧ checkRuns s h check then huskFails s h (check + 1) else s)

/-! ## The seed moves (R386, R389, R392) -/

/-- HOLDER changes: EPOCH counts it, and the new holder's first renewal is due at once. -/
def changeHolder (s : State) (h : HuskId) (code : Nat) : State :=
  modHusk (modHusks s (fun x => { x with seed := { x.seed with
      holder := huskCode h, epoch := (x.seed.epoch + 1) % 256, lastChange := code, due := pip s } }))
    h (fun x => { x with stat := .holder, refused := false })

/-- What the former holder had not mirrored the new one does not have: the refusal log and a demand scrub's partial results. The history and
the fault log are the collector's, which goes on (R391, R394, R454; LOG 86). -/
def dropUnmirrored (s : State) : State :=
  modHusks s (fun h => { h with
    privLog := []
    longOps := h.longOps.map (fun o => match o.kind with
      | .scrub .. => if o.done then o else { o with result := [] }
      | _ => o) })

/-- The power-on self-tests have ended: husk A takes the seed if it passed, else husk B. The other, if it passed, is the standby; one that
failed is OUT. With none the module stays in M1 (R386, LOG 38). -/
def execSeedPlacement (aPass bPass : Bool) (s : State) : Res :=
  .next (
    if timeRuns s ∧ s.mode.base = 1 ∧ s.husks.seed.epoch = 0 ∧ s.husks.a.stat = .idle ∧ s.husks.b.stat = .idle then
      let after := fun (s : State) h (pass : Bool) => if pass then modHusk s h (fun x => { x with stat := .ready }) else huskOut s h false
      let s1 := after (after s .a aPass) .b bPass
      if aPass then toImageCheck (changeHolder s1 .a 0)
      else if bPass then toImageCheck (changeHolder s1 .b 0)
      else report s1 Pt.huskNone 0
    else s)

/-- LAST_RENEW is stamped, and the dies that the renewal reaches over their management links see it (R240, R387). An overrun of activity 4
leaves it to the next pip (R42). -/
def execSeedRenewal (s : State) : Res :=
  .next (
    if timeRuns s ∧ (actingHusk s).isSome ∧ s.husks.seed.due ≤ pip s ∧ !overran s 4 ∧ s.time.grain ≤ 767 then
      let s1 := modHusks (toGrain s 16) (fun x => { x with seed := { x.seed with
        lastRenew := pip s, due := x.seed.due + renewPips * ((pip s - x.seed.due) / renewPips + 1) } })
      modNet s1 (fun n => { n with renewSeen := ((List.range 6).filter s.net.mgmt.getLsbD).foldl (fun t d => tset t d (pip s)) n.renewSeen })
    else s)

/-- The standby takes the seed 2,100 pips after the last renewal, if it is READY. A former holder that had failed no check reports the loss
and is tested; rebuilds restart under the new holder (R150, R389, R396). -/
def execSeedTakeover (s : State) : Res :=
  .next (match holderId s with
    | none => s
    | some h =>
      let o := otherHusk h
      if timeRuns s ∧ s.husks.seed.lastRenew + leaseGuard ≤ pip s ∧ (huskOf s o).stat = .ready then
        let s1 := if (huskOf s h).stat = .holder then
            countFailure (modHusk (reportCheck s h 8 true) h (fun x => { x with refused := true })) h
          else s
        restartRebuilds (dropUnmirrored (changeHolder s1 o 1))
      else s)

/-- At the edge after a SWAP the seed is with the former standby (R392). -/
def swapEdge (s : State) : State :=
  match s.husks.swapReq, holderId s with
  | some _, some h =>
    let o := otherHusk h
    let s1 := modHusks s (fun x => { x with swapReq := none })
    if (actingHusk s).isSome ∧ (huskOf s o).stat = .ready then
      let s2 := modHusk s1 h (fun x => { x with stat := .ready, matchPips := 0 })
      modHusks (dropUnmirrored (changeHolder s2 o 2)) (fun x => { x with lastSwap := some (now s) })
    else s1
  | _, _ => modHusks s (fun x => { x with swapReq := none })

/-! ## Rejoin of a husk (R396) -/

/-- A self-test ends: a husk that passed rejoins, and the module reports M10; one that failed is OUT. -/
def selfTestEnd (s : State) (h : HuskId) (pass : Bool) : State :=
  if timeRuns s ∧ (huskOf s h).stat = .selfTest then
    if pass then
      settle (modModeS (modHusk s h (fun x => { x with stat := .rejoin, copySince := if (actingHusk s).isSome then some (pip s) else none }))
        (fun m => { m with rejoining := m.rejoining.filter (· != huskUnit h) ++ [huskUnit h] }))
    else huskOut s h false
  else s

def execHuskSelfTestEnd (h : HuskId) (pass : Bool) (s : State) : Res := .next (selfTestEnd s h pass)

/-- The holder has copied the mirrored set: with equal checksums the husk is the READY standby; unequal ones leave it in rejoin (LOG
39). -/
def copyDone (s : State) (h : HuskId) (checksumOk : Bool) : State :=
  if timeRuns s ∧ (huskOf s h).stat = .rejoin ∧ actingHusk s = some (otherHusk h) ∧ checksumOk then
    settle (modModeS (modHusk s h (fun x => { x with stat := .ready, refused := false, copySince := none, matchPips := 0 }))
      (fun m => { m with rejoining := m.rejoining.filter (· != huskUnit h) }))
  else s

def execHuskRejoinCopyDone (h : HuskId) (checksumOk : Bool) (s : State) : Res := .next (copyDone s h checksumOk)

end Sys2Proof.Machine
end

