-- ==== Sys2Proof/Machine/HuskLoop.lean ====
section
/-! DEFINITION. The husk loop (R40, R42, R395, R401): its activities, the pieces of the long operations, the requests it takes; and the ways
a request reaches it (R397, R435, R506). -/

namespace Sys2Proof.Machine

/-! ## Every opcode's handler -/

def handlerOf (opcode : Nat) : Option Handler :=
  match opcode with
  | 0x0101 => some cmdIdentity
  | 0x0102 => some cmdConfigRead
  | 0x0103 => some cmdConfigWrite
  | 0x0104 => some cmdStackWeightSet
  | 0x0201 => some cmdPartDefine
  | 0x0202 => some cmdPartStart
  | 0x0203 => some cmdPartStop
  | 0x0204 => some cmdPartRangeAdd
  | 0x0205 => some cmdPartRangeRemove
  | 0x0206 => some cmdPartRestart
  | 0x0207 => some cmdSliceCreate
  | 0x0208 => some cmdSliceDestroy
  | 0x0209 => some cmdSliceReset
  | 0x020A => some cmdSliceLog
  | 0x020B => some cmdSliceStatus
  | 0x020C => some cmdPartStatus
  | 0x0301 => some cmdFaultLogRead
  | 0x0302 => some cmdHistoryRead
  | 0x0303 => some cmdTrioStatusRead
  | 0x0304 => some cmdCounterClear
  | 0x0305 => some cmdHullStatusRead
  | 0x0306 => some cmdClassRead
  | 0x0307 => some cmdClassSet
  | 0x0401 => some cmdCapSet
  | 0x0402 => some cmdPowerRead
  | 0x0403 => some cmdSensorRead
  | 0x0404 => some cmdTrioClockLimit
  | 0x0405 => some cmdPark
  | 0x0406 => some cmdUnpark
  | 0x0501 => some cmdPgOpen
  | 0x0502 => some cmdPgClose
  | 0x0503 => some cmdPgSet
  | 0x0504 => some cmdChSet
  | 0x0505 => some cmdRingSetup
  | 0x0506 => some cmdRingTeardown
  | 0x0507 => some cmdPgStatus
  | 0x0508 => some cmdResumeQuery
  | 0x0601 => some cmdEngqSetup
  | 0x0602 => some cmdEngqTeardown
  | 0x0603 => some cmdEngqAbort
  | 0x0604 => some cmdEngStatus
  | 0x0605 => some cmdEngSet
  | 0x0701 => some cmdPipStatusRead
  | 0x0702 => some cmdDemandScrub
  | 0x0703 => some cmdTrioDump
  | 0x0704 => some cmdSwap
  | 0x0705 => some cmdQuiesce
  | 0x0706 => some cmdQuiesceEnd
  | 0x0707 => some cmdHuskStatus
  | 0x0708 => some cmdPrivLogRead
  | 0x0709 => some cmdUnitRejoin
  | 0x0801 => some cmdKeyGenerate
  | 0x0802 => some cmdKeyImport
  | 0x0803 => some cmdKeyDestroy
  | 0x0804 => some cmdKeyInfo
  | 0x0805 => some cmdRekey
  | 0x0806 => some cmdMeasurementRead
  | 0x0807 => some cmdImageStatus
  | _ => none

/-- Never called: an opcode outside the table fails the checks before it (R406). -/
def noHandler : Handler := fun _ _ => .no St.ignored

def handle (s : State) (r : QReq) : State := takeRequest s r.opcode r.q ((handlerOf r.opcode).getD noHandler)

/-! ## Long operations (R395, R402) -/

/-- Record progress, and with a status the end, of an operation. -/
def opSet (s : State) (o : LongOp) (progress : Nat) (status : Option Nat) (result : List Byte) : State :=
  modHusks s (fun h => { h with
    longOps := h.longOps.map (fun x => if x.key = o.key then
      { x with progress := progress, result := result, done := status.isSome, status := status.getD 0 } else x)
    mirrorDirty := true })

def opDone (s : State) (o : LongOp) : State := opSet s o (o.progress + 1) (some St.ok) []

/-- FAILED with cause 0x01, the model's one cause (LOG 40). -/
def opFail (s : State) (o : LongOp) : State := opSet s o o.progress (some St.failed) [1#8]

/-- Accepted exchanges that are not POSTED, of the ones that `f` names. -/
def waitsFor (s : State) (f : Exch → Bool) : Bool := s.exchs.any (fun e => f e && isAccepted e && decide (exRank e.st < 10))

/-- A closed group frees its channels (R287, R310). -/
def freeGroupNow (s : State) (g : Nat) : State :=
  let cs := (group s g).chans
  let s1 := forEach s cs (fun s n => losePath s n 6 6)
  let s2 := forEach s1 cs (fun s n => modChan s n (fun c => { c with group := none, state := .noGroup, goneLeft := 0, unacked := [] }))
  { s2 with groups := tdel s2.groups g }

/-- A torn down ring pair is freed with the entries that were never accepted. -/
def freeRingNow (s : State) (sl r : Nat) : State :=
  { s with exchs := s.exchs.filter (fun e => !ofRing e sl r), rings := tdel s.rings (pairKey sl r) }

def freeQueueNow (s : State) (sl r : Nat) : State :=
  { s with
    jobs := s.jobs.filter (fun j => jobQueue j != some (pairKey sl r))
    eqs := tdel s.eqs (pairKey sl r) }

/-- Leaving M9: each logical core resumes from its shadow state with its L1 arrays invalid (R491). -/
def unparkAll (s : State) : State :=
  let s1 := modModeS s (fun m => { m with parkCond := false, unparkReq := false })
  settle (forEach s1 (List.range 128) (fun s c => if (lcore s c).started then resumeCore s c else l1Invalidate s c true))

/-- Partitions of a mask that are QUIESCED run again; their fetching waits for the next tail write (R478, R489). -/
def endQuiesce (s : State) (mask : Nat) : State :=
  let ps := (List.range 16).filter (fun p => mask.testBit p && decide ((part s p).state = .quiesced))
  let mine := fun (sl : Nat) => decide ((sliceE s sl).state ≠ .free) && ps.contains (sliceE s sl).part
  let s1 := forEach s ps (fun s p => holdSlices (modPart s p (fun e => { e with state := .running })) p false)
  let s2 : State := { s1 with
    rings := s1.rings.map (fun (e : Nat × Ring) => if mine (e.1 / 2) then (e.1, { e.2 with fetchStopped := true }) else e)
    eqs := s1.eqs.map (fun (e : Nat × EqQueue) => if mine (e.1 / 2) then (e.1, { e.2 with fetchStopped := true }) else e) }
  settle (modModeS s2 (fun m => { m with quiesceEndReq := m.quiesceEndReq &&& ~~~BitVec.ofNat 16 mask }))

/-- Lines of a scrub piece (LOG 41). -/
def scrubPiece : Nat := 1024

/-- One piece of a demand scrub from line `o.progress` on (R204). Result: [0-3] corrected, [4-7] uncorrectable, [8-39] the first 4
uncorrectable addresses (LOG 31). -/
def scrubStep (s : State) (o : LongOp) (base length : Nat) (obs : ScrubObs) : State :=
  let lo := base + o.progress * 128
  let n := min scrubPiece (length / 128 - o.progress)
  let within := fun (a : PAddr) => decide (lo ≤ a.toNat ∧ a.toNat < lo + n * 128)
  let cor := obs.corrected.filter within
  let unc := obs.uncorrectable.filter within
  let s1 := cor.foldl (fun s a => lineCorrected s a.toNat) s
  let s2 := unc.foldl (fun s a => linePoisoned s a.toNat) s1
  let s3 := forEach s2 (List.range (n / 8)) (fun s u => match stackOf s (lo + u * 1024) with
    | some j => modStack s j (fun x => { x with demandProgress := x.demandProgress + 8 })
    | none => s)
  let had := leAt o.result 4 4
  let addrs := slice o.result 8 (8 * min 4 had) ++ (unc.take (4 - min 4 had)).flatMap (fun a => leBytes 8 a.toNat)
  let result := leBytes 4 (leAt o.result 0 4 + cor.length) ++ leBytes 4 (had + unc.length) ++ addrs
  if length / 128 ≤ o.progress + n then
    let s4 := opSet s3 o (o.progress + n) (some St.ok) result
    forEach s4 (List.range 8) (fun s j => modStack s j (fun x => { x with
      demandActive := s4.husks.longOps.any (fun p => match p.kind with
        | .scrub b l => !p.done && rangeOnStack s4 (b, l) j
        | _ => false) }))
  else opSet s3 o (o.progress + n) none result

/-- Every bitmap write to the buffer that a SWITCH has left has its Cmp (R349). -/
def bitmapsDone (s : State) (n : Nat) : Bool :=
  let e := sliceE s n
  let b := if e.logBuffer then e.buf0 else e.buf1
  (s.coh.out ++ s.coh.held).all (fun o => match o.r with
    | .wrLine .. => !decide (b ≤ o.line * 128 ∧ o.line * 128 < b + 4 * logAreaBytes e.logPages)
    | _ => true)

/-- One piece of an open operation. -/
def opStep (s : State) (o : LongOp) (obs : ScrubObs) : State :=
  match o.kind with
  | .partStop p => if (part s p).state = .resetting then s else opDone s o
  | .partRestart p => match (part s p).state with
    | .resetting => s
    | .running | .quiesced => opDone s o
    | _ => opFail s o
  | .rangeAdd p b n => match freeRange s p with
    | some r =>
      if rangeTaken s b n then opFail s o
      else opDone (modPart (zeroFill s b n) p (fun e => { e with ranges := tset e.ranges r (b, n) })) o
    | none => opFail s o
  | .sliceReset n => if (sliceE s n).state = .resetting then s else opDone s o
  | .logSwitch n stop => if !bitmapsDone s n then s else opDone (if stop then modSlice s n (fun e => { e with logOn := false }) else s) o
  | .pgClose g => if waitsFor s (fun e => e.group == g) then s else opDone (freeGroupNow s g) o
  | .ringTeardown sl r => if waitsFor s (fun e => ofRing e sl r) then s else opDone (freeRingNow s sl r) o
  | .engqTeardown sl r => if 0 < activeJobs s sl r then s else opDone (freeQueueNow s sl r) o
  | .engqAbort sl r => if 0 < activeJobs s sl r then s else opDone s o
  | .resumeQuery g => match (group s g).query with
    | none => opFail s o
    | some q =>
      if (livePaths s g).isEmpty ∧ q.since + (group s g).noPathWait ≤ pip s then
        opSet (modGroup s g (fun x => { x with query := none })) o o.progress (some St.noPath) []
      else s
  | .park => if s.mode.parkCond then opDone s o else s
  | .unpark => opDone (unparkAll s) o
  | .quiesce m =>
    if s.mode.quiesceReq &&& BitVec.ofNat 16 m ≠ 0#16 ∨ (List.range 16).any (fun p => m.testBit p && partBusy s p) then s else opDone s o
  | .quiesceEnd m => opDone (endQuiesce s m) o
  | .scrub b n => scrubStep s o b n obs
  | .unitRejoin u =>
    if u < 6 then s
    else match (huskOf s (huskOfUnit u)).stat with
      | .ready | .holder => opDone s o
      | .out => opFail s o
      | _ => s
  | .rekey g =>
    if !(group s g).opened then opFail s o
    else if (group s g).rekey.isSome then s
    else if (group s g).rekeyRetry.isSome then opFail s o
    else opDone s o

/-- One piece of every open operation, in the order they started. -/
def opSteps (s : State) (obs : ScrubObs) : State :=
  (s.husks.longOps.filter (fun o => !o.done && decide (o.since < pip s))).foldl (fun s o => opStep s o obs) s

/-! ## The requests taken (R401) -/

/-- The requests that wait, with where they wait: a bus, or a partition's mailbox. -/
def waiting (s : State) : List QReq :=
  s.husks.mbA.queue ++ s.husks.mbB.queue ++ (s.husks.mailboxes.filterMap (fun e => e.2.queued))

/-- The oldest request whose stamp the loop's snapshot can hold (R48); ties go to MB-A, MB-B, then the lower partition (R46) (LOG 82). -/
def oldest (s : State) : Option QReq :=
  ((waiting s).filter (fun r => decide (r.q.arrival.toNat < pip s * 1024 + 16))).foldl
    (fun best r => match best with | none => some r | some b => if r.q.arrival.toNat < b.q.arrival.toNat then some r else some b) none

/-- Take a request out of its queue. -/
def unqueue (s : State) (r : QReq) : State :=
  match busOf r.q, senderPart r.q with
  | some b, _ => modBus s b (fun m => { m with queue := m.queue.erase r })
  | none, some p => modCmdMbx s p (fun m => { m with queued := none })
  | none, none => s

def takeRequests : Nat → State → State
  | 0, s => s
  | k + 1, s => match oldest s with
    | none => s
    | some r => takeRequests k (handle (unqueue s r) r)

/-- Requests taken in a pip at least (R401). -/
def minTake : Nat := 4

/-! ## Activity 3: class actions that the husk carries out (R145, R443) -/

/-- CORE_DISSENT and CORE_ARRAY retire the core that the point names. -/
def huskAction (s : State) (a : Nat × Half × W64) : State :=
  if a.1 < 208 then retireCore s a.1 else if a.1 < 416 then retireCore s (a.1 - 208) else s

def huskActions (s : State) : State :=
  s.husks.actions.foldl huskAction (modHusks s (fun h => { h with actions := [] }))

/-! ## The loop -/

/-- The snapshot window lasts: grains 0-15 (R40). -/
def snapshotEnd : Nat := 15

/-- The loop of this pip has not begun. It starts at grain 16 on the state of grain 15 or before, which is its snapshot: what happens from
grain 16 on is left for the next pip's loop (R40, R48). -/
def loopOpen (s : State) : Bool :=
  timeRuns s && (actingHusk s).isSome && s.time.loopPip != some (pip s) && decide (s.time.grain ≤ snapshotEnd)

/-- The loop power-gates an idle engine unless ENG_SET forbids it (R229, R354, R383, R487) (LOG 81). -/
def sleepEngine (s : State) (e : Nat) : State :=
  if (eng s e).state = .active ∧ (eng s e).maySleep ∧ jobsOn s e (fun _ => true) = 0 ∧ !coldDie s (2 + e / 8) then
    modNet (modEng s e (fun x => { x with state := .sleep })) (fun n => { n with domains := tset n.domains e .asleep })
  else s

/-- A stack that is idle under the loop sleeps, its STATE as before (R207, R229, R487). -/
def sleepStack (s : State) (j : Nat) : State :=
  if stackServes s j ∧ 1 ≤ (stack s j).idlePips ∧ !coldDie s (j / 4) ∧ tget .awake s.net.domains (stackDomain j) = .awake then
    modNet s (fun n => { n with domains := tset n.domains (stackDomain j) .asleep })
  else s

def sleepIdle (s : State) (i : HuskInputs) : State :=
  forEach (forEach s ((List.range 32).filter i.sleepEngines.getLsbD) sleepEngine) ((List.range 8).filter i.sleepStacks.getLsbD) sleepStack

/-- Activities 2, 3 and 5 in service, then the long operations, the resets under way and the requests. Activities that overrun do nothing
in this pip (R42). In M11 only commands are served (R488). -/
def huskLoop (s : State) (i : HuskInputs) : State :=
  let s1 := modTime (toGrain s 16) (fun t => { t with loopPip := some (pip s) })
  let on := decide (s1.mode.base = 5 ∧ s1.mode.mode ≠ 11)
  let s2 := if on && !overran s1 2 then sleepIdle (powerLoop s1) i else s1
  let s3 := if s2.mode.mode ≠ 11 ∧ !overran s2 3 then huskActions s2 else s2
  let s4 := if s3.mode.mode = 11 then s3 else if overran s3 5 then rebuildMissed s3 else rebuildPip s3 i.rebuild
  let s5 := if s4.mode.mode ≠ 11 then partProgress (stopOrphans s4) else s4
  if overran s5 6 then s5
  else takeRequests (max minTake i.take) (if s5.mode.mode ≠ 11 then opSteps s5 i.scrub else s5)

def execHuskLoop (inp : HuskInputs) (s : State) : Res := .next (if loopOpen s then huskLoop s inp else s)

/-! ## Requests by command rows (R402, R406) -/

/-- A poll of an operation, whatever the POLL bit of the operand. -/
def execCommandPoll (opcode : Half) (q : Request) (s : State) : Res :=
  .next (serve s opcode.toNat { q with flags := q.flags ||| 2#8 } ((handlerOf opcode.toNat).getD noHandler))

/-- An opcode that is not in the table. -/
def execUnknownCommand (opcode : Half) (q : Request) (s : State) : Res :=
  .next (if (handlerOf opcode.toNat).isNone then serve s opcode.toNat q noHandler else s)

/-! ## Requests by the management buses (R397, R400, R506) -/

/-- The 64 bytes of a request from a sender, whose bytes 8-15 the hardware overwrites. -/
def parseRequest (s : State) (source addr : Nat) (bs : List Byte) : QReq :=
  { opcode := leAt bs 0 2
    q := { source := BitVec.ofNat 8 source, addr := BitVec.ofNat 8 addr, seq := BitVec.ofNat 16 (leAt bs 2 2)
           paramLength := BitVec.ofNat 16 (leAt bs 4 2), flags := BitVec.ofNat 8 (leAt bs 6 1), nonce := BitVec.ofNat 8 (leAt bs 7 1)
           params := slice bs 16 48, arrival := now s } }

def busCode (b : Bus) : Nat := match b with | .mbA => 1 | .mbB => 2

/-- A block write on a bus: 64 bytes, in SMBus mode with a good PEC, on a bus in service whose queue has room; any other is not
acknowledged (R21, R506, R507). -/
def execMbRequest (b : Bus) (addr : Byte) (bytes : List Byte) (pecOk : Bool) (s : State) : Res :=
  .next (
    if timeRuns s ∧ !(mbus s b).failed ∧ bytes.length = 64 ∧ ((mbus s b).i3c.isSome ∨ pecOk) then
      enqueue s (parseRequest s (busCode b) addr.toNat bytes)
    else s)

/-- A block read returns the reply to the last request taken from the controller's address. -/
def execMbReplyRead (b : Bus) (addr : Byte) (s : State) : Res :=
  .next (
    if timeRuns s ∧ !(mbus s b).failed then
      modBus s b (fun m => { m with readOut := replyBytes s (busCode b * 256 + addr.toNat) })
    else s)

/-! ## Requests by a partition's mailbox (R435, R436) -/

def mailKey (p : Nat) : Nat := (16 + p) * 256 + p

/-- CMD_GO: the request area is captured; with a request still queued the write is lost. -/
def cmdGo (s : State) (p : Nat) (v : W64) : State :=
  if !bitOf v 0 then s
  else if (cmdMbx s p).queued.isSome then modCmdMbx s p (fun m => { m with goLost := true })
  else
    let r := parseRequest s (16 + p) p (cmdMbx s p).area
    modCmdMbx s p (fun m => { m with queued := some r })

def execCmdGo (p : PartNo) (v : W64) (s : State) : Res := .next (whenServing s (cmdGo s p v))

/-- CMD_STATUS (R436). -/
def cmdStatusWord (s : State) (p : Nat) : W64 :=
  let m := cmdMbx s p
  let ready := match tfind s.husks.shown (mailKey p) with | some k => readable s k | none => false
  BitVec.ofNat 64 (flag m.goLost 2 + flag (ready && m.queued.isNone) 1 + flag m.queued.isSome 0)

def cmdStatusClear (s : State) (p : Nat) (v : W64) : State := modCmdMbx s p (fun m => { m with goLost := m.goLost && !bitOf v 2 })

/-- The reply area: PENDING with the new request's fields from its CMD_GO on. -/
def cmdReplyBytes (s : State) (p : Nat) : List Byte :=
  match (cmdMbx s p).queued with
  | some r =>
    leBytes 2 r.opcode ++ leBytes 2 r.q.seq.toNat ++ leBytes 2 St.pending ++ [r.q.flags, r.q.nonce] ++ List.replicate 56 0#8
  | none => replyBytes s (mailKey p)

def cmdAreaWrite (s : State) (p off : Nat) (bs : List Byte) : State := modCmdMbx s p (fun m => { m with area := splice m.area off bs })

/-! ## Parking (R230, R490, R491) -/

/-- PARK takes effect once no rebuild is in progress and no trio is in CHECKSTOP. -/
def execParkEntry (s : State) : Res :=
  .next (
    if inService s ∧ s.mode.parkReq ∧ !rebuilding s ∧ !s.trios.any (fun e => decide (e.2.state = .checkstop)) then
      settle (modModeS s (fun m => { m with parkReq := false, parkCond := true }))
    else s)

/-- Pips of EMPTY and HELD sets after which a trio is parked. -/
def idleLimit : Nat := 1000

def trioLCores (s : State) (n : Nat) : List Nat := [2 * n, 2 * n + 1].filter (lcoreExists s)

/-- Every set of the trio's cores is EMPTY or HELD. -/
def trioIdle (s : State) (n : Nat) : Bool :=
  (trioLCores s n).all (fun c => (lcore s c).sets.all (fun e => decide (e.2.tstat.state = .empty ∨ e.2.tstat.state = .held)))

/-- The trio's cores belong to no RUNNING partition. -/
def trioUnowned (s : State) (n : Nat) : Bool :=
  (trioLCores s n).all (fun c => match partOf s c with | some p => decide ((part s p).state ≠ .running) | none => true)

/-- The loop parks a trio in M5 or M6, unless a sensor reads below 0 degrees (R487, R491). -/
def execTrioAutoPark (t : TrioNo) (s : State) : Res :=
  .next (
    if timeRuns s ∧ (s.mode.mode = 5 ∨ s.mode.mode = 6) ∧ !coldDie s (t.val / 32) ∧ !(trio s t).parked ∧
        (votes (trio s t) ∨ (trio s t).state = .split) then
      if trioUnowned s t ∨ idleLimit ≤ (trio s t).idlePips then
        modNet (modTrio s t (fun x => { x with parked := true })) (fun n => { n with domains := tset n.domains (64 + t.val) .asleep })
      else s
    else s)

/-! ## Ends of operations -/

/-- A rejoin of a die ends: with its test passed it is in service again, else it stays fenced (R236, R492, R493). -/
def dieRejoinEnd (s : State) (n : Nat) (ok : Bool) : State :=
  if timeRuns s ∧ s.mode.rejoining.contains n then
    let s1 := modModeS (if ok then returnDie s n else s) (fun m => { m with rejoining := m.rejoining.filter (· != n) })
    let ends := fun (s : State) (o : LongOp) => match o.kind with
      | .unitRejoin v => if v = n ∧ !o.done then (if ok then opDone s o else opFail s o) else s
      | _ => s
    settle (s1.husks.longOps.foldl ends s1)
  else s

/-- A rejoin ends. A husk's ends as its copy does, or with a failed self-test (R396). -/
def execUnitRejoinEnd (u : Unit') (ok : Bool) (s : State) : Res :=
  .next (match u with
    | .half h => dieRejoinEnd s h ok
    | .io d => dieRejoinEnd s (2 + d) ok
    | .husk h => if ok then copyDone s h true else selfTestEnd s h false)

/-- A tag without its ATTEMPT: a query's is ignored, an answer's is the highest seen (R297). -/
def withoutAttempt (t : W64) : W64 := t &&& ~~~0xF000#64

/-- One entry of the result of a RESUME_QUERY (R323). -/
def answerBytes (b : AnswerBody) (t : W64) : List Byte :=
  match b.entries.find? (fun e => withoutAttempt e.tag == withoutAttempt t) with
  | some e => [e.state, e.status, e.opcode, 0#8] ++ leBytes 4 e.bytes.toNat
  | none => List.replicate 8 0#8

/-- The answer to the group's query ends it. -/
def takeAnswer (s : State) (g : Nat) (b : AnswerBody) : State :=
  match (group s g).query with
  | none => s
  | some q =>
    if b.queryId.toNat = q.queryId ∧ q.sent then
      let s1 := modGroup s g (fun x => { x with query := none })
      s1.husks.longOps.foldl (fun s o =>
        if o.key = q.opKey ∧ !o.done then opSet s o (o.progress + 1) (some St.ok) (q.tags.flatMap (answerBytes b)) else s) s1
    else s

def execResumeAnswer (ch : ChanNo) (h : FrameHdr) (b : AnswerBody) (s : State) : Res :=
  .next (whenServing s (match admitFrame s ch FType.resumeAnswer h with
    | (s1, some g) => match inOrder s1 ch h with
      | (s2, true) => takeAnswer s2 g b
      | (s2, false) => s2
    | (s1, none) => s1))

end Sys2Proof.Machine
end

