-- ==== Sys2Proof/Machine/Device.lean ====
section
/-! DEFINITION. The device window of a partition (R334, R415): what each 8-byte register returns and what a write of some of its
bytes does, for the loads and stores of logical cores and for REGISTER_WRITE. -/

namespace Sys2Proof.Machine

/-! ## Lanes of a narrow access -/

/-- The bits of `n` bytes from byte `o` of a word. -/
def laneMask (o n : Nat) : W64 := BitVec.ofNat 64 ((2 ^ (8 * n) - 1) <<< (8 * o))

/-- A write of the bits in `m` to a register that reads as `old`; the others keep their value (LOG 43). -/
def keepOld (old v m : W64) : W64 := (old &&& ~~~m) ||| (v &&& m)

/-- Byte `j` of the lanes. -/
def laneBytes (v : W64) (o n : Nat) : List Byte := slice (leBytes 8 v.toNat) o n

/-! ## Doorbell pages and engine queue pages (R251, R334, R415) -/

/-- The page of ring pair r of slice s answers P[p]. -/
def ringPage (s : State) (p sl r : Nat) : Bool := pageLive s sl r && (sliceE s sl).part == p

def queuePage (s : State) (p sl r : Nat) : Bool := queueLive s sl r && (sliceE s sl).part == p

def doorbellRead (r : Ring) (off : Nat) : W64 :=
  match off with
  | 0x000 => zx r.sqTail
  | 0x008 => zx r.cqHead
  | 0x010 => zx r.sqHead
  | 0x018 => zx r.cqTail
  | 0x020 => ringStatusWord r
  | 0x028 => BitVec.ofNat 64 r.sqWm
  | 0x030 => wmWord r.sqWmSt
  | 0x038 => BitVec.ofNat 64 r.cqWm
  | 0x040 => wmWord r.cqWmSt
  | _ => 0#64

/-- A watermark mark is 17 bits wide (R285). -/
def wmMark (v : W64) : Nat := field v 16 0

def doorbellWrite (s : State) (key off : Nat) (v m : W64) : State :=
  let r := ring s key
  match off with
  | 0x000 => sqTailWrite s key (keepOld (zx r.sqTail) v m)
  | 0x008 => cqHeadWrite s key (keepOld (zx r.cqHead) v m)
  | 0x020 => ringStatusClear s key (v &&& m)
  | 0x028 => modRing s key (fun r => { r with sqWm := wmMark (keepOld (BitVec.ofNat 64 r.sqWm) v m) })
  | 0x030 => sqWmClear s key (v &&& m)
  | 0x038 => modRing s key (fun r => { r with cqWm := wmMark (keepOld (BitVec.ofNat 64 r.cqWm) v m) })
  | 0x040 => cqWmClear s key (v &&& m)
  | _ => s

def queueRead (s : State) (sl r off : Nat) : W64 :=
  let q := eqq s (pairKey sl r)
  match off with
  | 0x000 => zx q.eqTail
  | 0x008 => zx q.eqHead
  | 0x010 => eqStatusWord s sl r
  | 0x018 => BitVec.ofNat 64 q.wm
  | 0x020 => wmWord q.wmSt
  | _ => 0#64

def queueWrite (s : State) (key off : Nat) (v m : W64) : State :=
  let q := eqq s key
  match off with
  | 0x000 => eqTailWrite s key (keepOld (zx q.eqTail) v m)
  | 0x010 => eqStatusClear s key (v &&& m)
  | 0x018 => modEq s key (fun q => { q with wm := wmMark (keepOld (BitVec.ofNat 64 q.wm) v m) })
  | 0x020 => eqWmClear s key (v &&& m)
  | _ => s

/-! ## Sources, mailboxes, the send block and the notice log -/

def sourceRead (s : State) (p e off : Nat) : State × W64 :=
  if srcOwner s e ≠ some p then (s, 0#64)
  else match off with
    | 0x00 => (s, zx (evSource s e).pending)
    | 0x08 => evTake s p e
    | 0x10 => (s, evBindWord (evSource s e))
    | _ => (s, 0#64)

/-- EV_BIND keeps the bytes a narrow store leaves out; UNDELIV clears only where a 1 is written. -/
def sourceWrite (s : State) (p e off : Nat) (v m : W64) : State :=
  match off with
  | 0x00 => evPendingWrite s p e (v &&& m)
  | 0x10 => evBindWrite s p e (keepOld (evBindWord { evSource s e with undeliv := false }) v m)
  | _ => if srcOwner s e ≠ some p then dropWrite s p else s

def wordAt (bs : List Byte) (off : Nat) : W64 := BitVec.ofNat 64 (leAt bs off 8)

def mailboxRead (s : State) (p m off : Nat) : State × W64 :=
  let x := mailbox s m
  if mbxOwner s m ≠ p then (s, 0#64)
  else if off < 0x40 then (s, wordAt x.msg off)
  else match off with
    | 0x40 => (s, mbxSenderWord x.sender)
    | 0x48 => (s, x.stamp)
    | 0x50 => (s, mbxStatusWord x)
    | 0x58 => (s, zx x.db)
    | 0x60 => mbxDbTake s p m
    | 0x68 => (s, zx x.dbMask)
    | _ => (s, 0#64)

def mailboxWrite (s : State) (p m off : Nat) (v b : W64) : State :=
  match off with
  | 0x50 => mbxStatusClear s p m (v &&& b)
  | 0x68 => mbxDbMaskWrite s p m (keepOld (zx (mailbox s m).dbMask) v b)
  | 0x70 => mbxCtrl s p m (v &&& b)
  | _ => if mbxOwner s m ≠ p then dropWrite s p else s

def blockRead (b : SendBlock) (off : Nat) : W64 :=
  if off < 0x40 then wordAt b.stage off
  else if off = 0x48 then sendStatusWord b
  else 0#64

/-- A word of the notice log (R424). -/
def noticeWord (s : State) (p off : Nat) : W64 :=
  let l := tget {} s.events.notices p
  if off = 0x400 then zx l.count
  else if off < 0x400 then
    match tfind l.entries (off / 16) with
    | some n => if off % 16 = 0 then n.stamp else BitVec.ofNat 64 (n.cause + place n.object 16)
    | none => 0#64
  else 0#64

/-! ## Invalidation slots and the command mailbox -/

def invRead (s : State) (p k off : Nat) : W64 :=
  let x := invSlot s p k
  match off with
  | 0x00 => x.iova
  | 0x08 => x.pages
  | 0x10 => x.sliceNo
  | 0x18 => invCsrWord x
  | 0x20 => x.stamp
  | _ => 0#64

def invSlotWrite (s : State) (p k off : Nat) (v m : W64) : State :=
  let x := invSlot s p k
  match off with
  | 0x00 => invWrite s p k 0 (keepOld x.iova v m)
  | 0x08 => invWrite s p k 1 (keepOld x.pages v m)
  | 0x10 => invWrite s p k 2 (keepOld x.sliceNo v m)
  | 0x18 => invCsrWrite s p k (keepOld (BitVec.ofNat 64 (flag x.event 3)) v m)
  | _ => s

def cmdRead (s : State) (p off : Nat) : W64 :=
  if off < 0x40 then wordAt (cmdMbx s p).area off
  else if off = 0x48 then cmdStatusWord s p
  else if 0x80 ≤ off ∧ off < 0xC0 then wordAt (cmdReplyBytes s p) (off - 0x80)
  else 0#64

/-! ## The window -/

/-- The parts of the window (R334, R415). -/
inductive DevPlace where
  | doorbell (sl r off : Nat)
  | inv (k off : Nat)
  | cmd (off : Nat)
  | block (off : Nat)
  | source (e off : Nat)
  | mbx (m off : Nat)
  | notices (off : Nat)
  | queue (sl r off : Nat)
  | reserved
deriving DecidableEq, Repr

/-- What lies at an 8-byte aligned offset of the window. -/
def devPlace (off : Nat) : DevPlace :=
  if off < 0x02000000 then .doorbell (off / 0x2000) (off / 0x1000 % 2) (off % 0x1000)
  else if off < 0x02000400 then .inv ((off - 0x02000000) / 0x40) (off % 0x40)
  else if 0x02001000 ≤ off ∧ off < 0x02001100 then .cmd (off - 0x02001000)
  else if 0x02002000 ≤ off ∧ off < 0x02002050 then .block (off - 0x02002000)
  else if 0x02010000 ≤ off ∧ off < 0x02010000 + 0x20 * 1536 then .source ((off - 0x02010000) / 0x20) (off % 0x20)
  else if 0x02020000 ≤ off ∧ off < 0x02028000 then .mbx ((off - 0x02020000) / 0x100) (off % 0x100)
  else if 0x02030000 ≤ off ∧ off < 0x02030408 then .notices (off - 0x02030000)
  else if 0x04000000 ≤ off ∧ off < 0x06000000 then .queue ((off - 0x04000000) / 0x2000) (off / 0x1000 % 2) (off % 0x1000)
  else .reserved

/-- The I/O die that holds a register of the window: that of the ring pair or engine queue of its page. The spec places the rest of the window
on no die (LOG 123). -/
def devDie (s : State) (off : Nat) : Option Nat :=
  match devPlace (off / 8 * 8) with
  | .doorbell sl r _ => some (serveDie r (ring s (pairKey sl r)).serve)
  | .queue sl r _ => some (serveDie r (eqq s (pairKey sl r)).serve)
  | _ => none

/-- The register is on a die behind a hull (R233). -/
def devDead (s : State) (off : Nat) : Bool := (devDie s off).any (fun d => targetDead s (HullAt.die (2 + d)))

/-- A load of such a register, counted at the hull. -/
def devIsolated (s : State) (off : Nat) : State :=
  match devDie s off with
  | some d => atHull s [HullAt.die (2 + d)] (fun x => { x with isoCount := x.isoCount + 1 })
  | none => s

/-- A read of the register at `off` of P[p]'s window by set `k` of LCORE[c], with its side effect. -/
def devRead (s : State) (p c k off : Nat) : State × W64 :=
  match devPlace off with
  | .doorbell sl r o => (s, if ringPage s p sl r then doorbellRead (ring s (pairKey sl r)) o else 0#64)
  | .inv i o => (s, invRead s p i o)
  | .cmd o => (s, cmdRead s p o)
  | .block o => (s, blockRead (sendBlock s c k) o)
  | .source e o => sourceRead s p e o
  | .mbx m o => mailboxRead s p m o
  | .notices o => (s, noticeWord s p o)
  | .queue sl r o => (s, if queuePage s p sl r then queueRead s sl r o else 0#64)
  | .reserved => (s, 0#64)

/-- A write of the `n` bytes from byte `o` of the register at `off`. One for a die behind a hull is dropped there and counted, so a doorbell
never advances its ring (R233, R235). -/
def devWrite (s : State) (p c k off : Nat) (v : W64) (o n : Nat) : State :=
  let m := laneMask o n
  if devDead s off then
    (match devDie s off with
     | some d => atHull s [HullAt.die (2 + d)] (fun x => { x with dropped := x.dropped + 1 })
     | none => s)
  else match devPlace off with
  | .doorbell sl r f => if ringPage s p sl r then doorbellWrite s (pairKey sl r) f v m else dropWrite s p
  | .inv i f => invSlotWrite s p i f v m
  | .cmd f =>
    if f < 0x40 then cmdAreaWrite s p (f + o) (laneBytes v o n)
    else if f = 0x40 then cmdGo s p (v &&& m)
    else if f = 0x48 then cmdStatusClear s p (v &&& m)
    else s
  | .block f =>
    if f < 0x40 then modBlock s c k (fun b => { b with stage := splice b.stage (f + o) (laneBytes v o n) })
    else if f = 0x40 then mbxSend s c k (v &&& m)
    else sendStatusClear s c k (v &&& m)
  | .source e f => sourceWrite s p e f v m
  | .mbx i f => mailboxWrite s p i f v m
  | .notices _ => s
  | .queue sl r f => if queuePage s p sl r then queueWrite s (pairKey sl r) f v m else dropWrite s p
  | .reserved => s

/-- A store that must wait: an MBX_SEND while the send queue is full (R427). -/
def devBlocked (s : State) (c off : Nat) (v : W64) (o n : Nat) : Bool :=
  match devPlace off with
  | .block 0x40 => !sendAccepted s c (v &&& laneMask o n)
  | _ => false

/-! ## REGISTER_WRITE (R12) -/

def fullMask : W64 := 0xFFFFFFFFFFFFFFFF#64

/-- A write of a whole register. Writing 1 to an RS bit clears it, also in the status registers that no window holds (LOG 42). -/
def registerWrite (s : State) (r : RegName) (v : W64) : State :=
  match r with
  | .sqWm sl r => doorbell s sl r (fun s key => doorbellWrite s key 0x028 v fullMask)
  | .cqWm sl r => doorbell s sl r (fun s key => doorbellWrite s key 0x038 v fullMask)
  | .ringStatus sl r => doorbell s sl r (fun s key => doorbellWrite s key 0x020 v fullMask)
  | .eqStatus sl r => eqDoorbell s sl r (fun s key => queueWrite s key 0x010 v fullMask)
  | .eqWm sl r => eqDoorbell s sl r (fun s key => queueWrite s key 0x018 v fullMask)
  | .invIova p k => invSlotWrite s p k 0x00 v fullMask
  | .invPages p k => invSlotWrite s p k 0x08 v fullMask
  | .invSlice p k => invSlotWrite s p k 0x10 v fullMask
  | .invCsr p k => invSlotWrite s p k 0x18 v fullMask
  | .mbxStatus p m => mailboxWrite s p m 0x50 v fullMask
  | .mbxDbMask p m => mailboxWrite s p m 0x68 v fullMask
  | .sendStage c k w => sendStageWrite s c k w v
  | .sendStatus c k => sendStatusClear s c k v
  | .cmdArea p w => cmdAreaWrite s p (8 * w) (leBytes 8 v.toNat)
  | .cmdStatus p => cmdStatusClear s p v
  | .pipStatus => modTime s (fun t => { t with overrun := t.overrun && !bitOf v 2, refLost := t.refLost && !bitOf v 1 })
  | .stackStatus j => modStack s j (fun x => { x with slow := x.slow && !bitOf v 3 })
  | .hullStatus h => modHull s h (fun x => { x with ever := x.ever && !bitOf v 1 })
  | .modeStatus => modPower s (fun x => { x with capUnmet := x.capUnmet && !bitOf v 19 })
  | .seed => modHusks s (fun h => { h with seed := { h.seed with released := h.seed.released && !bitOf v 7 } })
  | .sliceStatus sl => modSlice s sl (fun e => { e with logOutside := e.logOutside && !bitOf v 5 })
  | .readOnly => s

/-- REGISTER_WRITE: the registers of a device window answer only in service. -/
def inWindow (r : RegName) : Bool :=
  match r with
  | .pipStatus | .stackStatus _ | .hullStatus _ | .modeStatus | .seed | .sliceStatus _ | .readOnly => false
  | _ => true

def execRegisterWrite (r : RegName) (v : W64) (s : State) : Res :=
  .next (
    if inWindow r then whenServing s (registerWrite s r v)
    else if timeRuns s then registerWrite s r v
    else s)

end Sys2Proof.Machine
end

