-- ==== Sys2Proof/Machine/Flags.lean ====
section
/-! DEFINITION. Binary64 arithmetic (R101-R111): exact results rounded once, the five exception flags, the NaN modes, and what
a floating-point instruction does to FSTAT, PEND and FEPC. -/

namespace Sys2Proof.Machine

/-! ## Binary64 values -/

abbrev FFlags := BitVec 5

namespace Fl
def inexact : FFlags := 1#5
def underflow : FFlags := 2#5
def overflow : FFlags := 4#5
def divZero : FFlags := 8#5
def invalid : FFlags := 16#5
end Fl

def fSign (w : W64) : Bool := w.getLsbD 63
def fExp (w : W64) : Nat := field w 62 52
def fFrac (w : W64) : Nat := field w 51 0

def isNan (w : W64) : Bool := fExp w == 2047 && fFrac w != 0
def isSnan (w : W64) : Bool := isNan w && !w.getLsbD 51
def isInf (w : W64) : Bool := fExp w == 2047 && fFrac w == 0
def isZero (w : W64) : Bool := fExp w == 0 && fFrac w == 0

def canonNan : W64 := 0x7FF8000000000000#64
def signBit (s : Bool) : W64 := if s then 0x8000000000000000#64 else 0#64
def infOf (s : Bool) : W64 := signBit s ||| 0x7FF0000000000000#64
def maxOf (s : Bool) : W64 := signBit s ||| 0x7FEFFFFFFFFFFFFF#64
def zeroOf (s : Bool) : W64 := signBit s

/-- Significand of a finite value, in units of 2 to the `fLsb`. -/
def fMant (w : W64) : Nat := if fExp w = 0 then fFrac w else fFrac w + 2 ^ 52

def fLsb (w : W64) : Int := (max (fExp w) 1 : Nat) - 1075

/-- Rounding directions of RM (R104). -/
inductive Rm where
  | even | zero | up | down | away
deriving DecidableEq, Repr

def rmNo (n : Nat) : Rm :=
  match n with
  | 0 => .even | 1 => .zero | 2 => .up | 3 => .down | _ => .away

/-- RM; a reserved value, which only a frame can bring in, rounds in a direction that the spec leaves open (R104, R124; LOG 94). -/
def rmOf (b : BitVec 3) : Rm := rmNo (if b.toNat < 5 then b.toNat else Config.reservedRm b)

/-- Whether to add one unit to the kept significand: `keep` is the kept part, `rem` of `2 * half` and `sticky` what is cut off. -/
def roundsUp (rm : Rm) (s : Bool) (keep rem half : Nat) (sticky : Bool) : Bool :=
  match rm with
  | .zero => false
  | .up => !s && (rem != 0 || sticky)
  | .down => s && (rem != 0 || sticky)
  | .away => decide (half ≤ rem)
  | .even => decide (half < rem) || (rem == half && (sticky || keep % 2 == 1))

/-- The significand at a unit of 2 to the `t`, rounded, and whether the result is inexact. Value: (m + sticky) * 2^q. -/
def roundAt (rm : Rm) (s : Bool) (m : Nat) (q t : Int) (sticky : Bool) : Nat × Bool :=
  let sh := t - q
  if sh ≤ 0 then (m <<< (-sh).toNat, sticky)
  else
    let k := sh.toNat
    let keep := m >>> k
    let rem := m % 2 ^ k
    ((if roundsUp rm s keep rem (2 ^ (k - 1)) sticky then keep + 1 else keep), rem != 0 || sticky)

/-- Round an exact nonzero magnitude to binary64 (R101); tininess is detected after rounding. Underflow is raised where the result is tiny
and inexact, with its trap enabled or not (LOG 114). -/
def roundPack (rm : Rm) (s : Bool) (m : Nat) (q : Int) (sticky : Bool) : W64 × FFlags :=
  let e : Int := (Nat.log2 m + 1 : Nat) + q
  let tFree := e - 53
  let t := max tFree (-1074)
  let (mant0, inex) := roundAt rm s m q t sticky
  let (mantF, _) := roundAt rm s m q tFree sticky
  let tiny := decide (e ≤ -1022) && !(decide (e = -1022) && mantF == 2 ^ 53)
  let carry := mant0 == 2 ^ 53
  let mant := if carry then 2 ^ 52 else mant0
  let t1 := if carry then t + 1 else t
  let flags := (if inex then Fl.inexact else 0#5) ||| (if tiny && inex then Fl.underflow else 0#5)
  if mant < 2 ^ 52 then (signBit s ||| BitVec.ofNat 64 mant, flags)
  else
    let biased := t1 + 1075
    if 2047 ≤ biased then
      let toInf := match rm with
        | .even | .away => true
        | .zero => false
        | .up => !s
        | .down => s
      ((if toInf then infOf s else maxOf s), Fl.overflow ||| Fl.inexact)
    else (signBit s ||| BitVec.ofNat 64 (biased.toNat * 2 ^ 52 + (mant - 2 ^ 52)), flags)

/-! ## NaN results (R109-R111) -/

/-- A NaN result: the first NaN operand quieted, or the canonical NaN (R110); always the canonical NaN in mode 1 (R111). -/
def nanResult (mode1 : Bool) (ops : List W64) : W64 :=
  if mode1 then canonNan
  else match ops.find? isNan with
    | some w => w ||| 0x0008000000000000#64
    | none => canonNan

def snanFlag (ops : List W64) : FFlags := if ops.any isSnan then Fl.invalid else 0#5

def nanOut (mode1 : Bool) (ops : List W64) : W64 × FFlags := (nanResult mode1 ops, snanFlag ops)

def invalidOut (mode1 : Bool) (ops : List W64) : W64 × FFlags := (nanResult mode1 ops, Fl.invalid)

/-! ## Operations -/

/-- A signed finite value as an integer in units of 2 to the `q`, which lies at or below its own unit. -/
def scaled (w : W64) (q : Int) : Int :=
  let v : Int := (fMant w <<< (fLsb w - q).toNat : Nat)
  if fSign w then -v else v

/-- Sign of an exact zero sum of operands with different signs: -0 only toward minus infinity. -/
def zeroSign (rm : Rm) : Bool := rm = .down

/-- Round an exact signed integer in units of 2 to the `q`; `z` is the sign of an exact zero. -/
def roundInt (rm : Rm) (v : Int) (q : Int) (z : Bool) : W64 × FFlags :=
  if v = 0 then (zeroOf z, 0#5) else roundPack rm (decide (v < 0)) v.natAbs q false

def fadd (rm : Rm) (mode1 : Bool) (a b : W64) : W64 × FFlags :=
  if isNan a || isNan b then nanOut mode1 [a, b]
  else if isInf a && isInf b && fSign a != fSign b then invalidOut mode1 [a, b]
  else if isInf a then (a, 0#5)
  else if isInf b then (b, 0#5)
  else
    let q := min (fLsb a) (fLsb b)
    let z := if fSign a == fSign b then fSign a else zeroSign rm
    roundInt rm (scaled a q + scaled b q) q z

def fneg (a : W64) : W64 := a ^^^ signBit true

/-- Subtraction adds the negated second operand; a NaN keeps its own sign. -/
def fsub (rm : Rm) (mode1 : Bool) (a b : W64) : W64 × FFlags :=
  if isNan a || isNan b then nanOut mode1 [a, b] else fadd rm mode1 a (fneg b)

def fmul (rm : Rm) (mode1 : Bool) (a b : W64) : W64 × FFlags :=
  let s := fSign a != fSign b
  if isNan a || isNan b then nanOut mode1 [a, b]
  else if (isInf a && isZero b) || (isZero a && isInf b) then invalidOut mode1 [a, b]
  else if isInf a || isInf b then (infOf s, 0#5)
  else if isZero a || isZero b then (zeroOf s, 0#5)
  else roundPack rm s (fMant a * fMant b) (fLsb a + fLsb b) false

def fdiv (rm : Rm) (mode1 : Bool) (a b : W64) : W64 × FFlags :=
  let s := fSign a != fSign b
  if isNan a || isNan b then nanOut mode1 [a, b]
  else if (isInf a && isInf b) || (isZero a && isZero b) then invalidOut mode1 [a, b]
  else if isInf a then (infOf s, 0#5)
  else if isInf b then (zeroOf s, 0#5)
  else if isZero b then (infOf s, Fl.divZero)
  else if isZero a then (zeroOf s, 0#5)
  else
    let k := 120
    let num := fMant a <<< k
    roundPack rm s (num / fMant b) (fLsb a - fLsb b - (k : Nat)) (num % fMant b != 0)

/-- Integer square root, one bit of the root for each step from bit `n` down. -/
def isqrt : Nat → Nat → Nat → Nat
  | 0, _, r => r
  | n + 1, v, r =>
    let c := r + 2 ^ n
    isqrt n v (if c * c ≤ v then c else r)

def fsqrt (rm : Rm) (mode1 : Bool) (a : W64) : W64 × FFlags :=
  if isNan a then nanOut mode1 [a]
  else if isZero a then (a, 0#5)
  else if fSign a then invalidOut mode1 [a]
  else if isInf a then (a, 0#5)
  else
    let k := if fLsb a % 2 = 0 then 120 else 121
    let m := fMant a <<< k
    let r := isqrt 100 m 0
    roundPack rm false r ((fLsb a - (k : Nat)) / 2) (r * r != m)

/-- FMA rounds once; infinity times zero plus a quiet NaN signals invalid (R101). -/
def fma (rm : Rm) (mode1 : Bool) (a b c : W64) : W64 × FFlags :=
  let infZero := (isInf a && isZero b) || (isZero a && isInf b)
  let s := fSign a != fSign b
  if isNan a || isNan b then nanOut mode1 [a, b, c]
  else if infZero then invalidOut mode1 [a, b, c]
  else if isNan c then nanOut mode1 [a, b, c]
  else if (isInf a || isInf b) && isInf c && s != fSign c then invalidOut mode1 [a, b, c]
  else if isInf a || isInf b then (infOf s, 0#5)
  else if isInf c then (c, 0#5)
  else
    let qp := fLsb a + fLsb b
    let q := min qp (fLsb c)
    let p : Int := ((fMant a * fMant b) <<< (qp - q).toNat : Nat)
    let z := if s == fSign c then s else zeroSign rm
    roundInt rm ((if s then -p else p) + scaled c q) q z

/-- Order of two values that are not NaN; zeros compare equal. -/
def fLess (a b : W64) : Bool :=
  if isZero a && isZero b then false
  else if fSign a != fSign b then fSign a
  else if fSign a then decide (b.toNat < a.toNat) else decide (a.toNat < b.toNat)

/-- The IEEE minimum; -0 is less than +0 (R102). -/
def fmin (mode1 : Bool) (a b : W64) : W64 × FFlags :=
  if isNan a || isNan b then nanOut mode1 [a, b]
  else if isZero a && isZero b then ((if fSign a then a else b), 0#5)
  else ((if fLess b a then b else a), 0#5)

def fmax (mode1 : Bool) (a b : W64) : W64 × FFlags :=
  if isNan a || isNan b then nanOut mode1 [a, b]
  else if isZero a && isZero b then ((if fSign a then b else a), 0#5)
  else ((if fLess a b then b else a), 0#5)

/-- A quiet comparison: -1, 0, +1, or 2 when unordered (R85, R102). -/
def fcmp (a b : W64) : Int × FFlags :=
  if isNan a || isNan b then (2, snanFlag [a, b])
  else if fLess a b then (-1, 0#5)
  else if fLess b a then (1, 0#5)
  else (0, 0#5)

/-- From an integer read as signed. -/
def fcvtif (rm : Rm) (w : W64) : W64 × FFlags := roundInt rm (sInt w) 0 false

/-- To an integer, toward zero; a NaN, an infinity or a value outside the INT range signals invalid (R103) (LOG 58). -/
def fcvtfi (a : W64) : Int × FFlags :=
  let big : Int := 2 ^ 63 - 1
  let small : Int := -(2 ^ 63)
  if isNan a then (small, Fl.invalid)
  else if isInf a then ((if fSign a then small else big), Fl.invalid)
  else
    let q := fLsb a
    let m : Nat := if 0 ≤ q then fMant a <<< q.toNat else fMant a >>> (-q).toNat
    let v : Int := if fSign a then -(m : Int) else m
    if inInt64 v then (v, 0#5) else ((if fSign a then small else big), Fl.invalid)

/-! ## Exceptions of an instruction (R105) -/

/-- FLAGS are set; enabled causes become pending, and the first to do so while PEND is zero writes FEPC, tagged RAW. -/
def signal (t : TaskSet) (fl : FFlags) : TaskSet :=
  let new := fl &&& t.fstat.enable
  let f := { t.fstat with flags := t.fstat.flags ||| fl, pend := t.fstat.pend ||| new }
  if t.fstat.pend = 0#5 ∧ new ≠ 0#5 then { t with fstat := f, fepc := TWord.mkRaw t.pc.data, fpAge := 0 }
  else { t with fstat := f }

/-- A floating-point result: VUSED is set, the register written, the exceptions signalled (R56, R105). -/
def fpResult (t : TaskSet) (rd : Nat) (w : TWord) (fl : FFlags) : TaskSet := signal (gwrite (setVused t) rd w) fl

def rmOfSet (t : TaskSet) : Rm := rmOf t.fstat.rm

end Sys2Proof.Machine
end

