-- ==== Sys2Proof/Machine/Float.lean ====
section
/-! DEFINITION. The floating-point and decimal instructions (R85, R95-R111). -/

namespace Sys2Proof.Machine

/-! ## Floating point -/

/-- Two BFP operands and a BFP result. -/
def fp2 (s : State) (c : LC) (rd ra rb : Nat) (f : Rm → Bool → W64 → W64 → W64 × FFlags) : State :=
  issueSet s c .long (fun t => do
    let a ← operand t ra accBfp
    let b ← operand t rb accBfp
    let (w, fl) := f (rmOfSet t) t.tstat.nanmode a.data b.data
    pure (fpResult t rd (TWord.mkBfp w) fl))

def execFadd (c : LC) (rd ra rb : Reg) (s : State) : Res := .next (fp2 s c rd ra rb fadd)
def execFsub (c : LC) (rd ra rb : Reg) (s : State) : Res := .next (fp2 s c rd ra rb fsub)
def execFmul (c : LC) (rd ra rb : Reg) (s : State) : Res := .next (fp2 s c rd ra rb fmul)
def execFdiv (c : LC) (rd ra rb : Reg) (s : State) : Res := .next (fp2 s c rd ra rb fdiv)
def execFmin (c : LC) (rd ra rb : Reg) (s : State) : Res := .next (fp2 s c rd ra rb (fun _ m a b => fmin m a b))
def execFmax (c : LC) (rd ra rb : Reg) (s : State) : Res := .next (fp2 s c rd ra rb (fun _ m a b => fmax m a b))

def execFsqrt (c : LC) (rd ra : Reg) (s : State) : Res :=
  .next (issueSet s c .long (fun t => do
    let a ← operand t ra accBfp
    let (w, fl) := fsqrt (rmOfSet t) t.tstat.nanmode a.data
    pure (fpResult t rd (TWord.mkBfp w) fl)))

def execFma (c : LC) (rd ra rb rc : Reg) (s : State) : Res :=
  .next (issueSet s c .long (fun t => do
    let a ← operand t ra accBfp
    let b ← operand t rb accBfp
    let x ← operand t rc accBfp
    let (w, fl) := fma (rmOfSet t) t.tstat.nanmode a.data b.data x.data
    pure (fpResult t rd (TWord.mkBfp w) fl)))

def execFcmp (c : LC) (rd ra rb : Reg) (s : State) : Res :=
  .next (issueSet s c .long (fun t => do
    let a ← operand t ra accBfp
    let b ← operand t rb accBfp
    let (z, fl) := fcmp a.data b.data
    pure (fpResult t rd (TWord.mkInt (ofInt64 z)) fl)))

def execFcvtif (c : LC) (rd ra : Reg) (s : State) : Res :=
  .next (issueSet s c .long (fun t => do
    let a ← operand t ra accA
    let (w, fl) := fcvtif (rmOfSet t) a.data
    pure (fpResult t rd (TWord.mkBfp w) fl)))

def execFcvtfi (c : LC) (rd ra : Reg) (s : State) : Res :=
  .next (issueSet s c .long (fun t => do
    let a ← operand t ra accBfp
    let (z, fl) := fcvtfi a.data
    pure (fpResult t rd (TWord.mkInt (ofInt64 z)) fl)))

/-- Only the sign bit changes (R109). -/
def execFneg (c : LC) (rd ra : Reg) (s : State) : Res :=
  .next (issueSet s c .long (fun t => do
    let a ← operand t ra accBfp
    pure (fpResult t rd (TWord.mkBfp (fneg a.data)) 0#5)))

def execFabs (c : LC) (rd ra : Reg) (s : State) : Res :=
  .next (issueSet s c .long (fun t => do
    let a ← operand t ra accBfp
    pure (fpResult t rd (TWord.mkBfp (a.data &&& 0x7FFFFFFFFFFFFFFF#64)) 0#5)))

/-- A point at which a pending floating-point trap is taken before the instruction (R106) (LOG 93). -/
def fpPoint (s : State) (c : Nat) (z : Size) (f : State → State) : State :=
  if runs s c && (curSet s c).fstat.pend != 0#5 then takeFpTrap s c z else f s

/-- FBAR raises FP_TRAP when PEND is nonzero (R107) (LOG 59). -/
def execFbar (c : LC) (z : Size) (s : State) : Res :=
  .next (fpPoint s c z (fun s => issueSet s c z (fun t => .ok t)))

/-- The trap taken at the retirement of the 64th instruction (R106). The instruction at that point is not named, so LONG is a free
bit (LOG 18). -/
def execFpTrap (c : LC) (s : State) : Res :=
  .next (
    if runs s c && fpDue (curSet s c) then
      let (s1, w) := useFree s
      takeFpTrap s1 c (if bitOf w 0 then .long else .short)
    else s)

/-! ## Packed decimal (R95-R99) -/

/-- A DEC operand's digits are valid, or DEC_DATA with its source (R95, R99). -/
def decOperand (w : W64) (src : Nat) : Ex Int :=
  match decBad w with
  | some n => .error { no := Trap.decData, sub := decSub src 0 n }
  | none => .ok (decVal w)

/-- Both operands tagged DEC, then both digit-checked, in the order ra, rb. -/
def decOperands (t : TaskSet) (ra rb : Nat) : Ex (Int × Int) := do
  let (a, b) ← operands2' t ra rb
  let x ← decOperand a 0
  let y ← decOperand b 1
  pure (x, y)
where
  operands2' (t : TaskSet) (ra rb : Nat) : Ex (W64 × W64) := do
    let a ← operand t ra accDec
    let b ← operand t rb accDec
    pure (a.data, b.data)

def decResult (z : Int) : Ex TWord := if decOvf z then .error { no := Trap.decOvf } else .ok (TWord.mkDec (decOf z))

def execDadd (c : LC) (rd ra rb : Reg) (s : State) : Res :=
  .next (issueSet s c .long (fun t => do
    let (x, y) ← decOperands t ra rb
    let w ← decResult (x + y)
    pure (gwrite t rd w)))

def execDsub (c : LC) (rd ra rb : Reg) (s : State) : Res :=
  .next (issueSet s c .long (fun t => do
    let (x, y) ← decOperands t ra rb
    let w ← decResult (x - y)
    pure (gwrite t rd w)))

def execDcmp (c : LC) (rd ra rb : Reg) (s : State) : Res :=
  .next (issueSet s c .long (fun t => do
    let (x, y) ← decOperands t ra rb
    pure (gwrite t rd (TWord.mkInt (ofInt64 (if x < y then -1 else if x = y then 0 else 1))))))

/-- ra with its sign nibble rewritten to the form of R96 (R98); a zero is positive. -/
def execDchk (c : LC) (rd ra : Reg) (s : State) : Res :=
  .next (issueSet s c .long (fun t => do
    let a ← operand t ra accDec
    let x ← decOperand a.data 0
    pure (gwrite t rd (TWord.mkDec (decOf x)))))

def execDtoi (c : LC) (rd ra : Reg) (s : State) : Res :=
  .next (issueSet s c .long (fun t => do
    let a ← operand t ra accDec
    let x ← decOperand a.data 0
    pure (gwrite t rd (TWord.mkInt (ofInt64 x)))))

def execItod (c : LC) (rd ra : Reg) (s : State) : Res :=
  .next (issueSet s c .long (fun t => do
    let a ← operand t ra accA
    let w ← decResult (sInt a.data)
    pure (gwrite t rd w)))

/-! ## Decimal vectors (R99, R100) -/

def ofLanes (l : List W64) : BitVec 256 := BitVec.ofNat 256 (l.foldr (fun w acc => acc * 2 ^ 64 + w.toNat) 0)

/-- The first invalid nibble of two vector operands: sources in the order ra, rb, then lanes, then nibbles (R99). -/
def vecBad (x : BitVec 256) (src : Nat) : Option Nat :=
  (List.range 4).findSome? (fun i => (decBad (lane x i)).map (fun n => decSub src i n))

/-- The digit checks of R95 on both operands, then the lowest overflowing lane; no lane is written on a trap (R100). -/
def execVdadd (c : LC) (vd va vb : VReg) (s : State) : Res :=
  .next (issueSet s c .long (fun t =>
    let x := vread t va
    let y := vread t vb
    match vecBad x 0, vecBad y 1 with
    | some n, _ => .error { no := Trap.decData, sub := n }
    | none, some n => .error { no := Trap.decData, sub := n }
    | none, none =>
      let sums := (List.range 4).map (fun i => decVal (lane x i) + decVal (lane y i))
      match (List.range 4).find? (fun i => decOvf (sums.getD i 0)) with
      | some i => .error { no := Trap.decOvf, sub := 16 * i }
      | none => .ok (vwrite (setVused t) vd (ofLanes (sums.map decOf)))))

end Sys2Proof.Machine
end

