-- ==== Sys2Proof/Machine/Memory.lean ====
section
/-! DEFINITION. Loads, stores, block accesses, atomic operations, fences and cache maintenance of logical cores (R70-R84, R139,
R180-R189), the response of a device window, and the fetch traps. -/

namespace Sys2Proof.Machine

/-! ## Outcomes of a memory instruction -/

/-- What a memory instruction comes to: it completes, it traps, or it waits for a line or, with `waitSend`, for room in the send
queue. -/
inductive MemRes where
  | done (s : State)
  | trap (s : State) (r : TrapRec)
  | wait (s : State) (ln : Nat)

/-- A number that no line has: the wait for the send queue (R427). -/
def waitSend : Nat := 2 ^ 45

/-- Another: the wait for device-window credits (R226). -/
def waitCredit : Nat := 2 ^ 45 + 2

/-- Device-window credits that an L2 agent has left of its 16 at each I/O die: a load holds one until its response, a store gives it back
with its acceptance, which is at once (R226, R228). -/
def devCredits (s : State) (c : Nat) : Nat :=
  16 - (match (lcore s c).replay with
    | some r => if r.amo.isSome then 0 else if r.vec.isSome then 4 else 1
    | none => 0)

/-- Issue a memory instruction; one that waits is held with its core and issued again when its wait is over. With `fp` a pending
floating-point trap is taken instead of an instruction that meets no precise trap (R88, R106). -/
def issueWith (fp : Bool) (s : State) (c : Nat) (z : Size) (i : Instr) (body : State → MemRes) : State :=
  if !runs s c then s
  else match body s with
    | .trap s1 r => raiseTrap s1 c z r
    | .wait s1 ln => if fp then takeFpTrap s c z else modLCore s1 c (fun l => { l with wait := some (ln, i) })
    | .done s1 => if fp then takeFpTrap s c z else retire s1 c (lcore s c).cur

def issueMem (s : State) (c : Nat) (z : Size) (i : Instr) (body : State → MemRes) : State :=
  issueWith (fpDue (curSet s c)) s c z i body

/-- The set that executes, past the instruction and changed by `f`. -/
def finish (s : State) (c : Nat) (z : Size) (f : TaskSet → TaskSet) : MemRes := .done (modCur s c (fun t => f (pastPc t z)))

/-- Traps raised once the address is formed carry it in TINFO (R87). -/
def atEa {α : Type} (va : W64) (x : Ex α) : Ex α :=
  match x with
  | .ok a => .ok a
  | .error r => .error { r with info := ea va }

def orTrap {α : Type} (s : State) (x : Ex α) (f : α → MemRes) : MemRes :=
  match x with
  | .ok a => f a
  | .error r => .trap s r

/-- The effective address: the base, which must be ADDR, plus the offset (R71). -/
def effAddr (t : TaskSet) (ra : Nat) (off : W64) : Ex W64 := do
  let b ← baseReg t ra
  pure (b + off)

def aligned (va : W64) (n : Nat) : Ex Unit := if va.toNat % n = 0 then .ok () else .error { no := Trap.align }

/-- The physical address of an access that a device window refuses (R82, R84): translation, then the window, then the ranges (R88). -/
def memoryAddr (s : State) (c : Nat) (va : W64) (n : Nat) (a : Acc) : Ex Nat := do
  let pa ← translate s c va a
  if (devOf pa).isSome then .error { no := Trap.pageFault, sub := 4 }
  else if coreReach s (partOf s c) pa n then pure pa
  else .error { no := Trap.partRange }

def isolatedTrap : TrapRec := { no := Trap.isolated }
def poisonTrap : TrapRec := { no := Trap.memPoison }

/-- The L2 can serve a load of the line, or a store, without its home. -/
def loadHit (s : State) (c ln : Nat) : Bool := match (l2Line s c ln).st with | .st _ | .smG _ => true | _ => false
def storeHit (s : State) (c ln : Nat) : Bool := match (l2Line s c ln).st with | .st .e | .st .m => true | _ => false

def clearReply (s : State) (c : Nat) : State := modLCore s c (fun l => { l with reply := none })

/-- Ask for a line that the L2 cannot serve, by `start`, and go on with `k` once `ready` says that the answer is there: a dead home answers
ISOLATED, the answer to an earlier request may have been ISOLATED too (R234, R235), and else the access waits. -/
def askLine (s : State) (c ln : Nat) (start : State → State) (ready : State → Bool) (k : State → MemRes) : MemRes :=
  if (lcore s c).reply = some true then .trap (clearReply s c) isolatedTrap
  else if isolatedFrom s (lcoreHalf c) ln && !coreAsks s c ln then .trap (countIso s (lcoreHalf c) ln) isolatedTrap
  else
    let s1 := start s
    if (lcore s1 c).reply = some true then .trap (clearReply s1 c) isolatedTrap
    else if ready s1 then k s1
    else .wait s1 ln

/-- Obtain lines one after the other, each shared or owned, then go on. -/
def withLines (s : State) (c : Nat) (own : Bool) : List Nat → (State → MemRes) → MemRes
  | [], k => k s
  | ln :: rest, k =>
    let hit := fun (s : State) => if own then storeHit s c ln else loadHit s c ln
    if hit s then withLines s c own rest k
    else askLine s c ln (fun s => obtain s c ln own false) hit (fun s1 => withLines s1 c own rest k)

/-- Give the traps of a memory phase their effective address. -/
def memAtEa (va : W64) (r : MemRes) : MemRes := match r with | .trap s t => .trap s { t with info := ea va } | x => x

/-! ## Loads (R72, R73) -/

inductive LoadKind where
  | t | w | wu | h | hu | b | bu | c
deriving DecidableEq, Repr

def loadBytes (k : LoadKind) : Nat :=
  match k with
  | .t => 8
  | .w | .wu => 4
  | .h | .hu => 2
  | .b | .bu | .c => 1

/-- The bits of `n` bytes at byte `o` of a word. -/
def lanes (w : W64) (o n : Nat) : Nat := (w.toNat >>> (8 * o)) % 2 ^ (8 * n)

def signExt (v n : Nat) : W64 := BitVec.ofNat 64 (if 2 ^ (8 * n - 1) ≤ v then v + 2 ^ 64 - 2 ^ (8 * n) else v)

/-- What a load returns of the memory word (R72, R73). A narrow load from memory that holds no tags reads a RAW word, and its result has the
tag of R72's table as any other's (R74; LOG 110). -/
def loadValue (k : LoadKind) (w : TWord) (o : Nat) : TWord :=
  let n := loadBytes k
  let v := lanes w.data o n
  match k with
  | .t => w
  | _ =>
    if isVoidish w.tag then TWord.void
    else match k with
      | .w | .h | .b => TWord.mkInt (signExt v n)
      | .c => TWord.mkChar (BitVec.ofNat 64 v)
      | _ => TWord.mkRaw (BitVec.ofNat 64 v)

/-- A device-window load: its issue retires it, and the value waits in the replay buffer for its response (R139). A register of a die behind
a hull answers ISOLATED (R235). -/
def deviceLoad (s : State) (c p off : Nat) (va : W64) (k : LoadKind) (rd : Reg) (z : Size) : MemRes :=
  let cur := (lcore s c).cur
  if devDead s off then .trap (devIsolated s off) isolatedTrap
  else
    let (s1, v) := devRead s p c cur (off / 8 * 8)
    let s2 := modLCore s1 c (fun l => { l with
      replay := some { set := cur, rd := rd, value := loadValue k (TWord.mkRaw v) (off % 8), arrived := false,
                       pc := pcOf s c, va := va, die := devDie s off, since := pip s } })
    finish s2 c z id

def loadAt (s : State) (c : Nat) (z : Size) (k : LoadKind) (rd : Reg) (va : W64) : MemRes :=
  let n := loadBytes k
  memAtEa va (orTrap s (do aligned va n; physical s c va n .read) (fun pa =>
    match devOf pa with
    | some (p, off) => deviceLoad s c p off va k rd z
    | none =>
      let ln := lineOf pa
      withLines s c false [ln] (fun s1 =>
        let s2 := l1Fill s1 c ln
        let w := lineWord (l2Data s2 c ln) (wordOf pa % 16)
        if w.poison then .trap s2 poisonTrap
        else finish s2 c z (fun t => gwrite t rd (loadValue k w.w (pa % 8))))))

def load (s : State) (c : Nat) (z : Size) (k : LoadKind) (rd ra : Reg) (off : W64) : MemRes :=
  orTrap s (effAddr (curSet s c) ra off) (fun va => loadAt s c z k rd va)

/-! ## Stores (R72, R74) -/

inductive StoreKind where
  | t | w | h | b
deriving DecidableEq, Repr

def storeBytes (k : StoreKind) : Nat := match k with | .t => 8 | .w => 4 | .h => 2 | .b => 1

/-- The source register: any tag for STT, INT, RAW, CHAR or USERn for the others (R72). -/
def storeSource (t : TaskSet) (k : StoreKind) (rs : Nat) : Ex TWord :=
  match k with
  | .t => .ok (gread t rs)
  | _ => operand t rs accL

/-- The word after a store of `n` bytes at byte `o`: STT replaces it, a narrow store makes it RAW (R72). -/
def storeWord (k : StoreKind) (old : CWord) (w : TWord) (o : Nat) : CWord :=
  match k with
  | .t => { w := w, poison := false }
  | _ =>
    let m := laneMask o (storeBytes k)
    { w := TWord.mkRaw ((old.w.data &&& ~~~m) ||| ((w.data <<< (8 * o)) &&& m)), poison := old.poison }

/-- A store of words into one or two owned lines, at consecutive word addresses. -/
def storeWords (s : State) (c : Nat) : Nat → List CWord → State
  | _, [] => s
  | wi, w :: ws => storeWords (l2Store s c (wi / 16) (wi % 16) w) c (wi + 1) ws

def storeAt (s : State) (c : Nat) (z : Size) (k : StoreKind) (w : TWord) (va : W64) : MemRes :=
  let n := storeBytes k
  let cur := (lcore s c).cur
  orTrap s (do aligned va n; physical s c va n .write) (fun pa =>
    let untagged := isCxl pa || (devOf pa).isSome
    if untagged && k == .t && !isRawUser w.tag then .trap s { no := Trap.tagStore }
    else match devOf pa with
      | some (p, off) =>
        let v := w.data <<< (8 * (off % 8))
        if devBlocked s c (off / 8 * 8) v (off % 8) n then .wait s waitSend
        else if devCredits s c < 1 then .wait s waitCredit
        else finish (devWrite s p c cur (off / 8 * 8) v (off % 8) n) c z id
      | none =>
        let ln := lineOf pa
        withLines s c true [ln] (fun s1 =>
          let old := lineWord (l2Data s1 c ln) (wordOf pa % 16)
          finish (l2Store s1 c ln (wordOf pa % 16) (storeWord k old (untagIf (isCxl pa) w) (pa % 8))) c z id))

def store (s : State) (c : Nat) (z : Size) (k : StoreKind) (rs ra : Reg) (off : W64) : MemRes :=
  let t := curSet s c
  orTrap s (effAddr t ra off) (fun va => memAtEa va (orTrap s (storeSource t k rs) (fun w => storeAt s c z k w va)))

/-! ## Block accesses (R85) -/

/-- The four words of a block, at physical addresses of their own: the translation of every word before the range of any (R88). -/
def blockAddrs (s : State) (c : Nat) (va : W64) (a : Acc) : Ex (List Nat) := do
  aligned va 8
  let p0 ← translate s c va a
  let p1 ← translate s c (va + 8#64) a
  let p2 ← translate s c (va + 16#64) a
  let p3 ← translate s c (va + 24#64) a
  if [p0, p1, p2, p3].all (fun pa => coreReach s (partOf s c) pa 8) then pure [p0, p1, p2, p3]
  else .error { no := Trap.partRange, info := ea va }

/-- Words that lie in memory, by line. -/
def memLines (pas : List Nat) : List Nat := ((pas.filter (fun pa => (devOf pa).isNone)).map lineOf).eraseDups

/-- Window offsets of the words of a block that lie in a device window. -/
def devOffs (pas : List Nat) : List Nat := pas.filterMap (fun pa => (devOf pa).map (·.2))

/-- Tags that VLD refuses. -/
def vldBad (t : Tag) : Bool := t == Tag.addr || t == Tag.code || isVoidish t

/-- Read the words of a VLD in order; a device register is read with its side effect. -/
def blockRead4 (c cur : Nat) : State → List Nat → List CWord → State × List CWord
  | s, [], acc => (s, acc.reverse)
  | s, pa :: rest, acc =>
    match devOf pa with
    | some (p, off) =>
      let (s1, v) := devRead s p c cur off
      blockRead4 c cur s1 rest ({ w := TWord.mkRaw v, poison := false } :: acc)
    | none => blockRead4 c cur s rest (lineWord (l2Data s c (lineOf pa)) (wordOf pa % 16) :: acc)

/-- VLD: a word with a tag that it refuses comes before a line whose home answers ISOLATED, and that before a poisoned word (R88). -/
def vload (s : State) (c : Nat) (vd : VReg) (ra : Reg) (off : W64) : MemRes :=
  let cur := (lcore s c).cur
  orTrap s (effAddr (curSet s c) ra off) (fun va => memAtEa va (orTrap s (blockAddrs s c va .read) (fun pas =>
    let lost := fun (ln : Nat) => !loadHit s c ln && isolatedFrom s (lcoreHalf c) ln
    let here := (memLines pas).filter (fun ln => !lost ln)
    withLines s c false here (fun s1 =>
      let s2 := here.foldl (fun s ln => l1Fill s c ln) s1
      let mem := (pas.filter (fun pa => here.contains (lineOf pa))).map (fun pa => lineWord (l2Data s2 c (lineOf pa)) (wordOf pa % 16))
      match mem.find? (fun w => vldBad w.w.tag && !w.poison) with
      | some w => .trap s2 (tagTrap 0 w.w.tag 1)
      | none =>
        if (memLines pas).any lost then .trap s2 isolatedTrap
        else if mem.any (·.poison) then .trap s2 poisonTrap
        else match (devOffs pas).find? (devDead s2) with
        | some o => .trap (devIsolated s2 o) isolatedTrap
        | none =>
          if devCredits s2 c < (devOffs pas).length then .wait s2 waitCredit
          else
          let (s3, ws) := blockRead4 c cur s2 pas []
          let x := ofLanes (ws.map (·.w.data))
          if pas.any (fun pa => (devOf pa).isSome) then
            let s4 := modLCore s3 c (fun l => { l with
              replay := some { set := cur, rd := ⟨vd.val, by omega⟩, value := TWord.void, vec := some x, arrived := false,
                               pc := pcOf s c, va := va, die := (devOffs pas).findSome? (devDie s), since := pip s } })
            finish s4 c .long setVused
          else finish s3 c .long (fun t => vwrite (setVused t) vd x)))))

/-- The lanes of a VSTD as DCHK returns them (R85, R95). -/
def vstdLanes (x : BitVec 256) : Ex (List TWord) :=
  match (List.range 4).findSome? (fun i => (decBad (lane x i)).map (fun n => decSub 2 i n)) with
  | some sub => .error { no := Trap.decData, sub := sub }
  | none => .ok ((List.range 4).map (fun i => TWord.mkDec (decOf (decVal (lane x i)))))

/-- Write the words of a block in order. -/
def blockWrite4 (c cur : Nat) : State → List (Nat × TWord) → State
  | s, [] => s
  | s, (pa, w) :: rest =>
    match devOf pa with
    | some (p, off) => blockWrite4 c cur (devWrite s p c cur off w.data 0 8) rest
    | none =>
      blockWrite4 c cur (l2Store s c (lineOf pa) (wordOf pa % 16) { w := untagIf (isCxl pa) w, poison := false }) rest

def vstore (s : State) (c : Nat) (dec : Bool) (vs : VReg) (ra : Reg) (off : W64) : MemRes :=
  let cur := (lcore s c).cur
  let t := curSet s c
  let x := vread t vs
  orTrap s (effAddr t ra off) (fun va => memAtEa va (orTrap s (blockAddrs s c va .write) (fun pas =>
    if dec && pas.any (fun pa => isCxl pa || (devOf pa).isSome) then .trap s { no := Trap.tagStore }
    else orTrap s (if dec then vstdLanes x else .ok ((List.range 4).map (fun i => TWord.mkRaw (lane x i)))) (fun ws =>
      let blocked := (pas.zip ws).any (fun p => match devOf p.1 with
        | some (_, o) => devBlocked s c o p.2.data 0 8
        | none => false)
      if blocked then .wait s waitSend
      else withLines s c true (memLines pas) (fun s1 => finish (blockWrite4 c cur s1 (pas.zip ws)) c .long setVused)))))

/-! ## Atomic operations (R80-R82, R180-R183) -/

/-- The result of an atomic at the instruction: the old word, or its trap. -/
def amoFinish (s : State) (c : Nat) (rd : Reg) (old : TWord) (st : AmoStatus) : MemRes :=
  match amoTrap st with
  | some r => .trap s r
  | none => finish s c .long (fun t => gwrite t rd old)

/-- An atomic passes the voter: it is placed, and its response is awaited in the replay buffer (R139, R180). -/
def amoPlace (s : State) (c pa : Nat) (va : W64) (x : AmoArgs) (rd : Reg) (near : Bool) : State :=
  modLCore s c (fun l => { l with replay := some {
    set := l.cur, rd := rd, value := TWord.void, arrived := false, pc := pcOf s c, va := va
    amo := some { pa := pa, args := x, near := near } } })

/-- The response is there: the instruction ends with it. Else its issue retires it, and the response is written when it comes (R139). -/
def amoSettle (s : State) (c : Nat) (rd : Reg) : MemRes :=
  match (lcore s c).replay with
  | some r =>
    if r.arrived then
      let s1 := modLCore s c (fun l => { l with replay := none })
      if r.isolated then .trap s1 isolatedTrap else amoFinish s1 c rd r.value r.status
    else finish s c .long id
  | none => finish s c .long id

/-- Execution at the home (R181). -/
def amoHome (s : State) (c pa : Nat) (va : W64) (x : AmoArgs) (rd : Reg) (learn : Bool) : MemRes :=
  let ln := lineOf pa
  if isolatedFrom s (lcoreHalf c) ln then .trap (countIso s (lcoreHalf c) ln) (((amoUnread x).bind amoTrap).getD isolatedTrap)
  else amoSettle (launch (amoPlace s c pa va x rd false)
    { agent := c, line := ln, r := .amo c pa x, core := true, learn := learn }) c rd

/-- The operation on a line that the L2 holds in E or M: the old word and the status (R182). -/
def amoInL2 (s : State) (c pa : Nat) (x : AmoArgs) : State × TWord × AmoStatus :=
  let ln := lineOf pa
  let k := wordOf pa % 16
  let w := lineWord (l2Data s c ln) k
  match amoOn (isCxl pa) x w with
  | (st, some n) => (l2Store s c ln k { w := untagIf (isCxl pa) n, poison := false }, w.w, st)
  | (st, none) => (s, w.w, st)

/-- A near atomic that was no hit: its line is asked for, and once it is there the operation is applied, the counter moves up, and the
response is in the replay buffer. -/
def amoNearEnd (s : State) (c : Nat) : State :=
  match (lcore s c).replay with
  | some r => match r.amo with
    | some w =>
      if w.near && !r.arrived then
        let s0 := if storeHit s c (lineOf w.pa) then s else obtain s c (lineOf w.pa) true false
        if storeHit s0 c (lineOf w.pa) then
          let (s1, old, st) := amoInL2 (predMove s0 c w.pa true) c w.pa w.args
          modLCore s1 c (fun l => { l with replay := some { r with arrived := true, value := old, status := st } })
        else s0
      else s
    | none => s
  | none => s

/-- Execution in the L2 (R182). -/
def amoNear (s : State) (c pa : Nat) (va : W64) (x : AmoArgs) (rd : Reg) : MemRes :=
  let ln := lineOf pa
  if storeHit s c ln then
    let (s1, old, st) := amoInL2 (predMove s c pa false) c pa x
    amoFinish s1 c rd old st
  else if isolatedFrom s (lcoreHalf c) ln then .trap (countIso s (lcoreHalf c) ln) (((amoUnread x).bind amoTrap).getD isolatedTrap)
  else amoSettle (amoNearEnd (amoPlace s c pa va x rd true) c) c rd

def amo (s : State) (c : Nat) (op : AmoOp) (rd ra rb : Reg) : MemRes :=
  let t := curSet s c
  orTrap s (effAddr t ra 0#64) (fun va => memAtEa va (
    orTrap s (do
      let b ← operand t rb (match op with | .add => accA | .dadd => accDec | _ => accAny)
      let e ← (match op with | .cas => operand t rd accAny | _ => .ok (gread t rd))
      aligned va 8
      let pa ← memoryAddr s c va 8 .amo
      pure (b, e, pa)) (fun (b, e, pa) =>
        let x : AmoArgs := { op := op, operand := b, expected := e }
        match (amoSure (isCxl pa) x).bind amoTrap with
        | some r => .trap s r
        | none =>
        if predictorMode s.mode.mode then
          (if 2 ≤ predOf s c pa then amoHome s c pa va x rd true else amoNear s c pa va x rd)
        else amoHome s c pa va x rd false)))

/-! ## Fences and cache maintenance (R79, R83, R84, R187-R189) -/

def zline (s : State) (c : Nat) (ra : Reg) (off : W64) : MemRes :=
  orTrap s (effAddr (curSet s c) ra off) (fun va => memAtEa va (
    orTrap s (do aligned va 128; memoryAddr s c va 128 .write) (fun pa =>
      let ln := lineOf pa
      let zero := fun (s : State) => obtain s c ln true true
      if storeHit s c ln then finish (zero s) c .long id
      else askLine s c ln zero (fun s => storeHit s c ln) (fun s1 => finish (zero s1) c .long id))))

/-- CCLEAN, CFLUSH and CINV on the line that holds the address. -/
def maintain (s : State) (c : Nat) (m : Maint) (ra : Reg) (off : W64) : MemRes :=
  orTrap s (effAddr (curSet s c) ra off) (fun va => memAtEa va (
    orTrap s (memoryAddr s c va 1 (if m = .inv then .write else .read)) (fun pa =>
      let ln := lineOf pa
      if (lcore s c).reply = some false then finish (clearReply s c) c .long id
      else askLine s c ln
        (fun s => if coreAsks s c ln then s else launch s { agent := c, line := ln, r := .maint c m, core := true })
        (fun s => !coreAsks s c ln) (fun s1 => finish (clearReply s1 c) c .long id))))

/-- CINV is for level S; its PRIV carries the effective address when the base is ADDR (R87). -/
def cinvBody (s : State) (c : Nat) (ra : Reg) (off : W64) : MemRes :=
  let t := curSet s c
  if t.tstat.priv then maintain s c .inv ra off
  else
    let r : TrapRec := { no := Trap.priv }
    match effAddr t ra off with
    | .ok va => .trap s { r with info := ea va }
    | .error _ => .trap s r

/-- A number that no line has: the wait for the last eviction of L2WB (R189). -/
def waitEvict : Nat := 2 ^ 45 + 1

/-- L2WB: every modified line is evicted, and the instruction completes when the last of those evictions reaches I (R189). -/
def l2wbBody (s : State) (c : Nat) : MemRes :=
  if (curSet s c).tstat.priv then
    let s1 := forEach s (modifiedLines s c) (fun s ln => evictRun s c ln)
    if (linesOf s1 c (fun x => decide (x = .st .m) || l2Leaving x)).isEmpty then finish s1 c .long id else .wait s1 waitEvict
  else .trap s { no := Trap.priv }

/-! ## The instructions -/

def mform (f : MForm) : Reg × Reg × W64 × Size :=
  match f with
  | .long rd ra imm => (rd, ra, sx imm, .long)
  | .base rd b off => (rd, ⟨24 + b.toNat, by omega⟩, BitVec.ofNat 64 (8 * off.toNat), .short)
  | .stack rd off => (rd, 2, BitVec.ofNat 64 (8 * off.toNat), .short)

/-- LDTP: PC with bits [2:0] cleared, plus 8 times the offset (R72). -/
def ldtpAddr (t : TaskSet) (imm : BitVec 19) : W64 := (t.pc.data &&& ~~~7#64) + sx imm * 8#64

/-- The size and the body of each instruction that accesses memory. -/
def memBody (i : Instr) : Option (LC × Size × (State → MemRes)) :=
  match i with
  | .ldt c f => some (c, (mform f).2.2.2, fun s => load s c (mform f).2.2.2 .t (mform f).1 (mform f).2.1 (mform f).2.2.1)
  | .ldw c rd ra imm => some (c, .long, fun s => load s c .long .w rd ra (sx imm))
  | .ldwu c rd ra imm => some (c, .long, fun s => load s c .long .wu rd ra (sx imm))
  | .ldh c rd ra imm => some (c, .long, fun s => load s c .long .h rd ra (sx imm))
  | .ldhu c rd ra imm => some (c, .long, fun s => load s c .long .hu rd ra (sx imm))
  | .ldb c rd ra imm => some (c, .long, fun s => load s c .long .b rd ra (sx imm))
  | .ldbu c rd ra imm => some (c, .long, fun s => load s c .long .bu rd ra (sx imm))
  | .ldc c rd ra imm => some (c, .long, fun s => load s c .long .c rd ra (sx imm))
  | .ldtp c rd imm => some (c, .long, fun s => loadAt s c .long .t rd (ldtpAddr (curSet s c) imm))
  | .stt c f => some (c, (mform f).2.2.2, fun s => store s c (mform f).2.2.2 .t (mform f).1 (mform f).2.1 (mform f).2.2.1)
  | .stw c rs ra imm => some (c, .long, fun s => store s c .long .w rs ra (sx imm))
  | .sth c rs ra imm => some (c, .long, fun s => store s c .long .h rs ra (sx imm))
  | .stb c rs ra imm => some (c, .long, fun s => store s c .long .b rs ra (sx imm))
  | .vld c vd ra imm => some (c, .long, fun s => vload s c vd ra (sx imm))
  | .vst c vs ra imm => some (c, .long, fun s => vstore s c false vs ra (sx imm))
  | .vstd c vs ra imm => some (c, .long, fun s => vstore s c true vs ra (sx imm))
  | .amoadd c rd ra rb _ => some (c, .long, fun s => amo s c .add rd ra rb)
  | .amoswap c rd ra rb _ => some (c, .long, fun s => amo s c .swap rd ra rb)
  | .amocas c rd ra rb _ => some (c, .long, fun s => amo s c .cas rd ra rb)
  | .damoadd c rd ra rb _ => some (c, .long, fun s => amo s c .dadd rd ra rb)
  | .zline c ra imm => some (c, .long, fun s => zline s c ra (sx imm))
  | .cclean c ra imm => some (c, .long, fun s => maintain s c .clean ra (sx imm))
  | .cflush c ra imm => some (c, .long, fun s => maintain s c .flush ra (sx imm))
  | .cinv c ra imm => some (c, .long, fun s => cinvBody s c ra (sx imm))
  | .l2wb c _ _ => some (c, .long, fun s => l2wbBody s c)
  | _ => none

/-- Issue an instruction that accesses memory. -/
def memRun (i : Instr) (s : State) : State :=
  match memBody i with
  | some (c, z, body) => issueMem s c z i body
  | none => s

def execLdt (c : LC) (f : MForm) (s : State) : Res := .next (memRun (.ldt c f) s)
def execLdw (c : LC) (rd ra : Reg) (imm : BitVec 14) (s : State) : Res := .next (memRun (.ldw c rd ra imm) s)
def execLdwu (c : LC) (rd ra : Reg) (imm : BitVec 14) (s : State) : Res := .next (memRun (.ldwu c rd ra imm) s)
def execLdh (c : LC) (rd ra : Reg) (imm : BitVec 14) (s : State) : Res := .next (memRun (.ldh c rd ra imm) s)
def execLdhu (c : LC) (rd ra : Reg) (imm : BitVec 14) (s : State) : Res := .next (memRun (.ldhu c rd ra imm) s)
def execLdb (c : LC) (rd ra : Reg) (imm : BitVec 14) (s : State) : Res := .next (memRun (.ldb c rd ra imm) s)
def execLdbu (c : LC) (rd ra : Reg) (imm : BitVec 14) (s : State) : Res := .next (memRun (.ldbu c rd ra imm) s)
def execLdc (c : LC) (rd ra : Reg) (imm : BitVec 14) (s : State) : Res := .next (memRun (.ldc c rd ra imm) s)
def execLdtp (c : LC) (rd : Reg) (imm : BitVec 19) (s : State) : Res := .next (memRun (.ldtp c rd imm) s)
def execStt (c : LC) (f : MForm) (s : State) : Res := .next (memRun (.stt c f) s)
def execStw (c : LC) (rs ra : Reg) (imm : BitVec 14) (s : State) : Res := .next (memRun (.stw c rs ra imm) s)
def execSth (c : LC) (rs ra : Reg) (imm : BitVec 14) (s : State) : Res := .next (memRun (.sth c rs ra imm) s)
def execStb (c : LC) (rs ra : Reg) (imm : BitVec 14) (s : State) : Res := .next (memRun (.stb c rs ra imm) s)
def execVld (c : LC) (vd : VReg) (ra : Reg) (imm : BitVec 14) (s : State) : Res := .next (memRun (.vld c vd ra imm) s)
def execVst (c : LC) (vs : VReg) (ra : Reg) (imm : BitVec 14) (s : State) : Res := .next (memRun (.vst c vs ra imm) s)
def execVstd (c : LC) (vs : VReg) (ra : Reg) (imm : BitVec 14) (s : State) : Res := .next (memRun (.vstd c vs ra imm) s)
def execAmoadd (c : LC) (rd ra rb : Reg) (o : AmoOrder) (s : State) : Res := .next (memRun (.amoadd c rd ra rb o) s)
def execAmoswap (c : LC) (rd ra rb : Reg) (o : AmoOrder) (s : State) : Res := .next (memRun (.amoswap c rd ra rb o) s)
def execAmocas (c : LC) (rd ra rb : Reg) (o : AmoOrder) (s : State) : Res := .next (memRun (.amocas c rd ra rb o) s)
def execDamoadd (c : LC) (rd ra rb : Reg) (o : AmoOrder) (s : State) : Res := .next (memRun (.damoadd c rd ra rb o) s)
def execZline (c : LC) (ra : Reg) (imm : BitVec 14) (s : State) : Res := .next (memRun (.zline c ra imm) s)
def execCclean (c : LC) (ra : Reg) (imm : BitVec 14) (s : State) : Res := .next (memRun (.cclean c ra imm) s)
def execCflush (c : LC) (ra : Reg) (imm : BitVec 14) (s : State) : Res := .next (memRun (.cflush c ra imm) s)
def execCinv (c : LC) (ra : Reg) (imm : BitVec 14) (s : State) : Res := .next (memRun (.cinv c ra imm) s)
def execL2wb (c : LC) (ra : Reg) (imm : BitVec 14) (s : State) : Res := .next (memRun (.l2wb c ra imm) s)

/-- FENCE: every older access of this model has been performed, so it only falls through. -/
def execFence (c : LC) (s : State) : Res := .next (issueNext s c .long (fun s => .ok s))

/-- IFENCE invalidates the instruction L1 of every member (R160, R518). -/
def execIfence (c : LC) (s : State) : Res := .next (issueNext s c .long (fun s => .ok (l1Invalidate s c false)))

/-! ## DEVICE_WINDOW_RESPONSE (R139) -/

/-- The response reaches the trio: it is written to the register, unless the trio is in checkstop, when it waits for resumption; a
MACHINE_CHECK that waited for it is entered then. -/
def execDeviceWindowResponse (c : LC) (s : State) : Res :=
  .next (whenServing s (
    match (lcore s c).replay with
    | some r =>
      let s1 := modLCore s c (fun l => { l with replay := some { r with arrived := true } })
      if r.amo.isSome then s
      else if trioRuns (trio s (trioOf c)).state && (lcore s c).ckPip0.isNone then enterMc (deliverReplay s1 c) c else s1
    | none => s))

/-! ## INSTRUCTION_FETCH_FAULT (R87, R88) -/

/-- The fetch trap at an address: ALIGN, PAGE_FAULT, PART_RANGE in this order (R88). -/
def fetchTrap (s : State) (c : Nat) (va : W64) : Option TrapRec :=
  if va.toNat % 2 ≠ 0 then some { no := Trap.align, info := ea va }
  else match physical s c va 2 .exec with
    | .error r => some { r with info := ea va }
    | .ok _ => none

/-- The fetch of the instruction at the program counter, or of its second halfword, meets a fetch trap. No decoded instruction traps at
the first halfword, so LONG is 0 there (LOG 112). -/
def execInstructionFetchFault (c : LC) (secondHalf : Bool) (s : State) : Res :=
  .next (
    if !runs s c then s
    else
      let pc := pcOf s c
      match fetchTrap s c pc, secondHalf with
      | some r, false => raiseTrap s c .short r
      | none, true => (match fetchTrap s c (pc + 2#64) with | some r => raiseTrap s c .long r | none => s)
      | _, _ => s)

end Sys2Proof.Machine
end

