-- ==== Sys2Proof/Machine/Tasks.lean ====
section
/-! DEFINITION. Switching, saving and restoring task sets, the task window, the return from a trap and the special registers
(R117-R132, R517), and the reissue of instructions that waited. -/

namespace Sys2Proof.Machine

/-- Issue an instruction that is a point of R106: its own precise traps come first (R88), then the pending floating-point trap. -/
def issuePoint (s : State) (c : Nat) (z : Size) (i : Instr) (body : State → MemRes) : State :=
  issueWith ((curSet s c).fstat.pend != 0#5) s c z i body

def illegal (sub : Nat) : TrapRec := { no := Trap.illegalOp, sub := sub }
def privTrap (sub : Nat) : TrapRec := { no := Trap.priv, sub := sub }

/-- A target set number in a register (R117, R120). -/
def setNumber (t : TaskSet) (r : Nat) : Ex Nat := do
  let w ← operand t r accA
  if w.data.toNat ≤ 31 then pure w.data.toNat else .error (illegal 0x14)

/-! ## TSWITCH (R117-R119) -/

def swTarget (t : TaskSet) (f : SwForm) : Ex Nat :=
  match f with
  | .imm n => .ok n.val
  | .regShort r => setNumber t r
  | .regLong rb => setNumber t rb

def swSize (f : SwForm) : Size := match f with | .regLong _ => .long | _ => .short

/-- The conditions on the target, in the order of R117. -/
def switchCheck (s : State) (c k : Nat) : Ex Unit :=
  let t := curSet s c
  let g := taskSet s c k
  if !t.tstat.priv && !t.tstat.tallow.getLsbD k then .error (privTrap 1)
  else if g.tstat.state ≠ .ready then .error (privTrap 2)
  else if g.pc.tag ≠ Tag.code then .error (tagTrap 0 g.pc.tag 6)
  else .ok ()

/-- The switch: the old set READY, the target RUNNING, and what the target has pending entered (R119). -/
def switchTo (s : State) (c k : Nat) (z : Size) : State :=
  let s1 := modCur s c (fun t => modTstat (pastPc t z) (fun x => { x with state := .ready }))
  let s2 := modSet (modLCore s1 c (fun l => { l with cur := k })) c k (fun t => modTstat t (fun x => { x with state := .running }))
  enterPending s2 c true

def tswitchBody (s : State) (c : Nat) (f : SwForm) : MemRes :=
  orTrap s (swTarget (curSet s c) f) (fun k =>
    if k = (lcore s c).cur then finish s c (swSize f) id
    else orTrap s (switchCheck s c k) (fun _ => .done (switchTo s c k (swSize f))))

/-- TSWITCH is a point of R106, also to the executing set's own number, where it switches nothing (R118). -/
def execTswitch (c : LC) (f : SwForm) (s : State) : Res :=
  .next (issuePoint s c (swSize f) (.tswitch c f) (fun s => tswitchBody s c f))

/-! ## Frames (R122-R124) -/

def frameBytes : Nat := 1152

/-- The target of TSAVE or TLOAD: ILLEGAL_OP before PRIV before the number's tag (R88, R120, R121). -/
def frameTarget (s : State) (c : Nat) (rb : Nat) (save : Bool) : Ex Nat := do
  let t := curSet s c
  if !t.tstat.priv && !accA (gread t rb).tag then .error (privTrap 0)
  let k ← setNumber t rb
  if k = (lcore s c).cur then .error (illegal 0x10)
  let empty := decide ((taskSet s c k).tstat.state = .empty)
  if save then (if empty || k == 0 then .error (illegal 0x11) else pure ())
  else (if !empty then .error (illegal 0x11) else pure ())
  if t.tstat.priv then pure k else .error (privTrap 0)

/-- Address of frame line `n`. -/
def frameLine (base : W64) (n : Nat) : W64 := base + BitVec.ofNat 64 (128 * n)

/-- Translation of the lines in order; a fault names its line. -/
def frameMap (s : State) (c : Nat) (base : W64) (a : Acc) (noDevice : Bool) : List Nat → Ex (List Nat)
  | [] => .ok []
  | n :: rest => do
    let va := frameLine base n
    let pa ← atEa va (translate s c va a)
    if noDevice && (devOf pa).isSome then .error { no := Trap.pageFault, sub := 4, info := ea va }
    let more ← frameMap s c base a noDevice rest
    pure (pa :: more)

/-- All nine lines: translation and permission of every line before the ranges of any (R88, R122). -/
def framePas (s : State) (c : Nat) (base : W64) (a : Acc) (noDevice : Bool) : Ex (List Nat) := do
  let pas ← frameMap s c base a noDevice (List.range 9)
  match (List.range 9).find? (fun n => !coreReach s (partOf s c) (pas.getD n 0) 128) with
  | some n => .error { no := Trap.partRange, info := ea (frameLine base n) }
  | none => pure pas

/-- The first of some lines whose home answers ISOLATED. -/
def frameIsolated (s : State) (c : Nat) (base : W64) (pas : List Nat) (own : Bool) (ns : List Nat) : Ex Unit :=
  match ns.find? (fun n =>
    let ln := lineOf (pas.getD n 0)
    !(if own then storeHit s c ln else loadHit s c ln) && isolatedFrom s (lcoreHalf c) ln) with
  | some n => .error { no := Trap.isolated, info := ea (frameLine base n) }
  | none => .ok ()

/-- Lines of a frame that hold data: the basic area, and the extended area when VUSED is set. -/
def frameLines (vused : Bool) : List Nat := List.range (if vused then 7 else 3)

/-- The words of a frame by word number (R123). -/
def frameWords (k : Nat) (t : TaskSet) : List (Nat × TWord) :=
  let x := t.tstat
  let hdr := BitVec.ofNat 64 (flag x.mcpend 11 + flag x.intrap 10 + flag x.evpend 9 + flag x.vused 8 + 1)
  [(0, TWord.mkRaw hdr), (1, t.pc), (2, TWord.mkRaw (tstatWord k x)), (3, t.tepc), (4, t.tinfo), (5, TWord.mkRaw t.tcause),
   (6, TWord.mkRaw 0#64), (7, TWord.mkRaw 0#64)] ++
  (List.range 32).map (fun n => (8 + n, gread t n)) ++
  (if x.vused then
    (List.range 64).map (fun i => (40 + i, TWord.mkRaw (lane (vread t (i / 4)) (i % 4)))) ++
    [(104, TWord.mkRaw (fstatWord t.fstat)), (105, TWord.mkRaw t.fepc.data)]
  else [])

/-- Store the words of a frame at the physical lines `pas`. -/
def frameStore (s : State) (c : Nat) (pas : List Nat) (ws : List (Nat × TWord)) : State :=
  ws.foldl (fun s w => l2Store s c (lineOf (pas.getD (w.1 / 16) 0)) (w.1 % 16) { w := w.2, poison := false }) s

/-- The set after TSAVE (R123). -/
def savedSet (t : TaskSet) : TaskSet :=
  { t with
    g := [], v := [], pc := TWord.void, tepc := TWord.mkRaw 0#64, tinfo := TWord.mkRaw 0#64, tcause := 0#64
    fstat := {}, fepc := TWord.mkRaw 0#64, fpAge := 0, staged := none
    tstat := { t.tstat with state := .empty, evpend := false, mcpend := false } }

/-- The staged vector goes back to the head of the set's queue (R421). -/
def unstage (s : State) (c k : Nat) : State :=
  let t := taskSet s c k
  match t.tstat.evpend, t.staged with
  | true, some v => modLCore s c (fun l => { l with evq := tmod [] l.evq k (fun q => v :: q.filter (· != v)) })
  | _, _ => s

def frameBase (g2 : W64) : W64 := (g2 - BitVec.ofNat 64 frameBytes) &&& ~~~127#64

/-- A trap of TSAVE before its lines are formed carries the frame base where the number names a set whose G2 is ADDR (R87). -/
def tsaveNamed (s : State) (c : Nat) (rb : Reg) (r : TrapRec) : TrapRec :=
  let w := gread (curSet s c) rb
  let g2 := gread (taskSet s c w.data.toNat) 2
  if accA w.tag && decide (w.data.toNat ≤ 31) && g2.tag == Tag.addr then { r with info := ea (frameBase g2.data) } else r

def tsaveBody (s : State) (c : Nat) (rd rb : Reg) : MemRes :=
  orTrap s ((do
    let k ← frameTarget s c rb true
    let g2 := gread (taskSet s c k) 2
    if g2.tag ≠ Tag.addr then .error (tagTrap 2 g2.tag 5)
    pure (k, g2.data) : Ex (Nat × W64)).mapError (tsaveNamed s c rb)) (fun (k, g2) =>
  let t := taskSet s c k
  let base := frameBase g2
  let ns := frameLines t.tstat.vused
  orTrap s (do
    let pas ← framePas s c base .write false
    (match (List.range 9).find? (fun n => isCxl (pas.getD n 0) || (devOf (pas.getD n 0)).isSome) with
     | some n => .error { no := Trap.tagStore, info := ea (frameLine base n) }
     | none => pure ())
    frameIsolated s c base pas true ns
    pure pas) (fun pas =>
    withLines s c true (ns.map (fun n => lineOf (pas.getD n 0))) (fun s1 =>
      let s2 := frameStore s1 c pas (frameWords k t)
      let s3 := modSet (unstage s2 c k) c k savedSet
      finish s3 c .long (fun x => gwrite x rd (TWord.mkAddr base)))))

def execTsave (c : LC) (rd rb : Reg) (s : State) : Res :=
  .next (issuePoint s c .long (.tsave c rd rb) (fun s => tsaveBody s c rd rb))

/-! ## TLOAD (R124) -/

/-- The bits of TCAUSE that are not reserved (R89). -/
def tcauseMask : W64 := 0x0F7FFFFF#64

/-- Word numbers that TLOAD consumes. -/
def loadWords (vused : Bool) : List Nat :=
  [2, 3, 4, 5] ++ (List.range 31).map (fun n => 9 + n) ++ (if vused then (List.range 66).map (fun i => 40 + i) else [])

/-- FSTAT from a frame, its RM as it is, a reserved one among them (R121, R124; LOG 94); no exception is pending in a set that is not
RUNNING (R119). -/
def fstatOf (w : W64) : Fstat :=
  { pend := 0#5, rm := BitVec.ofNat 3 (field w 12 10), enable := BitVec.ofNat 5 (field w 9 5), flags := BitVec.ofNat 5 (field w 4 0) }

/-- Steps 3-7 of TLOAD. -/
def loadedSet (t : TaskSet) (rd : Nat) (w : Nat → TWord) : TaskSet :=
  let hdr := (w 0).data
  let old := (w 2).data
  let vused := bitOf hdr 8
  let sup := rd == 1
  { t with
    g := (List.range 31).map (fun n => (n + 1, w (9 + n)))
    v := if vused then (List.range 16).map (fun i => (i, ofLanes ((List.range 4).map (fun j => (w (40 + 4 * i + j)).data)))) else []
    pc := w 1, tepc := w 3, tinfo := w 4, tcause := (w 5).data &&& tcauseMask
    fstat := if vused then fstatOf (w 104).data else {}
    fepc := if vused then w 105 else TWord.mkRaw 0#64
    fpAge := 0, staged := none
    tstat := { t.tstat with
      nanmode := bitOf old 11, vused := vused, evpend := bitOf hdr 9, mcpend := bitOf hdr 11, priv := sup
      intrap := sup && bitOf hdr 10, ppriv := sup && bitOf old 9, state := .ready } }

/-- TLOAD. Of two operands whose tags are refused ra comes first (R90). The header passes as RAW with a USER tag too (R53; LOG 111); a
poisoned header or PC word is MEM_POISON before what it holds is looked at (LOG 117), and what the header and the PC slot hold comes before
a line whose home answers ISOLATED (R88). -/
def tloadBody (s : State) (c : Nat) (rd ra rb : Reg) : MemRes :=
  let t := curSet s c
  let isAddr := (gread t ra).tag == Tag.addr
  let base := (gread t ra).data
  let named := fun (r : TrapRec) => if isAddr then { r with info := ea base } else r
  match (do
      if 1 < rd.val then .error (illegal 0x13)
      if t.tstat.priv && !accA (gread t rb).tag then let _ ← baseReg t ra
      let k ← frameTarget s c rb false
      let _ ← baseReg t ra
      if base.toNat % 128 ≠ 0 then .error { no := Trap.align }
      pure k : Ex Nat) with
  | .error r => .trap s (named r)
  | .ok k =>
    orTrap s (do
      let pas ← framePas s c base .read true
      frameIsolated s c base pas false [0]
      pure pas) (fun pas =>
    let ln := fun (n : Nat) => lineOf (pas.getD n 0)
    withLines s c false [ln 0] (fun s1 =>
      let at_ := fun (s : State) (i : Nat) => lineWord (l2Data s c (ln (i / 16))) (i % 16)
      let hdr := at_ s1 0
      if hdr.poison then .trap s1 (named poisonTrap)
      else if !isRawUser hdr.w.tag ∨ field hdr.w.data 7 0 ≠ 1 ∨ field hdr.w.data 63 12 ≠ 0 then .trap s1 (named (illegal 0x12))
      else
        let vused := bitOf hdr.w.data 8
        let pc := at_ s1 1
        if pc.poison then .trap s1 (named poisonTrap)
        else if pc.w.tag ≠ Tag.code then .trap s1 (named (tagTrap 0 pc.w.tag 6))
        else
          orTrap s1 (frameIsolated s1 c base pas false (frameLines vused)) (fun _ =>
          withLines s1 c false ((frameLines vused).map ln) (fun s2 =>
            match (loadWords vused).find? (fun i => (at_ s2 i).poison) with
            | some i => .trap s2 { poisonTrap with info := ea (frameLine base (i / 16)) }
            | none => finish (modSet s2 c k (fun t => loadedSet t rd (fun i => (at_ s2 i).w))) c .long id))))

def execTload (c : LC) (rd ra rb : Reg) (s : State) : Res :=
  .next (issueMem s c .long (.tload c rd ra rb) (fun s => tloadBody s c rd ra rb))

/-! ## The task window (R126-R128) -/

def twinMask : W64 := 0x8003DF1F#64
def twinTask (w : W64) : Nat := field w 4 0
def twinIndex (w : W64) : Nat := field w 12 8
def twinClass (w : W64) : Nat := field w 15 14
def twinLane (w : W64) : Nat := field w 17 16

/-- TWIN after an access, stepped when INC is set (R126). -/
def twinStep (w : W64) : W64 :=
  if bitOf w 31 then
    let cls := twinClass w
    let ln := if cls = 2 then (twinLane w + 1) % 4 else twinLane w
    let idx :=
      if cls = 2 then (if ln = 0 then (twinIndex w + 1) % 16 else twinIndex w)
      else if cls = 0 then (twinIndex w + 1) % 32
      else (twinIndex w + 1) % 8
    (w &&& ~~~0x31F00#64) ||| BitVec.ofNat 64 (place ln 16 + place idx 8)
  else w

/-- The selection of TWIN: not the executing set, and a register that exists (R121, R127). -/
def twinCheck (s : State) (c : Nat) : Ex Unit :=
  let w := (lcore s c).twin
  let cls := twinClass w
  let idx := twinIndex w
  if twinTask w = (lcore s c).cur then .error (illegal 0x10)
  else if cls = 3 ∨ (cls = 1 ∧ 8 ≤ idx) ∨ (cls = 2 ∧ 16 ≤ idx) then .error (illegal 0x15)
  else .ok ()

/-- Special register `n` of a set, 0 the PC, as WREAD and MFSR return it (R126, R517). -/
def specialRead (t : TaskSet) (k n : Nat) : TWord :=
  match n with
  | 0 => t.pc
  | 1 => TWord.mkRaw (tstatWord k t.tstat)
  | 2 => t.tepc
  | 3 => t.tinfo
  | 4 => TWord.mkRaw t.tcause
  | 5 => TWord.mkRaw (fstatWord t.fstat)
  | 6 => t.fepc
  | _ => t.tvec

/-- A write of a special register of a set; only the window writes STATE (R115). -/
def specialWrite (t : TaskSet) (n : Nat) (w : TWord) (window : Bool) : TaskSet :=
  match n with
  | 0 => { t with pc := w }
  | 1 =>
    let x := tstatWrite t.tstat w.data
    { t with tstat := if window then { x with state := stateOf (field w.data 6 5) } else x }
  | 2 => { t with tepc := w }
  | 3 => { t with tinfo := w }
  | 4 => { t with tcause := w.data &&& tcauseMask }
  | 5 => setVused { t with fstat := fstatWrite t.fstat w.data }
  | 6 => setVused { t with fepc := w }
  | _ => { t with tvec := w }

def windowRead (t : TaskSet) (w : W64) : TWord :=
  match twinClass w with
  | 0 => gread t (twinIndex w)
  | 1 => specialRead t (twinTask w) (twinIndex w)
  | _ => TWord.mkRaw (lane (vread t (twinIndex w)) (twinLane w))

/-- A V register with one lane replaced. -/
def setLane (x : BitVec 256) (i : Nat) (w : W64) : BitVec 256 :=
  ofLanes ((List.range 4).map (fun j => if j = i then w else lane x j))

def windowWrite (t : TaskSet) (w : W64) (v : TWord) : TaskSet :=
  let idx := twinIndex w
  match twinClass w with
  | 0 => gwrite t idx v
  | 1 => specialWrite t idx v true
  | _ => vwrite t idx (setLane (vread t idx) (twinLane w) v.data)

def stepTwin (s : State) (c : Nat) : State := modLCore s c (fun l => { l with twin := twinStep l.twin })

def execWread (c : LC) (rd : Reg) (s : State) : Res :=
  .next (issueNext s c .long (fun s => do
    twinCheck s c
    if !(curSet s c).tstat.priv then .error (privTrap 0)
    let w := (lcore s c).twin
    let v := windowRead (taskSet s c (twinTask w)) w
    pure (stepTwin (modCur s c (fun t => gwrite t rd v)) c)))

/-- WWRITE: a STATE of RUNNING and a reserved rounding mode are refused (R121). -/
def wwriteCheck (w : W64) (v : TWord) : Ex Unit :=
  if twinClass w = 1 ∧ twinIndex w = 1 ∧ field v.data 6 5 = 2 then .error (illegal 0x15)
  else if twinClass w = 1 ∧ twinIndex w = 5 ∧ fstatBadRm v.data then .error (illegal 0x16)
  else .ok ()

def execWwrite (c : LC) (ra : Reg) (s : State) : Res :=
  .next (issueNext s c .long (fun s => do
    twinCheck s c
    let w := (lcore s c).twin
    let v := gread (curSet s c) ra
    wwriteCheck w v
    if !(curSet s c).tstat.priv then .error (privTrap 0)
    pure (stepTwin (modSet s c (twinTask w) (fun t => windowWrite t w v)) c)))

/-! ## RETT, MFSR and MTSR (R129, R517) -/

/-- RETT, and a MACHINE_CHECK that INTRAP deferred (R129, R132). -/
def rettBody (s : State) (c : Nat) : MemRes :=
  let t := curSet s c
  if !t.tstat.priv then .trap s (privTrap 0)
  else if t.tepc.tag ≠ Tag.code then .trap s (tagTrap 0 t.tepc.tag 6)
  else if bitOf t.tepc.data 0 then .trap s { no := Trap.align, info := ea t.tepc.data }
  else
    let s1 := modCur s c (fun t => { modTstat t (fun x => { x with priv := x.ppriv, evmask := x.pevmask, intrap := false }) with
      pc := t.tepc })
    .done (if (curSet s1 c).tstat.mcpend then enterPending s1 c false else s1)

def execRett (c : LC) (s : State) : Res := .next (issueMem s c .long (.rett c) (fun s => rettBody s c))

def mfsrBody (s : State) (c : Nat) (rd n : Reg) : MemRes :=
  let t := curSet s c
  let l := lcore s c
  if n.val = 0 ∨ 9 < n.val then .trap s (illegal 0)
  else if !t.tstat.priv ∧ n.val ≠ 1 ∧ n.val ≠ 5 ∧ n.val ≠ 6 then .trap s (privTrap 0)
  else
    let v := match n.val with
      | 8 => TWord.mkRaw l.twin
      | 9 => l.vroot
      | k => specialRead t l.cur k
    finish s c .long (fun t => gwrite t rd v)

/-- MFSR of FSTAT is a point of R106. -/
def execMfsr (c : LC) (rd n : Reg) (s : State) : Res :=
  .next (
    if n.val = 5 then issuePoint s c .long (.mfsr c rd n) (fun s => mfsrBody s c rd n)
    else issueMem s c .long (.mfsr c rd n) (fun s => mfsrBody s c rd n))

def mtsrBody (s : State) (c : Nat) (ra n : Reg) : MemRes :=
  let t := curSet s c
  let w := gread t ra
  if n.val = 0 ∨ 9 < n.val then .trap s (illegal 0)
  else if n.val = 5 ∧ fstatBadRm w.data then .trap s (illegal 0x16)
  else if !t.tstat.priv ∧ n.val ≠ 1 ∧ n.val ≠ 5 then .trap s (privTrap 0)
  else match n.val with
    | 8 => finish (modLCore s c (fun l => { l with twin := w.data &&& twinMask })) c .long id
    | 9 => finish (modLCore s c (fun l => { l with vroot := w })) c .long id
    | k =>
      if k = 1 ∧ !t.tstat.priv then
        finish s c .long (fun t => modTstat t (fun x => { x with nanmode := bitOf w.data 11 }))
      else finish s c .long (fun t => specialWrite t k w false)

/-- MTSR of FSTAT is a point of R106. -/
def execMtsr (c : LC) (ra n : Reg) (s : State) : Res :=
  .next (
    if n.val = 5 then issuePoint s c .long (.mtsr c ra n) (fun s => mtsrBody s c ra n)
    else issueMem s c .long (.mtsr c ra n) (fun s => mtsrBody s c ra n))

/-! ## Accesses that wait -/

/-- Issue again an instruction that waited. -/
def reissue (i : Instr) (s : State) : State :=
  match i with
  | .tsave c rd rb => issuePoint s c .long i (fun s => tsaveBody s c rd rb)
  | .tload c rd ra rb => issueMem s c .long i (fun s => tloadBody s c rd ra rb)
  | i => memRun i s

/-- What the core waits for has come: the answer to its request, or room in the send queue. L2WB looks again for an eviction that it can
start or that has ended. -/
def waitOver (s : State) (c ln : Nat) : Bool :=
  if ln = waitSend then decide (s.events.sendQ.length < sendQueueSize)
  else (lcore s c).reply.isSome || !coreAsks s c ln

/-- The trio takes inputs: it executes and is in no checkstop. -/
def takesInputs (s : State) (c : Nat) : Bool := trioRuns (trio s (trioOf c)).state && (lcore s c).ckPip0.isNone

/-- Issue again the instruction of a core whose wait is over, or deliver the atomic whose response is in the replay buffer (R139, R174). -/
def wakeCore (s : State) (c : Nat) : State :=
  match (lcore s c).wait with
  | some (ln, i) =>
    if waitOver s c ln then
      let s1 := modLCore s c (fun l => { l with wait := none })
      if runs s1 c then reissue i s1 else s
    else s
  | none =>
    if (lcore s c).replay.any (fun r => r.amo.isSome) then
      let s1 := amoNearEnd s c
      if takesInputs s1 c && (lcore s1 c).replay.any (fun r => r.arrived) then enterMc (deliverReplay s1 c) c else s1
    else s

/-- Requests that waited for a credit go out, and the cores' accesses that have their answer go on. -/
def wakeCores (s : State) : State := forEach (pump s) (s.lcores.map (·.1)) wakeCore

/-- The delivery window of R419, and the stores that waited for its room. -/
def execEventDeliveryWindow (s : State) : Res := .next (wakeCores (eventWindow s))

end Sys2Proof.Machine
end

