-- ==== Sys2Proof/Machine/CohRows.lean ====
section
/-! DEFINITION. The rows of the coherence messages (R167-R177, R182): each delivers the message in flight that it names, or stands
for one that arrives with nothing in flight to match it (LOG 44); array errors (R165) and ISOLATED answers (R234, R235). -/

namespace Sys2Proof.Machine

/-- The core's accesses that waited for a line go on once it is stable. -/
def thenWake (s : State) : State := wakeCores s

/-- Deliver the matching message in flight after what its sender sent before it (R168), or `m` as it stands. -/
def arrive (s : State) (m : CohMsg) : State :=
  match inFlight s m.kind m.agent m.line with
  | some x => arriveInOrder s x
  | none => (move s m).getD s

def cohRow (s x : State) : Res := .next (whenServing s (thenWake x))

/-! ## Requests to a home

A row's request takes a credit and leaves its L2 in the request state of R172; its messages arrive by rows of their own. -/

/-- The request that a row names. -/
def rowRequest (s : State) (a ln : Nat) (r : HomeReq) (express learn : Bool) : State :=
  launch s { agent := a, line := ln, r := r, express := express, row := true, learn := learn }

def execRdshared (a : Agent) (line : LineNo) (nc : Bool) (s : State) : Res :=
  cohRow s (rowRequest s a line.toNat (.rdShared a nc) false false)

def execRdown (a : Agent) (line : LineNo) (zero : Bool) (m : Maint) (s : State) : Res :=
  cohRow s (rowRequest s a line.toNat (if m = .none then .rdOwn a zero else .maint a m) false false)

def execUpgrade (a : Agent) (line : LineNo) (zero : Bool) (s : State) : Res :=
  cohRow s (rowRequest s a line.toNat (.upgrade a zero) false false)

/-- An AmoReq; in a predictor mode it is one that the predictor placed (R182). -/
def execAmoreq (a : Agent) (pa : PAddr) (x : AmoArgs) (s : State) : Res :=
  cohRow s (rowRequest s a (lineOf pa.toNat) (.amo a pa.toNat x) false (predictorMode s.mode.mode))

/-- A WrLine of an I/O die; one with ALLOC comes from an express group, on VC2 (R327). -/
def execWrline (d : IoDie) (line : LineNo) (bytes : List Byte) (mask : BitVec 128) (alloc : Bool) (s : State) : Res :=
  if bytes.length ≠ 128 then .fault .malformed
  else cohRow s (rowRequest s (128 + d) line.toNat (.wrLine d bytes mask alloc) alloc false)

/-! ## Evictions -/

/-- An eviction reaches the home: one in flight, else the L2's own when its line is in the state that sends it and its buffer at the
slice is free, else the message alone. One whose home does not answer ends as R235 says. -/
def evictRow (s : State) (k : MsgKind) (a ln : Nat) : State :=
  match inFlight s k a ln with
  | some m => arriveInOrder s m
  | none =>
    let l := l2Line s a ln
    let m : CohMsg := { kind := k, agent := a, line := ln, data := l.data }
    let own := match l.st with | .st x => decide (evictKind x = k) && !evictBusy s a ln | _ => false
    if !own then (move s m).getD s
    else if evictDead s a ln then evictIsolated s a ln
    else
      let s1 := startEvict s a ln
      match inFlight s1 k a ln with
      | some x => arriveInOrder s1 x
      | none => s1

def execWbdirty (a : Agent) (line : LineNo) (s : State) : Res := cohRow s (evictRow s .wbDirty a line.toNat)
def execWbclean (a : Agent) (line : LineNo) (s : State) : Res := cohRow s (evictRow s .wbClean a line.toNat)
def execEvictnote (a : Agent) (line : LineNo) (s : State) : Res := cohRow s (evictRow s .evictNote a line.toNat)

/-! ## Answers to a home -/

def execInvalack (a : Agent) (line : LineNo) (s : State) : Res :=
  cohRow s (arrive s { kind := .invalAck, agent := a, line := line.toNat })

def execDataAtHome (a : Agent) (line : LineNo) (d : Line) (s : State) : Res :=
  if d.length ≠ 16 then .fault .malformed
  else cohRow s (arrive s { kind := .dataAtHome, agent := a, line := line.toNat, data := d })

def execCmpAtHome (a : Agent) (line : LineNo) (s : State) : Res :=
  cohRow s (arrive s { kind := .cmpAtHome, agent := a, line := line.toNat })

/-! ## Messages to an agent -/

def execData (a : Agent) (line : LineNo) (d : Line) (s : State) : Res :=
  if d.length ≠ 16 then .fault .malformed
  else cohRow s (arrive s { kind := .data, agent := a, line := line.toNat, data := d })

def execDataexcl (a : Agent) (line : LineNo) (d : Line) (s : State) : Res :=
  if d.length ≠ 16 then .fault .malformed
  else cohRow s (arrive s { kind := .dataExcl, agent := a, line := line.toNat, data := d })

def execCmp (a : Agent) (line : LineNo) (s : State) : Res :=
  cohRow s (arrive s { kind := .cmp, agent := a, line := line.toNat })

def execNack (a : Agent) (line : LineNo) (s : State) : Res :=
  cohRow s (arrive s { kind := .nack, agent := a, line := line.toNat })

def execFwdshared (a : Agent) (line : LineNo) (req : Agent) (v : FwdVariant) (s : State) : Res :=
  cohRow s (arrive s { kind := .fwdShared, agent := a, line := line.toNat, req := req, variant := v })

def execFwdown (a : Agent) (line : LineNo) (req : Agent) (s : State) : Res :=
  cohRow s (arrive s { kind := .fwdOwn, agent := a, line := line.toNat, req := req })

def execInval (a : Agent) (line : LineNo) (s : State) : Res :=
  cohRow s (arrive s { kind := .inval, agent := a, line := line.toNat })

/-- The AmoRsp of an AmoReq that is outstanding; with none in flight the message is impossible (R170, R182). -/
def execAmorsp (a : Agent) (pa : PAddr) (old : TWord) (st : AmoStatus) (cont : Bool) (s : State) : Res :=
  cohRow s (arrive s { kind := .amoRsp, agent := a, line := lineOf pa.toNat, old := old, status := st, cont := cont, toRequest := true })

/-! ## CACHE_ECC_ERROR (R165) -/

def poisonWord (l : Line) (k : Nat) : Line := lineSet l k { lineWord l k with poison := true }

def poisonAll (l : Line) : Line := l.map (fun w => { w with poison := true })

/-- Every L2 copy of a line is treated as poisoned. -/
def poisonCopies (s : State) (ln : Nat) : State :=
  modCoh s (fun c => { c with
    l2 := c.l2.map (fun (e : Nat × L2Line) => if e.1 % 2 ^ 45 == ln then (e.1, { e.2 with data := poisonAll e.2.data }) else e) })

def arrayDetail (set : BitVec 12) (way : BitVec 4) : Nat := set.toNat + 4096 * way.toNat

def cacheError (s : State) (arr : EccArray) (correctable : Bool) : State :=
  match arr with
  | .l2 a line k =>
    let l := l2Line s a line.toNat
    if correctable then modCoh s (fun c => { c with l2Ce := tmod 0 c.l2Ce a (· + 1) })
    else if l2Holds l.st then setL2 s a line.toNat { l with data := poisonWord l.data k }
    else s
  | .l3 line k set way =>
    let sl := homeSlice s line.toNat
    if correctable then report (modCoh s (fun c => { c with l3Ce := tmod 0 c.l3Ce sl (· + 1) })) (Pt.l3Ce sl) (arrayDetail set way)
    else modHome s line.toNat (fun h => { h with l3 := h.l3.map (fun l => poisonWord l k) })
  | .dir sl set way lines =>
    if correctable then modCoh s (fun c => { c with dirCe := tmod 0 c.dirCe sl (· + 1) })
    else
      (lines.map (·.toNat)).foldl poisonCopies (report s (Pt.dirUncorrectable sl) (arrayDetail set way))
  | .device line k => match cxlPortOf (line.toNat * 128) with
    | some p => if correctable ∨ (cxlPort s p).capacity.isNone ∨ (cxlPort s p).lost then s
      else { s with mem := Memory.setPoison s.mem (16 * line.toNat + k) true }
    | none => s

def execCacheEccError (arr : EccArray) (correctable : Bool) (s : State) : Res := .next (whenServing s (cacheError s arr correctable))

/-! ## ISOLATED_RESPONSE (R234, R235, R254, R265, R268) -/

def readIsolated (s : State) (d sl a n : Nat) : Bool :=
  match (ioReadV s d sl a n).2 with | .error .isolated => true | _ => false

/-- The requests of a core for lines whose home does not answer, and a device-window load of a dead I/O die, are answered ISOLATED: the
instruction takes ISOLATED_ACCESS (R234, R235). -/
def coreIsolated (s : State) (c : Nat) : State :=
  let s1 := cutRequests (fun a ln => a == c && isolatedFrom s (lcoreHalf c) ln) s
  let s2 := match (lcore s1 c).replay with
    | some r => if r.amo.isNone && !r.arrived && r.die.any (fun d => targetDead s1 (HullAt.die (2 + d))) then
        (let s3 := modLCore s1 c (fun l => { l with replay := some { r with arrived := true, isolated := true } })
         if takesInputs s3 c then enterMc (deliverReplay s3 c) c else s3)
      else s1
    | none => s1
  wakeCore s2 c

/-- An eviction whose answer is ISOLATED. -/
def evictionIsolated (s : State) (a ln : Nat) : State :=
  if l2Holds (l2Line s a ln).st && evictDead s a ln then evictIsolated s a ln else s

/-- A data access of an accepted exchange is answered ISOLATED: the exchange ends with that status. -/
def exchangeIsolated (s : State) (x : ExId) : State :=
  match exch s x with
  | none => s
  | some e =>
    if isAccepted e && e.res.isNone && e.bufs.any (fun b => readIsolated s e.owner x.slice b.1 b.2)
    then decideWith s x (dataErr .isolated) else s

/-- The write of a composed record is answered ISOLATED before its Cmp (R268). -/
def recordIsolated (s : State) (x : ExId) : State :=
  let key := pairKey x.slice x.pair
  let r := ring s key
  match exch s x with
  | none => s
  | some e => match e.st, e.count with
    | .composed, some k =>
      if !e.record.isEmpty && readIsolated s (serveDie x.pair r.serve) x.slice (r.cqBase + k.toNat % 2 ^ r.cqK * 32) 32
      then modExch (recordLost s key) x (fun e => { e with record := [] }) else s
    | _, _ => s

/-- An area access of a running job is answered ISOLATED: a standalone job ends with that error, an inline one ends its exchange. -/
def jobIsolated (s : State) (j : JobId) : State :=
  match job s j with
  | none => s
  | some x =>
    let d := parseDesc x.desc
    if x.st ≠ .running ∨ !(readIsolated s x.die (jobSlice x) d.inp d.inLen || readIsolated s x.die (jobSlice x) d.out d.outLen) then s
    else match j with
      | .queued .. => jobEnd s j
      | .inl e => dpError s e EngErr.isolated

def execIsolatedResponse (r : IsoReq) (s : State) : Res :=
  .next (whenServing s (
    match r with
    | .core c => coreIsolated s c
    | .eviction a line => evictionIsolated s a line.toNat
    | .descriptor sl p =>
      let r := ring s (pairKey sl p)
      let c := r.sqHead + BitVec.ofNat 32 (unaccepted s sl p)
      if readIsolated s (serveDie p r.serve) sl (r.sqBase + c.toNat % 2 ^ r.sqK * 64) 64 then descriptorFetch s sl p else s
    | .jobFetch sl p =>
      let q := eqq s (pairKey sl p)
      let c := q.eqHead + BitVec.ofNat 32 ((queueJobs s sl p).length - activeJobs s sl p)
      if readIsolated s (serveDie p q.serve) sl (q.base + c.toNat % 2 ^ q.k * 64) 64 then jobFetch s sl p else s
    | .exchange x => exchangeIsolated s x
    | .record x => recordIsolated s x
    | .job j => jobIsolated s j))

end Sys2Proof.Machine
end

