-- ==== Sys2Proof/Machine/Collector.lean ====
section
/-! DEFINITION. The fault collector: the close of a pip, severity, actions, the history, and the fault records (R437-R457). -/

namespace Sys2Proof.Machine

/-! ## Order of events (R46) -/

def eventBefore (a b : FEvent) : Bool :=
  decide (a.stamp.toNat < b.stamp.toNat) || (a.stamp == b.stamp && decide (a.point ≤ b.point))

def insertEvent (x : FEvent) : List FEvent → List FEvent
  | [] => [x]
  | y :: ys => if eventBefore y x then y :: insertEvent x ys else x :: y :: ys

def sortEvents (l : List FEvent) : List FEvent := l.foldl (fun acc x => insertEvent x acc) []

/-! ## Counts (R440-R442) -/

/-- The count that an event belongs to: its point's, or its class's under scope CLASS. -/
def countKey (pt : Nat) : Nat :=
  let c := classOf pt
  c * 4096 + (match classRow c with | some r => if r.wholeClass then 0 else 1 + pt | none => 1 + pt)

/-- The stored events of a count that lie in its window at the close of pip `k`: pips k - W + 1 to k. -/
def inWindow_ (k w : Nat) (l : List FEvent) : List FEvent :=
  l.filter (fun e => decide (k < pipOf e.stamp + w ∧ pipOf e.stamp ≤ k))

/-- A count that has become severe, with the events that made it so, oldest first. -/
structure Severe where
  cls : Nat
  cfg : ClassCfg
  events : List FEvent
deriving DecidableEq, Repr

/-- Add one event to its count at the close of pip `k`; events that can lie in no later window are dropped. -/
def countEvent (k : Nat) (counts : Table (List FEvent)) (s : State) (e : FEvent) : Table (List FEvent) :=
  let w := (classCfg s (classOf e.point)).w
  tmod [] counts (countKey e.point) (fun l => insertEvent e (l.filter (fun x => decide (k < pipOf x.stamp + w))))

/-- Counts that hold an event stamped in pip `k` that came before its own close: a replica led (R35, R441). -/
def ahead (k : Nat) (counts : Table (List FEvent)) : List Nat :=
  (counts.filter (fun e => e.2.any (fun x => decide (pipOf x.stamp = k)))).map (·.1)

/-- A count severe at the close of pip `k` (R441). -/
def severeOf (s : State) (k : Nat) (key : Nat) (l : List FEvent) : Option Severe :=
  let c := key / 4096
  let v := classCfg s c
  let l1 := inWindow_ k v.w l
  if v.n ≤ l1.length then some { cls := c, cfg := v, events := l1 } else none

def firstEvent (x : Severe) : FEvent := x.events.headD { stamp := 0#64, point := 0, detail := 0#16 }

/-- Severe counts in the order of their first events. -/
def insertSevere (x : Severe) : List Severe → List Severe
  | [] => [x]
  | y :: ys => if eventBefore (firstEvent y) (firstEvent x) then y :: insertSevere x ys else x :: y :: ys

/-! ## Actions (R443) -/

/-- The die that a DIE_FATAL or IVR_FAULT point names or feeds. -/
def fencedDie (pt : Nat) : Nat :=
  if pt < 1440 then pt - 1434
  else
    let i := pt - 1440
    if i < 16 then 0 else if i < 32 then 1 else 2 + (i - 32) / 8

/-- ISOLATE: the unit that the point names is declared dead (R206, R215, R232, R356). -/
def isolateUnit (s : State) (e : FEvent) : State :=
  let pt := e.point
  match classOf pt with
  | 4 => declareDead s (HullAt.l3 (pt - 608)) HullCause.collector
  | 8 => fenceStack s (pt - 808) 1
  | 12 => declareDead s (HullAt.cxl (pt - 840)) HullCause.collector
  | 15 => declareDead s e.detail.toNat HullCause.netTimeout
  | 18 => declareDead (fenceEngine s (pt - 882)) (HullAt.engine (pt - 882)) HullCause.collector
  | _ => s

/-- HOLDER_FAIL: hardware refuses every later write from the seed holder. -/
def holderFail (s : State) : State :=
  match actingHusk s with
  | some h => modHusk s h (fun x => { x with refused := true })
  | none => s

/-- First point of SENSOR_FAULT, and its class. -/
def sensorPoint : Nat := 1504
def sensorClass : Nat := 24

/-- A sensor whose class has become severe is invalid until the next boot (R484) (LOG 109). -/
def dropSensor (s : State) (pt : Nat) : State :=
  modPower s (fun p => { p with invalid := p.invalid.filter (· != pt - sensorPoint) ++ [pt - sensorPoint] })

/-- The action of a class, for its first event; the husk's wait for activity 3 of the loop. -/
def takeAction (s : State) (x : Severe) : State :=
  let e := firstEvent x
  match (classRow x.cls).map (·.action) with
  | some 2 => modHusks s (fun h => { h with actions := h.actions ++ [(e.point, e.detail, e.stamp)] })
  | some 3 => isolateUnit s e
  | some 4 => loseDie s (fencedDie e.point)
  | some 5 => holderFail s
  | some 6 => enterSafe s 1 e.point 0
  | _ => if x.cls = sensorClass then dropSensor s e.point else s

/-! ## The close (R441, R446, R447) -/

def historySize : Nat := 32

def recordOf (s : State) (close : W64) (x : Severe) : FRecord :=
  let e := firstEvent x
  { sealStamp := e.stamp, cls := x.cls, action := ((classRow x.cls).map (·.action)).getD 0, point := e.point, detail := e.detail
    count := x.events.length, mode := s.mode.mode, w := x.cfg.w, last := (x.events.getLastD e).stamp, close := close }

/-- CLASS_SET values take effect after the close, and the stored events of their classes are cleared (R446). -/
def applyClasses (f : Faults) : Faults :=
  f.newClasses.foldl (fun f c => { f with
      classes := tset f.classes c.1 c.2
      counts := f.counts.filter (fun e => e.1 / 4096 != c.1) })
    { f with newClasses := [] }

/-- An event of this point and pip has been closed: a later occurrence of it changes no entry and is not classified (R448). -/
def isTaken (f : Faults) (e : FEvent) : Bool := f.taken.contains (e.point, pipOf e.stamp)

/-- The close of pip `k`, at the edge that begins pip k + 1. -/
def closePip (s : State) (k : Nat) : State :=
  if !s.faults.selfOk then s
  else
    let evs := sortEvents (s.faults.inbox.filter (fun e => !isTaken s.faults e))
    let counts := evs.foldl (fun t e => countEvent k t s e) s.faults.counts
    let keys := (evs.map (fun e => countKey e.point) ++ ahead k s.faults.counts).eraseDups
    let severe := (keys.filterMap (fun key => severeOf s k key (tget [] counts key))).foldl (fun l x => insertSevere x l) []
    let cleared := severe.foldl (fun t x => tdel t (countKey (firstEvent x).point)) counts
    let recs := severe.map (recordOf s (now s))
    let s1 := modFaults s (fun f => applyClasses { f with
      inbox := [], counts := cleared
      taken := (evs.map (fun e => (e.point, pipOf e.stamp)) ++ f.taken).filter (fun x => decide (k ≤ x.2))
      history := ((evs.take historySize).reverse ++ f.history).take historySize
      overflow := f.overflow + (evs.length - historySize)
      waiting := f.waiting ++ recs })
    severe.foldl takeAction s1

/-! ## Fault records (R449-R452) -/

def recordsPerPip : Nat := 16
def logSize : Nat := 4096

/-- The 48 bytes of a record at its writing (R450) (LOG 98). -/
def faultRecordBytes (s : State) (r : FRecord) : List Byte :=
  let body := leBytes 8 r.sealStamp.toNat ++ leBytes 4 s.faults.head.toNat ++ [BitVec.ofNat 8 r.cls, BitVec.ofNat 8 r.action] ++
    leBytes 2 r.point ++ leBytes 2 r.detail.toNat ++ [BitVec.ofNat 8 (sat 8 r.count), BitVec.ofNat 8 r.mode] ++ leBytes 4 r.w ++
    leBytes 8 r.last.toNat ++ leBytes 8 r.close.toNat ++ leBytes 2 s.ident.boot ++ leBytes 2 (sat 16 s.faults.overflow) ++ [0#8, 0#8]
  body ++ leBytes 2 (crc16 body).toNat

def writeFault (s : State) (r : FRecord) : State :=
  let bs := faultRecordBytes s r
  modFaults s (fun f => { f with
    log := tset f.log (f.head.toNat % logSize) bs, head := f.head + 1, kept := min logSize (f.kept + 1) })

/-- Write the oldest waiting records, `n` at most. -/
def writeFaults : Nat → State → State
  | 0, s => s
  | n + 1, s => match s.faults.waiting with
    | [] => s
    | r :: rest => writeFaults n (modFaults (writeFault s r) (fun f => { f with waiting := rest }))

/-- Records already written in this pip. -/
def wroteNow (s : State) : Nat := if s.faults.wrotePip = pip s then s.faults.wrote else 0

/-- At most 16 records in a pip, oldest first (R451). -/
def execFaultRecordWrite (s : State) : Res :=
  .next (
    if timeRuns s && s.faults.selfOk then
      let n := min (recordsPerPip - wroteNow s) s.faults.waiting.length
      modFaults (writeFaults n s) (fun f => { f with wrotePip := pip s, wrote := wroteNow s + n })
    else s)

/-- A report reaches the collector (R439). -/
def execFaultPointReport (pt : PointNo) (detail : Half) (s : State) : Res := .next (report s pt detail.toNat)

/-- A self-fault forces safe state without classification, a record or a husk (R454, R455). -/
def execCollectorSelfFault (_kind : Fin 3) (s : State) : Res :=
  .next (
    if timeRuns s && s.faults.selfOk then enterSafe (modFaults s (fun f => { f with selfOk := false })) 2 0 0 else s)

end Sys2Proof.Machine
end

