-- ==== Sys2Proof/Machine/Image.lean ====
section
/-! DEFINITION. The image: its layout, its CONFIG and KEYS records, the check of a copy and the choice of one (R458-R468, R472). -/

namespace Sys2Proof.Machine

/-! ## Layout (R460-R462) -/

def headerBytes : Nat := 256
def minImage : Nat := 1024
def maxImage : Nat := 4194304
/-- Check word and signature block. -/
def tailBytes : Nat := 196

namespace Img
def length (b : List Byte) : Nat := leAt b 8 4
def sections (b : List Byte) : Nat := leAt b 6 2
def version (b : List Byte) : Nat := leAt b 12 4
def svn (b : List Byte) : Nat := leAt b 16 1
def keySlot (b : List Byte) : Nat := leAt b 17 1
def revoke (b : List Byte) : Nat := leAt b 18 1
def flags (b : List Byte) : Nat := leAt b 19 1
def targetId (b : List Byte) : Nat := leAt b 20 8
def targetCode (b : List Byte) : Nat := leAt b 28 1
end Img

structure Section where
  kind : Nat
  part : Nat
  off : Nat
  len : Nat
deriving DecidableEq, Repr

namespace SecKind
def huskFw : Nat := 1
def config : Nat := 2
def dieFw : Nat := 3
def keys : Nat := 4
def payload : Nat := 5
end SecKind

def sectionAt (b : List Byte) (i : Nat) : Section :=
  let o := headerBytes + 16 * i
  { kind := leAt b o 1, part := leAt b (o + 1) 1, off := leAt b (o + 4) 4, len := leAt b (o + 8) 4 }

def sectionList (b : List Byte) : List Section := (List.range (Img.sections b)).map (sectionAt b)

def sectionData (b : List Byte) (x : Section) : List Byte := slice b x.off x.len

/-- The data of the section of a type; empty where the image has none. -/
def sectionOf (b : List Byte) (kind : Nat) : List Byte :=
  match (sectionList b).find? (fun x => x.kind == kind) with
  | some x => sectionData b x
  | none => []

def payloadsOf (b : List Byte) : List (Nat × List Byte) :=
  ((sectionList b).filter (fun x => x.kind == SecKind.payload)).foldl (fun t x => tset t x.part (sectionData b x)) []

def allZero (bs : List Byte) : Bool := bs.all (fun x => x == 0#8)

/-- The header fields are in their ranges (R460). A header that breaks them fails with LENGTH (LOG 46). -/
def headerOk (b : List Byte) : Bool :=
  decide (3 ≤ Img.sections b ∧ Img.sections b ≤ 20) && decide (Img.svn b ≤ 64 ∧ Img.keySlot b ≤ 3 ∧ Img.revoke b < 16 ∧ Img.flags b ≤ 1) && !(Img.revoke b).testBit (Img.keySlot b) &&
  decide (1 ≤ Img.targetCode b ∧ Img.targetCode b ≤ 3) && allZero (slice b 29 (headerBytes - 29))

/-- One section table entry (R461). -/
def sectionOk (b : List Byte) (i : Nat) : Bool :=
  let o := headerBytes + 16 * i
  let x := sectionAt b i
  decide (1 ≤ x.kind ∧ x.kind ≤ 5) && decide (if x.kind = SecKind.payload then x.part < 16 else x.part = 0) &&
  decide (x.off % 16 = 0 ∧ headerBytes + 16 * Img.sections b ≤ x.off ∧ x.off + x.len + tailBytes ≤ Img.length b) &&
  allZero (slice b (o + 2) 2) && allZero (slice b (o + 12) 4)

def countKind (l : List Section) (kind : Nat) : Nat := (l.filter (fun x => x.kind == kind)).length

def pairwiseB {α : Type} (f : α → α → Bool) : List α → Bool
  | [] => true
  | x :: xs => xs.all (f x) && pairwiseB f xs

/-- Two sections lie apart and are not payloads of one partition. -/
def sectionsApart (x y : Section) : Bool :=
  !overlap (x.off, x.len) (y.off, y.len) && !(x.kind == SecKind.payload && y.kind == SecKind.payload && x.part == y.part)

def tableOk (b : List Byte) : Bool :=
  let l := sectionList b
  (List.range (Img.sections b)).all (sectionOk b) &&
  [SecKind.huskFw, SecKind.config, SecKind.dieFw].all (fun k => countKind l k == 1) && decide (countKind l SecKind.keys ≤ 1) &&
  pairwiseB sectionsApart l

def lengthOk (b : List Byte) : Bool :=
  decide (minImage ≤ Img.length b ∧ Img.length b ≤ maxImage)

def crcOk (b : List Byte) : Bool :=
  let n := Img.length b - tailBytes
  decide ((crc32c (b.take n)).toNat = leAt b n 4)

/-! ## CONFIG (R467) -/

/-- The records of a CONFIG section, or none where one breaks the form: a value padded with zeros to a multiple of 4 bytes; entry 0 or
the end of the section ends them (LOG 102). -/
def configRecords : Nat → List Byte → Option (List (Nat × List Byte))
  | 0, _ => some []
  | k + 1, b =>
    let n := leAt b 0 2
    let len := leAt b 2 2
    let padded := (len + 3) / 4 * 4
    if b.length < 4 ∨ n = 0 then some []
    else if b.length < 4 + padded ∨ !allZero (slice b (4 + len) (padded - len)) then none
    else (configRecords k (b.drop (4 + padded))).map ((n, slice b 4 len) :: ·)

/-- A TRIO_MODE entry of an absent trio, which is ignored (R8). -/
def absentMode (s : State) (n : Nat) : Bool := decide (0x100 ≤ n ∧ n < 0x140) && trioAbsent s (n - 0x100)

def recordOk (s : State) (r : Nat × List Byte) : Bool := absentMode s r.1 || (entryLen r.1 == some r.2.length && entryInRange r.1 r.2)

/-- The entries of a list of records as a table, but for the ignored ones. -/
def entryTable (s : State) (l : List (Nat × List Byte)) : Table (List Byte) :=
  (l.filter (fun r => !absentMode s r.1)).foldl (fun t r => tset t r.1 r.2) []

def withEntries (s : State) (t : Table (List Byte)) : State := modBoot s (fun b => { b with entries := t })

/-- A logical core that the image's TRIO_MODE entries give (R8, R154). -/
def coreNamed (s : State) (c : Nat) : Bool := !trioAbsent s (c / 2) && (c % 2 == 0 || trioSplitCfg s (c / 2))

/-- The LCORES mask of an entry without the cores that do not exist (R8). -/
def trimmedMask (s : State) (v : List Byte) : BitVec 128 :=
  BitVec.ofNat 128 (((List.range 128).map (fun c => if (leAt v 0 16).testBit c && coreNamed s c then 2 ^ c else 0)).sum)

/-- RANGE entries that hold memory, with their numbers. -/
def imageRanges (s : State) : List (Nat × Nat × Nat) :=
  (List.range 256).filterMap (fun i => match cfg s (0x400 + i) with
    | some v => if leAt v 8 8 = 0 then none else some (i, leAt v 0 8, leAt v 8 8)
    | none => none)

def imageMasks (s : State) : List (BitVec 128) :=
  (List.range 16).filterMap (fun p => (cfg s (0x300 + p)).map (trimmedMask s))

/-- Rules over several entries: the queue quotas (R467), a stack of each range with a weight (R200), ranges in memory and apart, logical
cores held once (R331, R332, LOG 47). -/
def entriesAgree (s : State) : Bool :=
  decide (((List.range 16).map (evqQuota s)).sum ≤ 1024) &&
  [0, halfTop].all (fun pa => (rangeStacks (memAll8 s) pa).1.any (fun j => decide (0 < imageWeight s j))) &&
  (imageRanges s).all (fun r => rangeOk r.2.1 r.2.2) && pairwiseB (fun x y => !overlap x.2 y.2) (imageRanges s) &&
  pairwiseB (fun x y => x &&& y == 0#128) (imageMasks s)

def configOk (s : State) (b : List Byte) : Bool :=
  let sec := sectionOf b SecKind.config
  match configRecords sec.length sec with
  | none => false
  | some l => l.all (recordOk s) && pairwiseB (fun x y => x.1 != y.1) (l.filter (fun r => !absentMode s r.1)) && entriesAgree (withEntries s (entryTable s l))

/-! ## KEYS (R472) -/

structure KeyRec where
  handle : Nat
  kind : Nat
  dirs : Nat
  mask : BitVec 16
  inst : W32
  wrapped : List Byte
deriving DecidableEq, Repr

/-- The records of a KEYS section, padded to multiples of 8 bytes, or none where one breaks the form. -/
def keyRecords : Nat → List Byte → Option (List KeyRec)
  | 0, _ => some []
  | k + 1, b =>
    let len := leAt b 6 2
    let size := (12 + len + 7) / 8 * 8
    if b = [] then some []
    else if b.length < size ∨ !allZero (slice b (12 + len) (size - 12 - len)) then none
    else
      let r : KeyRec := { handle := leAt b 0 2, kind := leAt b 2 1, dirs := leAt b 3 1, mask := BitVec.ofNat 16 (leAt b 4 2)
                          inst := BitVec.ofNat 32 (leAt b 8 4), wrapped := slice b 12 len }
      (keyRecords k (b.drop size)).map (r :: ·)

def keyRecOk (r : KeyRec) : Bool :=
  decide (1 ≤ r.handle ∧ r.handle ≤ 0xFF) && kindOk r.kind && decide (r.dirs ≤ 3) &&
  decide (r.wrapped.length = if r.kind = KeyKind.xts then 72 else 40)

def imageKeys (b : List Byte) : Option (List KeyRec) :=
  let sec := sectionOf b SecKind.keys
  keyRecords sec.length sec

/-- The KEYS section of a copy: sound records with handles of their own, that unwrap, in an image for this module alone. -/
def keysOk (s : State) (c : CopyIn) : Bool :=
  countKind (sectionList c.bytes) SecKind.keys == 0 ||
  (decide (Img.targetId c.bytes = s.ident.moduleId.toNat) && c.keysUnwrap &&
    (match imageKeys c.bytes with
     | none => false
     | some l => l.all keyRecOk && pairwiseB (fun x y => x.handle != y.handle) l))

/-! ## The check (R463) -/

namespace Chk
def pass : Nat := 0x00
def readError : Nat := 0x01
def noImage : Nat := 0x02
def length : Nat := 0x03
def crc : Nat := 0x04
def keyUnknown : Nat := 0x05
def keyRevoked : Nat := 0x06
def signature : Nat := 0x07
def target : Nat := 0x08
def rollback : Nat := 0x09
def badEntry : Nat := 0x0A
def notSelected : Nat := 0x0B
end Chk

def magicOk (b : List Byte) : Bool := slice b 0 4 == [0x50#8, 0x4B#8, 0x49#8, 0x4D#8] && decide (leAt b 4 2 = 1)

def targetOk (s : State) (b : List Byte) : Bool :=
  decide (Img.targetId b = 0 ∨ Img.targetId b = s.ident.moduleId.toNat) &&
  (Img.targetCode b).testBit (match s.ident.code with | .aa => 0 | .ab => 1)

/-- The first failure of a copy, in the order of R463. -/
def checkCopy (s : State) (c : CopyIn) : Nat :=
  let b := c.bytes
  if !c.readOk || decide (b.length < headerBytes) then Chk.readError
  else if !magicOk b then Chk.noImage
  else if !lengthOk b then Chk.length
  else if b.length < Img.length b then Chk.readError
  else if !headerOk b || !tableOk b then Chk.length
  else if !crcOk b then Chk.crc
  else if !c.keyHashMatches then Chk.keyUnknown
  else if s.boot.revoked.getLsbD (Img.keySlot b) then Chk.keyRevoked
  else if !c.signatureOk then Chk.signature
  else if !targetOk s b then Chk.target
  else if Img.svn b < s.boot.svnFused then Chk.rollback
  else if !configOk s b || !keysOk s c then Chk.badEntry
  else Chk.pass

/-- VERSION as read, 0 where the header was not readable (R476). -/
def versionOf (c : CopyIn) : Nat := if c.readOk && decide (headerBytes ≤ c.bytes.length) then Img.version c.bytes else 0

/-- The copy used, of those that pass: the higher VERSION, copy 0 of equal ones; 0xFF the factory defaults (R464, R466). -/
def chosenCopy (r0 r1 v0 v1 : Nat) : Nat :=
  if r0 = Chk.pass ∧ r1 = Chk.pass then (if v0 < v1 then 1 else 0)
  else if r0 = Chk.pass then 0
  else if r1 = Chk.pass then 1
  else 0xFF

end Sys2Proof.Machine
end

