-- ==== Sys2Proof/Machine/Boot.lean ====
section
/-! DEFINITION. The boot (R469, R470, R478): the image check's end, the built-in test's end, the cold start and the lock point. -/

namespace Sys2Proof.Machine

/-! ## Measurement (R469) -/

/-- Stage `k` is recorded, and MEAS[7] takes it in. -/
def measure (s : State) (k : Nat) (bs : List Byte) : State :=
  let m := sha384 bs
  modBoot s (fun b => { b with
    meas := tset (tset b.meas k m) 7 (sha384 (tget (List.replicate 48 0#8) b.meas 7 ++ m))
    stages := k + 1 })

/-! ## Boot steps 2 and 3 (R464-R468) -/

/-- Partition entries of the image, with their ranges (R331). -/
def installParts (s : State) : State :=
  let ranges := imageRanges s
  forEach s (List.range 16) (fun s p =>
    let mine : Table (Nat × Nat) := (ranges.filter (fun r => r.1 / 16 == p)).map (fun r => (r.1 % 16, r.2))
    match cfg s (0x300 + p) with
    | none => modPart s p (fun _ => { ranges := mine })
    | some v => modPart s p (fun _ => {
        defined := true, ranges := mine, lcores := trimmedMask s v, homeHalf := leAt v 16 1
        autostart := leAt v 17 1 == 1, start := BitVec.ofNat 64 (leAt v 18 8) }))

/-- Entries ignored or trimmed (R8). -/
def informed (s : State) (l : List (Nat × List Byte)) : List Nat :=
  (l.filter (fun r => absentMode s r.1)).map (·.1) ++
  (List.range 16).filterMap (fun p => match cfg s (0x300 + p) with
    | some v => if trimmedMask s v = BitVec.ofNat 128 (leAt v 0 16) then none else some (0x300 + p)
    | none => none)

/-- PART entries in force name only logical cores that exist. -/
def trimEntries (s : State) : State :=
  modBoot s (fun b => { b with entries := b.entries.map (fun (e : Nat × List Byte) =>
    if 0x300 ≤ e.1 ∧ e.1 < 0x310 then (e.1, splice e.2 0 (leBytes 16 (trimmedMask s e.2).toNat)) else e) })

/-- Weights: the pending one of a boot without loss of standby power, else the image's (R210). -/
def installWeights (s : State) : State :=
  forEach s (List.range 8) (fun s j => modStack s j (fun x => { x with
    weight := x.pendingWeight.getD (imageWeight s j), pendingWeight := none }))

def installClasses (s : State) : State :=
  modFaults s (fun f => { f with classes := (List.range 37).filterMap (fun c =>
    (cfg s (0x700 + c)).map (fun v => (c, ({ n := leAt v 0 1, w := leAt v 1 4 } : ClassCfg)))) })

/-- The configuration entries are applied. -/
def applyConfig (s : State) (l : List (Nat × List Byte)) : State :=
  let s1 := withEntries s (entryTable s l)
  let s2 := modBoot s1 (fun b => { b with infos := informed s1 l })
  installClasses (installWeights (trimEntries (installParts s2)))

/-- First unused reservation of a key's IV counter (R474). -/
def ivStart (s : State) (inst : W32) (v : BitVec 512) : Nat :=
  (s.boot.ivKept.filter (fun e => e.1 == inst && e.2.1 == v)).foldl (fun n e => max n e.2.2) 0

def installKeys (s : State) (l : List KeyRec) : State :=
  l.foldl (fun s r =>
    let v := Config.imageKey r.wrapped
    modBoot s (fun b => { b with keys := tset b.keys r.handle {
      kind := r.kind, dirs := r.dirs, mask := r.mask, value := v, inst := r.inst, stored := false, reserved := ivStart s r.inst v } })) s

/-- INCARNATION (R317). -/
def drawIncarnation (s : State) : State :=
  { s with free := s.free + 1, ident := { s.ident with incarnation := (Config.draw s.free).setWidth 32 } }

/-- The used copy's steps. -/
def useCopy (s : State) (b : List Byte) : State :=
  let cfgSec := sectionOf b SecKind.config
  let s1 := modBoot s (fun x => { x with
    version := Img.version b, imageSvn := Img.svn b, svn := Img.svn b, revoke := BitVec.ofNat 4 (Img.revoke b)
    advance := (Img.flags b).testBit 0, dieFw := sectionOf b SecKind.dieFw, payloads := payloadsOf b })
  let s2 := drawIncarnation (applyConfig (measure s1 1 (b.take (Img.length b - 192))) ((configRecords cfgSec.length cfgSec).getD []))
  measure (measure (installKeys s2 ((imageKeys b).getD [])) 2 (sectionOf b SecKind.huskFw)) 3 cfgSec

/-- The factory defaults; keys of the non-volatile memory stay installed and are usable by no partition (R466). -/
def useDefaults (s : State) (r0 r1 : Nat) : State :=
  let s1 := report (modBoot s (fun x => { x with
    defaulted := true, dieFw := Config.romBytes 4, keys := x.keys.map (fun (e : Nat × KeyE) => (e.1, { e.2 with barred := true })) })) Pt.imageDefaulted (r0 + 256 * r1)
  measure (measure (drawIncarnation (applyConfig (measure s1 1 (Config.romBytes 1)) [])) 2 (Config.romBytes 2)) 3 (Config.romBytes 3)

/-- M2 ends: both copies are checked, one is used or the defaults are, and M3 begins, the trios powered as TRIO_MODE says (R25, R156). -/
def imageCheckEnd (s : State) (c0 c1 : CopyIn) : State :=
  let r0 := checkCopy s c0
  let r1 := checkCopy s c1
  let used := chosenCopy r0 r1 (versionOf c0) (versionOf c1)
  let seen := fun (r k : Nat) => if r = Chk.pass ∧ used ≠ k then Chk.notSelected else r
  let s1 := modBoot s (fun b => { b with
    result0 := seen r0 0, result1 := seen r1 1, version0 := versionOf c0, version1 := versionOf c1, used := used, spiDriven := false })
  let s2 := if used = 0 then useCopy s1 c0.bytes else if used = 1 then useCopy s1 c1.bytes else useDefaults s1 r0 r1
  settle (modModeS (forEach s2 [0, 1] bootHalf) (fun m => { m with base := 3 }))

def execImageCheckEnd (c0 c1 : CopyIn) (s : State) : Res :=
  .next (if timeRuns s ∧ s.mode.base = 2 ∧ s.mode.mode ≠ 11 then imageCheckEnd s c0 c1 else s)

/-! ## Boot steps 6 and 7 (R337, R469, R470) -/

def zeroRanges (s : State) : State := (allRanges s).foldl (fun s r => zeroFill s r.1 r.2) s

/-- Bytes copied to memory, line by line; what would go to a fenced stack is dropped and counted (R206). -/
def copyBytes : Nat → State → Nat → List Byte → State
  | 0, s, _, _ => s
  | n + 1, s, a, bs =>
    if bs.isEmpty then s
    else
      let s1 := match stackOf s a with
        | some j =>
          if (stack s j).state = .fenced then modStack s j (fun x => { x with droppedWrites := x.droppedWrites + 1 })
          else { s with mem := Memory.setBytes s.mem a (bs.take 128) }
        | none => { s with mem := Memory.setBytes s.mem a (bs.take 128) }
      copyBytes n s1 (a + 128) (bs.drop 128)

/-- A PAYLOAD is copied to the start of RANGE[0], as far as the range reaches (LOG 48). -/
def copyPayload (s : State) (x : Nat × List Byte) : State :=
  let r := range0 s x.1
  copyBytes (x.2.length / 128 + 1) s r.1 (x.2.take r.2)

def copyPayloads (s : State) : State :=
  measure (s.boot.payloads.foldl copyPayload s) 6 (s.boot.payloads.flatMap (·.2))

/-- Fuse updates of the lock point; a boot from the defaults makes none (R470). -/
def fuse (s : State) : State :=
  if s.boot.defaulted then s
  else modBoot s (fun b => { b with
    svnFused := if b.advance then max b.svnFused b.svn else b.svnFused
    revoked := b.revoked ||| b.revoke })

def autostart (s : State) : State :=
  forEach s (List.range 16) (fun s p => if (part s p).defined && (part s p).autostart && startable s p then startPart s p else s)

/-- The module enters service. -/
def enterService (s : State) : State :=
  let s1 := fuse (modBoot (copyPayloads (zeroRanges s)) (fun b => { b with locked := true }))
  settle (autostart (modModeS s1 (fun m => { m with base := 5 })))

/-! ## Built-in test (R153, R212, R469, R478) -/

/-- Occasion of CORE_ARRAY's DETAIL: the built-in test. -/
def inBuiltIn : Nat := 4

def failCore (s : State) (x : CoreNo × BitVec 4) : State :=
  if x.1 < 192 ∧ trioAbsent s (x.1 / 3) then s
  else report (setCore s x.1 .excluded) (Pt.coreArray x.1) (x.2.toNat + place inBuiltIn 4)

/-- A die that fails the test is not in service (R480). -/
def failDie (s : State) (d : Nat) : State :=
  declareDead (modNet s (fun n => { n with lost := tset n.lost d true, lostPip := tset n.lostPip d (pip s) })) (HullAt.die d)
    HullCause.collector

/-- Some logical core of the half can run. -/
def halfUsable (s : State) (h : Nat) : Bool := !dieLost s h && (triosOf h).any (fun n => trioRuns (trio s n).state)

/-- Stacks, engines and CXL devices of the dies that work come up (R25, R212). -/
def powerUnits (s : State) (r : BistIn) : State :=
  let s1 := forEach s ((List.range 8).filter (fun j => !dieLost s (j / 4))) (fun s j =>
    modStack s j (fun x => { x with state := if x.state = .fenced then .fenced else .active }))
  let s2 := forEach s1 ((List.range 32).filter (fun e => !ioLost s1 (e / 8))) (fun s e => modEng s e (fun x => { x with state := .active }))
  r.cxl.foldl (fun s x => modCxl s x.1 (fun _ => { capacity := some (min x.2 cxlWindow) })) s2

/-- The cores of every trio at 1.2 GHz (R478, R487). -/
def coldClocks (s : State) : State :=
  forEach s (List.range 64) (fun s n => modTrio s n (fun t => { t with f := clockFloor, clk := clockFloor, volt := clockFloor }))

/-- Each replica's edge is trimmed, and SKEW_MAX takes the largest difference between any two of the seven time bases (R30, R36). -/
def trimReplicas (s : State) (l : List (DieNo × Fin 3)) : State :=
  let t : Table (Fin 3) := l.foldl (fun t x => tset t x.1.val x.2) []
  let at_ := (List.range 7).map (fun d => (tget 1 t d).val)
  modTime s (fun x => { x with trims := t, skewMax := at_.foldl max 0 - at_.foldl min 2 })

def builtInTestEnd (s : State) (r : BistIn) : State :=
  let s1 := r.failedCores.foldl failCore (trimReplicas s r.trims)
  let s2 := forEach s1 (r.failedDies.map (·.val)) failDie
  let s3 := powerUnits (forEach s2 (r.failedStacks.map (·.val)) (fun s j => fenceStack s j 0)) r
  let s4 := forEach s3 ([0, 1].filter (fun h => !dieLost s3 h)) bootHalf
  let s5 := measure (measure s4 4 s.boot.dieFw) 5 r.testRecord
  if !halfUsable s5 0 && !halfUsable s5 1 then enterSafe s5 3 0 3
  else if anyBelowZero s5 then settle (modModeS (coldClocks s5) (fun m => { m with base := 4 }))
  else enterService s5

def execBuiltInTestEnd (r : BistIn) (s : State) : Res :=
  .next (if timeRuns s ∧ s.mode.base = 3 ∧ s.mode.mode ≠ 11 then builtInTestEnd s r else s)

/-- Pips at 0 °C or above that end M4 (R487). -/
def warmLimit : Nat := 100

def execColdStartEnd (s : State) : Res :=
  .next (if timeRuns s ∧ s.mode.base = 4 ∧ s.mode.mode ≠ 11 ∧ warmLimit ≤ s.power.warmPips then enterService s else s)

/-! ## Reset and standby power (R34, R452, R478, R498-R500, R521) -/

/-- The collector's records that wait are written before the dies enter reset. -/
def flushRecords (s : State) : State := if s.faults.selfOk then writeFaults s.faults.waiting.length s else s

/-- What the non-volatile memory and the fuses keep (R470, R473, R474). -/
def keptBoot (b : Boot) : Boot :=
  { keys := (b.keys.filter (fun e => e.2.stored)).map (fun (e : Nat × KeyE) =>
      (e.1, { e.2 with reserved := (ivRecord e.2).2.2, drawn := 0, barred := false }))
    ivKept := b.ivKept ++ (b.keys.filter (fun e => !e.2.stored)).map (fun e => ivRecord e.2)
    svnFused := b.svnFused, revoked := b.revoked }

/-- The module with every die off or in reset, and what lasts through that: the pins, the fuses and the non-volatile memory. -/
def blank (s : State) : State :=
  { ({} : State) with
    pending := s.pending
    free := s.free
    ident := { s.ident with incarnation := 0#32 }
    boot := keptBoot s.boot
    pins := { s.pins with resetN := false, limitA := false, limitB := false, thermtripN := true, alive := false, aliveStopped := false
                          aliveAt := 0 } }

/-- RESET_N falls: state is kept as R521 says; the measurement registers are cleared only at its release (R469). -/
def resetAssert (s : State) : State :=
  let s1 := flushRecords s
  { blank s1 with
    stackTab := s1.stackTab.map (fun e => (e.1, { pendingWeight := e.2.pendingWeight }))
    boot := { keptBoot s1.boot with meas := s1.boot.meas, stages := s1.boot.stages }
    faults := { log := s1.faults.log, head := s1.faults.head, kept := s1.faults.kept, overflow := s1.faults.overflow
                safeCause := s1.faults.safeCause } }

def execResetNAssert (s : State) : Res :=
  .next (if !s.pins.resetN then s
    else if s.pins.standbyGood then resetAssert s
    else modPins s (fun p => { p with resetN := false }))

/-- M1 is entered: the pip count starts, the measurement registers are cleared and the ROM is measured (R34, R469). -/
def startModule (s : State) : State :=
  measure { s with
    ident := { s.ident with boot := (s.ident.boot + 1) % 65536 }
    boot := { s.boot with meas := [], stages := 0 } } 0 (Config.romBytes 0)

/-- MBADDR is sampled at the release (R506). -/
def execResetNRelease (mbaddr : BitVec 3) (s : State) : Res :=
  .next (
    if s.pins.resetN then s
    else
      let s1 := modPins s (fun p => { p with resetN := true, mbaddr := mbaddr })
      if s.pins.standbyGood then startModule s1 else s1)

/-- M0: all volatile state is lost, the log and SAFE_CAUSE with it; the level of RESET_N is the board's. -/
def standbyLoss (s : State) : State :=
  let b := blank s
  { b with
    ident := { b.ident with boot := 0 }
    mode := { b.mode with mode := 0 }
    pins := { b.pins with standbyGood := false, resetN := s.pins.resetN } }

def execStandbyPowerLoss (s : State) : Res := .next (if s.pins.standbyGood then standbyLoss s else s)

/-- The service die is powered; with RESET_N already high it starts at once (LOG 49). -/
def execStandbyPowerGood (s : State) : Res :=
  .next (
    if s.pins.standbyGood then s
    else
      let s1 := modModeS (modPins s (fun p => { p with standbyGood := true })) (fun m => { m with mode := 1 })
      if s.pins.resetN then startModule s1 else s1)

end Sys2Proof.Machine
end

