-- ==== Sys2Proof/Machine/Pins.lean ====
section
/-! DEFINITION. The pip's edge and commit, overruns and the reference clock (R28-R44), ALIVE (R456), the power pins (R481, R486, R499), the
thermal trip (R488) and the management buses' lines (R506, R507). -/

namespace Sys2Proof.Machine

/-! ## The pip edge (R40, R41) -/

/-- One CONFIG_INFO in a pip (R8, LOG 45). -/
def reportInfo (s : State) : State :=
  match s.boot.infos with
  | [] => s
  | n :: rest => modBoot (report s Pt.configInfo n) (fun b => { b with infos := rest })

/-- Trios whose sets are all EMPTY or HELD count their pips (R491). -/
def countIdle (s : State) : State :=
  { s with trios := s.trios.map (fun (e : Nat × Trio) => (e.1, { e.2 with idlePips := if trioIdle s e.1 then e.2.idlePips + 1 else 0 })) }

/-- What the edge does in service: retraining that has lasted too long, slot budgets, demotion, rekey switches, status words of running jobs, the flush of split cores in
checkstop, accesses that can go on. -/
def serviceEdge (s : State) (l : List ProgressObs) : State :=
  wakeCores (splitFence (countIdle (l.foldl jobProgress (markBusy (pathsEdge (linksEdge s))))))

/-- The edge that begins the next pip. -/
def pipEdge (s : State) (i : PipInputs) : State :=
  let s1 := modTime s (fun t => { t with pip := t.pip + 1, grain := 0, realign := false, overruns := [] })
  let s2 := modPins (closePip s1 (pip s)) (fun p => { p with limitA := false, limitB := false })
  let s3 := armedEdge { s2 with shadow := s2.stagedShadow.getD s2.shadow, stagedShadow := none }
  let s4 := reportInfo (swapEdge (latch s3 i))
  whenServing s4 (serviceEdge s4 i.progress)

def execPipEdge (inp : PipInputs) (s : State) : Res := .next (if timeRuns s then pipEdge s inp else s)

/-- A grain passes; the last of the pip lasts until the edge (R29). -/
def passGrain (s : State) : State := if timeRuns s then modTime s (fun t => { t with grain := min 1023 (t.grain + 1) }) else s

/-! ## The commit window (R41, R42, R394) -/

/-- Partitions of the QUIESCEs taken in the pip stop fetching (R489). -/
def commitQuiesce (s : State) : State :=
  let ps := (List.range 16).filter (fun p => s.mode.quiesceReq.getLsbD p && decide ((part s p).state = .running))
  let s1 := forEach s ps (fun s p => modPart (holdSlices s p true) p (fun e => { e with state := .quiesced }))
  settle (modModeS s1 (fun m => { m with quiesceReq := 0#16 }))

/-- The halves after M7 are together again (R493). -/
def commitRejoin (s : State) : State :=
  if s.mode.rejoining.contains 8 then
    settle (modModeS (rejoinHalves s) (fun m => { m with rejoining := m.rejoining.filter (· != 8) }))
  else s

/-- The standby has every reply, and its record (R395). -/
def copyReplies (h : Husks) : Husks :=
  let all := fun (t : Table Kept) => t.map (fun (e : Nat × Kept) => (e.1, { e.2 with copied := true }))
  { h with kept := all h.kept, shown := all h.shown, mirrorDirty := false }

/-- Mirrored data reaches a READY standby, whose checksum then matches (R392, R394, R395). -/
def commitMirror (s : State) : State :=
  match actingHusk s with
  | none => s
  | some h =>
    if (huskOf s (otherHusk h)).stat = .ready then
      modHusks (modHusk s (otherHusk h) (fun x => { x with matchPips := x.matchPips + 1 })) copyReplies
    else s

/-- The last grain of the commit window. -/
def commitEnd : Nat := 1007

def commitOpen (s : State) : Bool :=
  timeRuns s && (actingHusk s).isSome && s.time.commitPip != some (pip s) && decide (s.time.grain ≤ commitEnd)

/-- An overrun of activity 8 abandons the whole commit (R42). -/
def commit (s : State) : State :=
  let s1 := modTime (toGrain s 896) (fun t => { t with commitPip := some (pip s) })
  if overran s1 8 then s1
  else if s1.mode.mode = 11 then stageShadow (commitPower s1)
  else stageShadow (commitMirror (commitRejoin (commitQuiesce (commitPower s1))))

/-- Only the husk that holds the seed commits: hardware discards what a refused holder would write, and counts it (R385, R388; LOG 136). -/
def execCommitWindow (s : State) : Res :=
  .next (
    if commitOpen s then commit s
    else if timeRuns s ∧ (holderId s).isSome ∧ (actingHusk s).isNone then modHusks s (fun h => { h with discarded := h.discarded + 1 })
    else s)

/-! ## Overruns and the reference clock (R32, R33, R42, R43) -/

/-- An overrun of activity 1 or 8 is a failed self-check of the husk that holds the seed. -/
def pipOverrun (s : State) (a : Nat) : State :=
  let s1 := report (modTime s (fun t => { t with
    overrun := true, overrunCount := t.overrunCount + 1, lastOverrun := a, overruns := t.overruns ++ [a] })) Pt.pipOverrun a
  if a = 1 ∨ a = 8 then (match actingHusk s1 with | some h => huskFails s1 h 4 | none => s1) else s1

/-- Activities are numbered from 1. Activity 9 can overrun on several channels in one pip. -/
def execPipOverrun (activity : Fin 10) (s : State) : Res :=
  .next (if timeRuns s ∧ activity ≠ 0 ∧ (activity = 9 ∨ !overran s activity) then pipOverrun s activity else s)

def execRefclkLost (s : State) : Res :=
  .next (
    if timeRuns s ∧ !s.time.holdover then
      report (modPins (modTime s (fun t => { t with holdover := true, refLost := true })) (fun p => { p with refclk := false })) Pt.refclkLost 0
    else s)

def execHoldoverExit (s : State) : Res :=
  .next (
    if timeRuns s ∧ s.time.holdover then
      modPins (modTime s (fun t => { t with holdover := false, realign := true })) (fun p => { p with refclk := true })
    else s)

/-! ## ALIVE (R456) -/

/-- Pips between two level changes. -/
def alivePips : Nat := 500

/-- All is well. A close that is not finished by grain 15 clears SELF_OK (R454). -/
def allWell (s : State) : Bool :=
  decide (1 ≤ s.mode.mode ∧ s.mode.mode ≤ 10) && s.faults.selfOk && !s.faults.huskNone && !s.pins.aliveStopped

/-- A change of level at the edge of a pip whose count is a nonzero multiple of 500. -/
def execAliveToggle (s : State) : Res :=
  .next (
    if timeRuns s && allWell s && decide (s.time.grain = 0 ∧ pip s ≠ 0 ∧ pip s % alivePips = 0 ∧ s.pins.aliveAt ≠ pip s) then
      modPins s (fun p => { p with alive := !p.alive, aliveAt := pip s })
    else s)

/-! ## Power and heat -/

/-- PWR_OK is high only with both groups in range (R498). -/
def execPwrOkRise (s : State) : Res :=
  .next (
    let s1 := modPins s (fun p => { p with pwrOk := true, inA := true, inB := true })
    if timeRuns s then toImageCheck s1 else s1)

/-- Both groups report in M2 to M10 (R481). -/
def execPwrOkFall (s : State) : Res :=
  .next (
    let s1 := modPins s (fun p => { p with pwrOk := false })
    if s.pins.pwrOk ∧ 2 ≤ s.mode.mode ∧ s.mode.mode ≤ 10 then report (report s1 (Pt.inputLoss 0) 3) (Pt.inputLoss 1) 3 else s1)

/-- A group leaves its range: its IVRs stop drawing from it. The groups are watched from M2 on, RESET_N being high (R498-R500, LOG 50). -/
def execInputLoss (group : Fin 2) (high : Bool) (s : State) : Res :=
  .next (
    if timeRuns s ∧ 2 ≤ s.mode.mode then
      report (modPins s (fun p => if group = 0 then { p with inA := false } else { p with inB := false })) (Pt.inputLoss group)
        (if high then 2 else 1)
    else s)

/-- A group's IVRs limit its draw; the mark stands until the next pip edge (R486, LOG 51). -/
def execIvrCurrentLimit (group : Fin 2) (s : State) : Res :=
  .next (if diesPowered s then modPins s (fun p => if group = 0 then { p with limitA := true } else { p with limitB := true }) else s)

/-- First sensor of the service die (R484). -/
def serviceSensor : Nat := 312

/-- A comparator reads 125 °C: the sensors of the service die act from M1 on, while RESET_N is low too, though no report is stamped then; the
others act once their die is powered (R488, R500). -/
def execThermalTrip (sensor : Fin 320) (s : State) : Res :=
  .next (
    if (s.pins.standbyGood && decide (serviceSensor ≤ sensor)) || diesPowered s then
      modPins (report s Pt.thermTrip sensor) (fun p => { p with thermtripN := false })
    else s)

/-! ## Management bus lines (R506, R507) -/

/-- A line has been low for 25 ms: the module releases its drivers and clocks the bus out. -/
def execMbBusStuck (b : Bus) (s : State) : Res :=
  .next (if timeRuns s ∧ !(mbus s b).failed then modBus s b (fun m => { m with recovering := true }) else s)

/-- A line is still low 1 ms after the recovery. -/
def execMbBusFail (b : Bus) (s : State) : Res :=
  .next (
    if timeRuns s ∧ (mbus s b).recovering then
      report (modBus s b (fun m => { m with failed := true, recovering := false })) (Pt.mbFail b) 1
    else s)

/-- Both lines have been high for 100 ms. -/
def execMbBusReturn (b : Bus) (s : State) : Res :=
  .next (if timeRuns s ∧ (mbus s b).failed then report (modBus s b (fun m => { m with failed := false })) (Pt.mbFail b) 2 else s)

/-- A dynamic address moves the bus to I3C mode (R506). -/
def execI3cAddressAssign (b : Bus) (addr : BitVec 7) (s : State) : Res :=
  .next (if timeRuns s ∧ !(mbus s b).failed then modBus s b (fun m => { m with i3c := some addr.toNat }) else s)

end Sys2Proof.Machine
end

