-- ==== Sys2Proof/Machine/Dispatch.lean ====
section
/-! DEFINITION. One arm per command: the direct call of its meaning. -/

namespace Sys2Proof.Machine

def exec (i : Instr) (s : State) : Host.Outcome State Fault Refusal :=
  match i with
  -- pins, power and time
  | .resetNRelease mbaddr => Sys2Proof.Machine.execResetNRelease mbaddr s
  | .resetNAssert => Sys2Proof.Machine.execResetNAssert s
  | .standbyPowerLoss => Sys2Proof.Machine.execStandbyPowerLoss s
  | .pwrOkRise => Sys2Proof.Machine.execPwrOkRise s
  | .pwrOkFall => Sys2Proof.Machine.execPwrOkFall s
  | .inputLoss group high => Sys2Proof.Machine.execInputLoss group high s
  | .ivrCurrentLimit group => Sys2Proof.Machine.execIvrCurrentLimit group s
  | .thermalTrip sensor => Sys2Proof.Machine.execThermalTrip sensor s
  | .pipEdge inp => Sys2Proof.Machine.execPipEdge inp s
  | .huskLoop inp => Sys2Proof.Machine.execHuskLoop inp s
  | .eventDeliveryWindow => Sys2Proof.Machine.execEventDeliveryWindow s
  | .commitWindow => Sys2Proof.Machine.execCommitWindow s
  | .pipOverrun activity => Sys2Proof.Machine.execPipOverrun activity s
  | .refclkLost => Sys2Proof.Machine.execRefclkLost s
  | .holdoverExit => Sys2Proof.Machine.execHoldoverExit s
  | .aliveToggle => Sys2Proof.Machine.execAliveToggle s
  -- Derkin instructions
  | .mov c rd rs => Sys2Proof.Machine.execMov c rd rs s
  | .add c f => Sys2Proof.Machine.execAdd c f s
  | .sub c f => Sys2Proof.Machine.execSub c f s
  | .and c f => Sys2Proof.Machine.execAnd c f s
  | .or c f => Sys2Proof.Machine.execOr c f s
  | .xor c f => Sys2Proof.Machine.execXor c f s
  | .not c rd ra => Sys2Proof.Machine.execNot c rd ra s
  | .neg c rd ra => Sys2Proof.Machine.execNeg c rd ra s
  | .tget c f => Sys2Proof.Machine.execTget c f s
  | .jr c rd rs => Sys2Proof.Machine.execJr c rd rs s
  | .ret c r => Sys2Proof.Machine.execRet c r s
  | .movi c rd imm => Sys2Proof.Machine.execMovi c rd imm s
  | .addi c f => Sys2Proof.Machine.execAddi c f s
  | .andi c rd ra imm => Sys2Proof.Machine.execAndi c rd ra imm s
  | .ori c rd ra imm => Sys2Proof.Machine.execOri c rd ra imm s
  | .xori c rd ra imm => Sys2Proof.Machine.execXori c rd ra imm s
  | .shl c f => Sys2Proof.Machine.execShl c f s
  | .shr c f => Sys2Proof.Machine.execShr c f s
  | .sar c f => Sys2Proof.Machine.execSar c f s
  | .shifti c rd ra k count => Sys2Proof.Machine.execShifti c rd ra k count s
  | .lui c rd imm => Sys2Proof.Machine.execLui c rd imm s
  | .mul c rd ra rb => Sys2Proof.Machine.execMul c rd ra rb s
  | .mulh c rd ra rb => Sys2Proof.Machine.execMulh c rd ra rb s
  | .div c rd ra rb => Sys2Proof.Machine.execDiv c rd ra rb s
  | .rem c rd ra rb => Sys2Proof.Machine.execRem c rd ra rb s
  | .addc c rd ra rb rc => Sys2Proof.Machine.execAddc c rd ra rb rc s
  | .subc c rd ra rb rc => Sys2Proof.Machine.execSubc c rd ra rb rc s
  | .mulw c rd ra rb rc => Sys2Proof.Machine.execMulw c rd ra rb rc s
  | .leai c rd imm => Sys2Proof.Machine.execLeai c rd imm s
  | .lea c rd ra imm => Sys2Proof.Machine.execLea c rd ra imm s
  | .adda c rd ra rb sh => Sys2Proof.Machine.execAdda c rd ra rb sh s
  | .leap c rd imm => Sys2Proof.Machine.execLeap c rd imm s
  | .leac c rd imm => Sys2Proof.Machine.execLeac c rd imm s
  | .ldt c f => Sys2Proof.Machine.execLdt c f s
  | .ldw c rd ra imm => Sys2Proof.Machine.execLdw c rd ra imm s
  | .ldwu c rd ra imm => Sys2Proof.Machine.execLdwu c rd ra imm s
  | .ldh c rd ra imm => Sys2Proof.Machine.execLdh c rd ra imm s
  | .ldhu c rd ra imm => Sys2Proof.Machine.execLdhu c rd ra imm s
  | .ldb c rd ra imm => Sys2Proof.Machine.execLdb c rd ra imm s
  | .ldbu c rd ra imm => Sys2Proof.Machine.execLdbu c rd ra imm s
  | .ldc c rd ra imm => Sys2Proof.Machine.execLdc c rd ra imm s
  | .ldtp c rd imm => Sys2Proof.Machine.execLdtp c rd imm s
  | .stt c f => Sys2Proof.Machine.execStt c f s
  | .stw c rs ra imm => Sys2Proof.Machine.execStw c rs ra imm s
  | .sth c rs ra imm => Sys2Proof.Machine.execSth c rs ra imm s
  | .stb c rs ra imm => Sys2Proof.Machine.execStb c rs ra imm s
  | .bcmp c ra cond disp => Sys2Proof.Machine.execBcmp c ra cond disp s
  | .bz c rs disp => Sys2Proof.Machine.execBz c rs disp s
  | .bnz c rs disp => Sys2Proof.Machine.execBnz c rs disp s
  | .jmp c disp => Sys2Proof.Machine.execJmp c disp s
  | .call c disp => Sys2Proof.Machine.execCall c disp s
  | .jalr c rd ra imm => Sys2Proof.Machine.execJalr c rd ra imm s
  | .nop c => Sys2Proof.Machine.execNop c s
  | .dadd c rd ra rb => Sys2Proof.Machine.execDadd c rd ra rb s
  | .dsub c rd ra rb => Sys2Proof.Machine.execDsub c rd ra rb s
  | .dcmp c rd ra rb => Sys2Proof.Machine.execDcmp c rd ra rb s
  | .dchk c rd ra => Sys2Proof.Machine.execDchk c rd ra s
  | .dtoi c rd ra => Sys2Proof.Machine.execDtoi c rd ra s
  | .itod c rd ra => Sys2Proof.Machine.execItod c rd ra s
  | .vdadd c vd va vb => Sys2Proof.Machine.execVdadd c vd va vb s
  | .vld c vd ra imm => Sys2Proof.Machine.execVld c vd ra imm s
  | .vst c vs ra imm => Sys2Proof.Machine.execVst c vs ra imm s
  | .vstd c vs ra imm => Sys2Proof.Machine.execVstd c vs ra imm s
  | .fadd c rd ra rb => Sys2Proof.Machine.execFadd c rd ra rb s
  | .fsub c rd ra rb => Sys2Proof.Machine.execFsub c rd ra rb s
  | .fmul c rd ra rb => Sys2Proof.Machine.execFmul c rd ra rb s
  | .fdiv c rd ra rb => Sys2Proof.Machine.execFdiv c rd ra rb s
  | .fsqrt c rd ra => Sys2Proof.Machine.execFsqrt c rd ra s
  | .fma c rd ra rb rc => Sys2Proof.Machine.execFma c rd ra rb rc s
  | .fmin c rd ra rb => Sys2Proof.Machine.execFmin c rd ra rb s
  | .fmax c rd ra rb => Sys2Proof.Machine.execFmax c rd ra rb s
  | .fcmp c rd ra rb => Sys2Proof.Machine.execFcmp c rd ra rb s
  | .fcvtif c rd ra => Sys2Proof.Machine.execFcvtif c rd ra s
  | .fcvtfi c rd ra => Sys2Proof.Machine.execFcvtfi c rd ra s
  | .fneg c rd ra => Sys2Proof.Machine.execFneg c rd ra s
  | .fabs c rd ra => Sys2Proof.Machine.execFabs c rd ra s
  | .fbar c z => Sys2Proof.Machine.execFbar c z s
  | .fpTrap c => Sys2Proof.Machine.execFpTrap c s
  | .amoadd c rd ra rb o => Sys2Proof.Machine.execAmoadd c rd ra rb o s
  | .amoswap c rd ra rb o => Sys2Proof.Machine.execAmoswap c rd ra rb o s
  | .amocas c rd ra rb o => Sys2Proof.Machine.execAmocas c rd ra rb o s
  | .damoadd c rd ra rb o => Sys2Proof.Machine.execDamoadd c rd ra rb o s
  | .fence c => Sys2Proof.Machine.execFence c s
  | .ifence c => Sys2Proof.Machine.execIfence c s
  | .zline c ra imm => Sys2Proof.Machine.execZline c ra imm s
  | .cclean c ra imm => Sys2Proof.Machine.execCclean c ra imm s
  | .cflush c ra imm => Sys2Proof.Machine.execCflush c ra imm s
  | .cinv c ra imm => Sys2Proof.Machine.execCinv c ra imm s
  | .l2wb c ra imm => Sys2Proof.Machine.execL2wb c ra imm s
  | .tset c rd ra t => Sys2Proof.Machine.execTset c rd ra t s
  | .tchk c ra mask => Sys2Proof.Machine.execTchk c ra mask s
  | .trapi c num => Sys2Proof.Machine.execTrapi c num s
  | .rdtime c rd => Sys2Proof.Machine.execRdtime c rd s
  | .break c => Sys2Proof.Machine.execBreak c s
  | .tswitch c f => Sys2Proof.Machine.execTswitch c f s
  | .tsave c rd rb => Sys2Proof.Machine.execTsave c rd rb s
  | .tload c rd ra rb => Sys2Proof.Machine.execTload c rd ra rb s
  | .wread c rd => Sys2Proof.Machine.execWread c rd s
  | .wwrite c ra => Sys2Proof.Machine.execWwrite c ra s
  | .rett c => Sys2Proof.Machine.execRett c s
  | .mfsr c rd n => Sys2Proof.Machine.execMfsr c rd n s
  | .mtsr c ra n => Sys2Proof.Machine.execMtsr c ra n s
  | .event c => Sys2Proof.Machine.execEvent c s
  | .machineCheck c => Sys2Proof.Machine.execMachineCheck c s
  -- trios
  | .voterDissent t p lane => Sys2Proof.Machine.execVoterDissent t p lane s
  | .l1ParityError core => Sys2Proof.Machine.execL1ParityError core s
  | .voterNoMajority t => Sys2Proof.Machine.execVoterNoMajority t s
  | .checkstopRecoveryPip t o => Sys2Proof.Machine.execCheckstopRecoveryPip t o s
  | .checkstopResume t => Sys2Proof.Machine.execCheckstopResume t s
  | .rebuildLimit t p => Sys2Proof.Machine.execRebuildLimit t p s
  | .splitCoreError c => Sys2Proof.Machine.execSplitCoreError c s
  | .splitCoreResume c arrayFail shadowOk => Sys2Proof.Machine.execSplitCoreResume c arrayFail shadowOk s
  -- coherence
  | .rdshared a line nc => Sys2Proof.Machine.execRdshared a line nc s
  | .rdown a line zero m => Sys2Proof.Machine.execRdown a line zero m s
  | .upgrade a line zero => Sys2Proof.Machine.execUpgrade a line zero s
  | .amoreq a pa x => Sys2Proof.Machine.execAmoreq a pa x s
  | .wrline d line bytes mask alloc => Sys2Proof.Machine.execWrline d line bytes mask alloc s
  | .wbdirty a line => Sys2Proof.Machine.execWbdirty a line s
  | .wbclean a line => Sys2Proof.Machine.execWbclean a line s
  | .evictnote a line => Sys2Proof.Machine.execEvictnote a line s
  | .invalack a line => Sys2Proof.Machine.execInvalack a line s
  | .dataAtHome a line d => Sys2Proof.Machine.execDataAtHome a line d s
  | .cmpAtHome a line => Sys2Proof.Machine.execCmpAtHome a line s
  | .data a line d => Sys2Proof.Machine.execData a line d s
  | .dataexcl a line d => Sys2Proof.Machine.execDataexcl a line d s
  | .cmp a line => Sys2Proof.Machine.execCmp a line s
  | .nack a line => Sys2Proof.Machine.execNack a line s
  | .fwdshared a line req v => Sys2Proof.Machine.execFwdshared a line req v s
  | .fwdown a line req => Sys2Proof.Machine.execFwdown a line req s
  | .inval a line => Sys2Proof.Machine.execInval a line s
  | .amorsp a pa old st cont => Sys2Proof.Machine.execAmorsp a pa old st cont s
  | .cacheEccError arr correctable => Sys2Proof.Machine.execCacheEccError arr correctable s
  | .isolatedResponse r => Sys2Proof.Machine.execIsolatedResponse r s
  -- memory
  | .patrolScrubStep j corrected uncorrectable => Sys2Proof.Machine.execPatrolScrubStep j corrected uncorrectable s
  | .hbmCorrectableError pa => Sys2Proof.Machine.execHbmCorrectableError pa s
  | .hbmUncorrectableError pa => Sys2Proof.Machine.execHbmUncorrectableError pa s
  | .hbmCaParityError pa persists => Sys2Proof.Machine.execHbmCaParityError pa persists s
  | .hbmPhyFailure j => Sys2Proof.Machine.execHbmPhyFailure j s
  | .stackSlow j => Sys2Proof.Machine.execStackSlow j s
  | .stackSelfRefreshEntry j => Sys2Proof.Machine.execStackSelfRefreshEntry j s
  | .cxlLinkLoss k removed => Sys2Proof.Machine.execCxlLinkLoss k removed s
  -- network
  | .flitCrcError l => Sys2Proof.Machine.execFlitCrcError l s
  | .linkTrainingEnd l ok => Sys2Proof.Machine.execLinkTrainingEnd l ok s
  | .domainWake d => Sys2Proof.Machine.execDomainWake d s
  | .domainWakeDone d => Sys2Proof.Machine.execDomainWakeDone d s
  | .wakeOverrun d => Sys2Proof.Machine.execWakeOverrun d s
  | .netTimeout reporter target => Sys2Proof.Machine.execNetTimeout reporter target s
  | .hullPlacement target => Sys2Proof.Machine.execHullPlacement target s
  | .hullArrival h m => Sys2Proof.Machine.execHullArrival h m s
  | .splitLinkIsolation => Sys2Proof.Machine.execSplitLinkIsolation s
  | .spanningPartitionEvaluate p => Sys2Proof.Machine.execSpanningPartitionEvaluate p s
  | .m7Retrain up => Sys2Proof.Machine.execM7Retrain up s
  | .dieSelfStop d => Sys2Proof.Machine.execDieSelfStop d s
  -- rings and exchanges
  | .sqTailWrite sl r v => Sys2Proof.Machine.execSqTailWrite sl r v s
  | .cqHeadWrite sl r v => Sys2Proof.Machine.execCqHeadWrite sl r v s
  | .wmStatusClear sl r w v => Sys2Proof.Machine.execWmStatusClear sl r w v s
  | .descriptorFetch sl r => Sys2Proof.Machine.execDescriptorFetch sl r s
  | .mirrorConfirm x => Sys2Proof.Machine.execMirrorConfirm x s
  | .read x => Sys2Proof.Machine.execRead x s
  | .write x => Sys2Proof.Machine.execWrite x s
  | .control x => Sys2Proof.Machine.execControl x s
  | .sense x => Sys2Proof.Machine.execSense x s
  | .chain x => Sys2Proof.Machine.execChain x s
  | .echo x => Sys2Proof.Machine.execEcho x s
  | .cancel x => Sys2Proof.Machine.execCancel x s
  | .open x => Sys2Proof.Machine.execOpen x s
  | .dataSend x => Sys2Proof.Machine.execDataSend x s
  | .exchangeLogged x => Sys2Proof.Machine.execExchangeLogged x s
  | .recordComposed x => Sys2Proof.Machine.execRecordComposed x s
  | .recordPosted x => Sys2Proof.Machine.execRecordPosted x s
  | .noPathWaitExpiry x => Sys2Proof.Machine.execNoPathWaitExpiry x s
  | .exchangeTimeout x => Sys2Proof.Machine.execExchangeTimeout x s
  | .abortWaitExpiry x => Sys2Proof.Machine.execAbortWaitExpiry x s
  | .ioDieTakeover d => Sys2Proof.Machine.execIoDieTakeover d s
  | .pairLoss p => Sys2Proof.Machine.execPairLoss p s
  | .sliceResetDrainEnd sl => Sys2Proof.Machine.execSliceResetDrainEnd sl s
  | .dataFrame ch h b => Sys2Proof.Machine.execDataFrame ch h b s
  | .ack ch h disposition => Sys2Proof.Machine.execAck ch h disposition s
  | .nak ch h nakSeq reason => Sys2Proof.Machine.execNak ch h nakSeq reason s
  | .complete ch h b => Sys2Proof.Machine.execComplete ch h b s
  | .resumeAnswer ch h b => Sys2Proof.Machine.execResumeAnswer ch h b s
  | .pathHello ch h b => Sys2Proof.Machine.execPathHello ch h b s
  | .pathGone ch h b => Sys2Proof.Machine.execPathGone ch h b s
  | .rtoExpiry ch => Sys2Proof.Machine.execRtoExpiry ch s
  | .pathHelloSend ch => Sys2Proof.Machine.execPathHelloSend ch s
  | .pathSilence ch => Sys2Proof.Machine.execPathSilence ch s
  | .pcsBlockLockLoss ch => Sys2Proof.Machine.execPcsBlockLockLoss ch s
  | .pcsBlockLock ch => Sys2Proof.Machine.execPcsBlockLock ch s
  | .rekeyIntervalExpiry g => Sys2Proof.Machine.execRekeyIntervalExpiry g s
  | .rekeyTimeout g => Sys2Proof.Machine.execRekeyTimeout g s
  | .oldKeyErase g => Sys2Proof.Machine.execOldKeyErase g s
  -- translation
  | .invalidate p k v => Sys2Proof.Machine.execInvalidate p k v s
  | .invalidateDone p k => Sys2Proof.Machine.execInvalidateDone p k s
  -- engines
  | .eqTailWrite sl r v => Sys2Proof.Machine.execEqTailWrite sl r v s
  | .engineJobFetch sl r => Sys2Proof.Machine.execEngineJobFetch sl r s
  | .engineJobAccept sl r => Sys2Proof.Machine.execEngineJobAccept sl r s
  | .engineJobStart j => Sys2Proof.Machine.execEngineJobStart j s
  | .engineJobEnd j => Sys2Proof.Machine.execEngineJobEnd j s
  | .engineSelfCheckFail j stage => Sys2Proof.Machine.execEngineSelfCheckFail j stage s
  | .stagingEnd x => Sys2Proof.Machine.execStagingEnd x s
  -- husks
  | .seedPlacement aPass bPass => Sys2Proof.Machine.execSeedPlacement aPass bPass s
  | .seedRenewal => Sys2Proof.Machine.execSeedRenewal s
  | .huskSelfCheckFail h check => Sys2Proof.Machine.execHuskSelfCheckFail h check s
  | .seedTakeover => Sys2Proof.Machine.execSeedTakeover s
  | .huskSelfTestEnd h pass => Sys2Proof.Machine.execHuskSelfTestEnd h pass s
  | .huskRejoinCopyDone h checksumOk => Sys2Proof.Machine.execHuskRejoinCopyDone h checksumOk s
  | .mbRequest b addr bytes pecOk => Sys2Proof.Machine.execMbRequest b addr bytes pecOk s
  | .mbReplyRead b addr => Sys2Proof.Machine.execMbReplyRead b addr s
  | .cmdGo p v => Sys2Proof.Machine.execCmdGo p v s
  | .commandPoll opcode q => Sys2Proof.Machine.execCommandPoll opcode q s
  | .unknownCommand opcode q => Sys2Proof.Machine.execUnknownCommand opcode q s
  -- command packets
  | .identity q => Sys2Proof.Machine.execIdentity q s
  | .configRead q => Sys2Proof.Machine.execConfigRead q s
  | .configWrite q => Sys2Proof.Machine.execConfigWrite q s
  | .stackWeightSet q => Sys2Proof.Machine.execStackWeightSet q s
  | .partDefine q => Sys2Proof.Machine.execPartDefine q s
  | .partStart q => Sys2Proof.Machine.execPartStart q s
  | .partStop q => Sys2Proof.Machine.execPartStop q s
  | .partRangeAdd q => Sys2Proof.Machine.execPartRangeAdd q s
  | .partRangeRemove q => Sys2Proof.Machine.execPartRangeRemove q s
  | .partRestart q => Sys2Proof.Machine.execPartRestart q s
  | .sliceCreate q => Sys2Proof.Machine.execSliceCreate q s
  | .sliceDestroy q => Sys2Proof.Machine.execSliceDestroy q s
  | .sliceReset q => Sys2Proof.Machine.execSliceReset q s
  | .sliceLogStart q => Sys2Proof.Machine.execSliceLogStart q s
  | .sliceLogSwitch q => Sys2Proof.Machine.execSliceLogSwitch q s
  | .sliceLogStop q => Sys2Proof.Machine.execSliceLogStop q s
  | .sliceStatus q => Sys2Proof.Machine.execSliceStatus q s
  | .partStatus q => Sys2Proof.Machine.execPartStatus q s
  | .faultLogRead q => Sys2Proof.Machine.execFaultLogRead q s
  | .historyRead q => Sys2Proof.Machine.execHistoryRead q s
  | .trioStatusRead q => Sys2Proof.Machine.execTrioStatusRead q s
  | .counterClear q => Sys2Proof.Machine.execCounterClear q s
  | .hullStatusRead q => Sys2Proof.Machine.execHullStatusRead q s
  | .classRead q => Sys2Proof.Machine.execClassRead q s
  | .classSet q => Sys2Proof.Machine.execClassSet q s
  | .capSet q => Sys2Proof.Machine.execCapSet q s
  | .powerRead q => Sys2Proof.Machine.execPowerRead q s
  | .sensorRead q => Sys2Proof.Machine.execSensorRead q s
  | .trioClockLimit q => Sys2Proof.Machine.execTrioClockLimit q s
  | .park q => Sys2Proof.Machine.execPark q s
  | .parkEntry => Sys2Proof.Machine.execParkEntry s
  | .unpark q => Sys2Proof.Machine.execUnpark q s
  | .trioAutoPark t => Sys2Proof.Machine.execTrioAutoPark t s
  | .pgOpen q => Sys2Proof.Machine.execPgOpen q s
  | .pgClose q => Sys2Proof.Machine.execPgClose q s
  | .pgSet q => Sys2Proof.Machine.execPgSet q s
  | .chSet q => Sys2Proof.Machine.execChSet q s
  | .ringSetup q => Sys2Proof.Machine.execRingSetup q s
  | .ringTeardown q => Sys2Proof.Machine.execRingTeardown q s
  | .pgStatus q => Sys2Proof.Machine.execPgStatus q s
  | .resumeQuery q => Sys2Proof.Machine.execResumeQuery q s
  | .engqSetup q => Sys2Proof.Machine.execEngqSetup q s
  | .engqTeardown q => Sys2Proof.Machine.execEngqTeardown q s
  | .engqAbort q => Sys2Proof.Machine.execEngqAbort q s
  | .engStatus q => Sys2Proof.Machine.execEngStatus q s
  | .engSet q => Sys2Proof.Machine.execEngSet q s
  | .pipStatusRead q => Sys2Proof.Machine.execPipStatusRead q s
  | .demandScrub q => Sys2Proof.Machine.execDemandScrub q s
  | .trioDump q => Sys2Proof.Machine.execTrioDump q s
  | .swap q => Sys2Proof.Machine.execSwap q s
  | .quiesce q => Sys2Proof.Machine.execQuiesce q s
  | .quiesceEnd q => Sys2Proof.Machine.execQuiesceEnd q s
  | .huskStatus q => Sys2Proof.Machine.execHuskStatus q s
  | .privLogRead q => Sys2Proof.Machine.execPrivLogRead q s
  | .unitRejoin q => Sys2Proof.Machine.execUnitRejoin q s
  | .unitRejoinEnd u ok => Sys2Proof.Machine.execUnitRejoinEnd u ok s
  | .keyGenerate q => Sys2Proof.Machine.execKeyGenerate q s
  | .keyImport q => Sys2Proof.Machine.execKeyImport q s
  | .keyDestroy q => Sys2Proof.Machine.execKeyDestroy q s
  | .keyInfo q => Sys2Proof.Machine.execKeyInfo q s
  | .rekey q => Sys2Proof.Machine.execRekey q s
  | .measurementRead q => Sys2Proof.Machine.execMeasurementRead q s
  | .imageStatus q => Sys2Proof.Machine.execImageStatus q s
  -- events and mailboxes
  | .evPendingWrite p e v => Sys2Proof.Machine.execEvPendingWrite p e v s
  | .evTake p e => Sys2Proof.Machine.execEvTake p e s
  | .evBindWrite p e v => Sys2Proof.Machine.execEvBindWrite p e v s
  | .mbxSend c k v => Sys2Proof.Machine.execMbxSend c k v s
  | .mbxDbTake p m => Sys2Proof.Machine.execMbxDbTake p m s
  | .mbxRelease p m v => Sys2Proof.Machine.execMbxRelease p m v s
  | .mbxReset p m v => Sys2Proof.Machine.execMbxReset p m v s
  -- registers and faults
  | .registerWrite r v => Sys2Proof.Machine.execRegisterWrite r v s
  | .faultPointReport pt detail => Sys2Proof.Machine.execFaultPointReport pt detail s
  | .faultRecordWrite => Sys2Proof.Machine.execFaultRecordWrite s
  | .collectorSelfFault kind => Sys2Proof.Machine.execCollectorSelfFault kind s
  -- boot
  | .imageCheckEnd c0 c1 => Sys2Proof.Machine.execImageCheckEnd c0 c1 s
  | .builtInTestEnd r => Sys2Proof.Machine.execBuiltInTestEnd r s
  | .coldStartEnd => Sys2Proof.Machine.execColdStartEnd s
  -- management buses
  | .mbBusStuck b => Sys2Proof.Machine.execMbBusStuck b s
  | .mbBusFail b => Sys2Proof.Machine.execMbBusFail b s
  | .mbBusReturn b => Sys2Proof.Machine.execMbBusReturn b s
  | .i3cAddressAssign b addr => Sys2Proof.Machine.execI3cAddressAssign b addr s
  | .standbyPowerGood => Sys2Proof.Machine.execStandbyPowerGood s
  -- responses and fetch
  | .deviceWindowResponse c => Sys2Proof.Machine.execDeviceWindowResponse c s
  | .illegalInstruction c z => Sys2Proof.Machine.execIllegalInstruction c z s
  | .instructionFetchFault c secondHalf => Sys2Proof.Machine.execInstructionFetchFault c secondHalf s

end Sys2Proof.Machine
end

