-- ==== Sys2Proof/Safety.lean ====
section
/-! DEFINITION. What counts as a sound state, and the words the statements use: a core that issues its next instruction, what an
instruction that completes leaves, the kinds of commands, and the invariants. -/

namespace Sys2Proof.Machine

/-! ## Instructions -/

/-- LCORE[c] issues its next instruction now, and no floating-point trap is due before it (R106). -/
def ready (s : State) (c : Nat) : Bool := runs s c && !fpDue (curSet s c)

/-- The core is wanted by nothing else: no request waits for a credit, and no other core waits for an access or an atomic's response. -/
def calm (s : State) (c : Nat) : Bool :=
  s.coh.held.isEmpty && s.lcores.all (fun e => e.1 == c || (e.2.wait.isNone && !e.2.replay.any (fun r => r.amo.isSome)))

/-- A message reaches its target: neither its sender nor its target is dead or stands behind a hull, and where it crosses the halves its
link is up and in use (R220, R233, R238). -/
def passes (s : State) (m : CohMsg) : Bool :=
  !((msgFrom s m).1 ++ (msgTo s m).1).any (targetDead s) &&
  (!crosses s m || (d2dUp s != 0 && !targetDead s (HullAt.d2d (lineLink s m.line))))

/-- An agent's request goes out at once and its answer comes back: its home answers, the agent stands behind no hull, a credit and a way
for the line are free, the links it crosses are up, the stack of the line is awake, and no request of its kind is outstanding for the line
(R159, R220, R226, R229, R234). -/
def reaches (s : State) (o : OutReq) : Bool :=
  !isolatedFrom s (agentHalf o.agent) o.line && passes s { kind := .cmpAtHome, agent := o.agent, line := o.line } && hasCredit s o &&
  (outFor s o.agent o.line (answerKind o.r)).isNone && !lineAsleep s o.line &&
  (!needsWay s o || (fullSet (l2Array s o.agent) (linesOf s o.agent (fun x => !l2Leaving x)) o.line).isEmpty)

/-- The sets of a line in L3 and in the directory of its home have a way for it (R159, R164). -/
def homeRoom (s : State) (ln : Nat) : Bool :=
  (fullSet l3Array ((peersOf s ln (fun h => h.l3.isSome)).filter (· != ln)) ln).isEmpty &&
  (fullSet dirArray ((peersOf s ln (fun h => decide (h.st ≠ .st .i))).filter (· != ln)) ln).isEmpty

/-- No message between an agent and the home of a line is in flight. -/
def noneFor (s : State) (a ln : Nat) : Bool := s.coh.net.all (fun m => !(m.agent == a && m.line == ln))

/-- The state after an instruction of LCORE[c] that leaves `t` as the RUNNING set and nothing else. -/
def retired (s : State) (c : Nat) (t : TaskSet) : State := retire (modCur s c (fun _ => t)) c (lcore s c).cur

/-- An instruction that writes `t`, falls through and retires. -/
def passed (s : State) (c : Nat) (z : Size) (t : TaskSet) : State := retired s c (pastPc t z)

/-- The outcome of class A: the exact result as INT, or INT_OVF with no register written (R91). -/
def intOutcome (s : State) (c : Nat) (z : Size) (rd : Nat) (v : Int) : State :=
  if -(2 ^ 63) ≤ v ∧ v < 2 ^ 63 then passed s c z (gwrite (curSet s c) rd (TWord.mkInt (BitVec.ofInt 64 v)))
  else raiseTrap s c z { no := Trap.intOvf }

/-- The outcome of a decimal result: the word of R96, or DEC_OVF with no register written (R97). -/
def decOutcome (s : State) (c : Nat) (z : Size) (rd : Nat) (v : Int) : State :=
  if v.natAbs ≤ 999999999999999 then passed s c z (gwrite (curSet s c) rd (TWord.mkDec (decOf v)))
  else raiseTrap s c z { no := Trap.decOvf }

/-- The signed value of a general register of the RUNNING set. -/
def regInt (s : State) (c r : Nat) : Int := (gread (curSet s c) r).data.toInt

def regData (s : State) (c r : Nat) : W64 := (gread (curSet s c) r).data
def regTag (s : State) (c r : Nat) : Tag := (gread (curSet s c) r).tag

/-- The tag of a general register is one of those listed for its class (R61). -/
def tagIn (s : State) (c r : Nat) (acc : Tag → Bool) : Bool := acc (regTag s c r)

/-! ## What a command leaves with the collector and the partitions -/

/-- A fault point's event has arrived at the collector. -/
def reported (s : State) (pt : Nat) : Prop := ∃ e ∈ s.faults.inbox, e.point = pt

/-- A cause of an event source is pending. -/
def caused (s : State) (src cause : Nat) : Prop := (evSource s src).pending.getLsbD cause = true

/-- A cause of a partition's notice source is pending. -/
def noticed (s : State) (p cause : Nat) : Prop := caused s (Src.notice p) cause

/-- A frame of type `ft` that arrives on CH[n] of PG[g] passes the checks of every frame and names the path's epoch (R290, R296, R325). -/
def acceptable (s : State) (n g ft : Nat) (h : FrameHdr) : Bool :=
  decide ((chan s n).group = some g) && (chan s n).pcs && !ioLost s (chanDie n) && outerOk s n ft h && authAccepted s g h &&
  decide ((chan s n).state = .live) && decide (h.epoch.toNat = (chan s n).epoch)

/-- A frame just put on the wire of CH[n], of the given type. -/
def justSent (s u : State) (n ftype : Nat) (f : TxFrame) : Prop := (chan u n).wire = f :: (chan s n).wire ∧ f.ftype = ftype

/-! ## Command packets -/

/-- The request does not repeat its sender's last one (R403). -/
def fresh (s : State) (q : Request) : Bool :=
  match tfind s.husks.kept (senderKey q) with
  | some k => isPoll q || !(k.nonce == q.nonce.toNat && k.seq == q.seq.toNat)
  | none => true

/-- The holder's loop takes the request now, its sender is privileged, and no check of the packet turns it away (R40, R48, R401-R408). -/
def granted (s : State) (op : Nat) (q : Request) : Bool :=
  taking s q && fresh s q && privileged s op q && !isPoll q && (precheck (dropFinished s q) op q).isNone

/-- The reply to `q` with this status and result is kept, and its pip is 1 to 3 from now; with a READY standby it is readable from then on
if the standby has it (R395, R399, R401, R403). -/
def replied (s u : State) (op : Nat) (q : Request) (status : Nat) (result : List Byte) : Prop :=
  ∃ k, tfind u.husks.kept (senderKey q) = some k ∧ tfind u.husks.shown (senderKey q) = some k ∧ k.opcode = op ∧ k.seq = q.seq.toNat ∧
    k.nonce = q.nonce.toNat ∧ k.status = status ∧ k.resultLength = result.length ∧ k.result = padTo 48 result ∧
    pip s < k.readyAt ∧ k.readyAt ≤ pip s + 3

/-- A long operation of this kind is open for the request (R401). -/
def opened (u : State) (q : Request) (kind : LongKind) : Prop :=
  ∃ o ∈ u.husks.longOps, o.kind = kind ∧ o.done = false ∧ o.seq = q.seq.toNat ∧ o.nonce = q.nonce.toNat

/-- Every command packet: its opcode, its command, and the request as the holder reads it. -/
def PacketRow (q : Request) (op : Nat) (row : Instr) (qa : Request) : Prop :=
  (op, row, qa) ∈ [(0x0101, .identity q, q), (0x0102, .configRead q, q), (0x0103, .configWrite q, q), (0x0104, .stackWeightSet q, q),
   (0x0201, .partDefine q, q), (0x0202, .partStart q, q), (0x0203, .partStop q, q), (0x0204, .partRangeAdd q, q),
   (0x0205, .partRangeRemove q, q), (0x0206, .partRestart q, q), (0x0207, .sliceCreate q, q), (0x0208, .sliceDestroy q, q),
   (0x0209, .sliceReset q, q), (0x020A, .sliceLogStart q, withAction q 0), (0x020A, .sliceLogSwitch q, withAction q 1),
   (0x020A, .sliceLogStop q, withAction q 2), (0x020B, .sliceStatus q, q), (0x020C, .partStatus q, q), (0x0301, .faultLogRead q, q),
   (0x0302, .historyRead q, q), (0x0303, .trioStatusRead q, q), (0x0304, .counterClear q, q), (0x0305, .hullStatusRead q, q),
   (0x0306, .classRead q, q), (0x0307, .classSet q, q)] ∨
  (op, row, qa) ∈ [(0x0401, .capSet q, q), (0x0402, .powerRead q, q), (0x0403, .sensorRead q, q), (0x0404, .trioClockLimit q, q), (0x0405, .park q, q),
   (0x0406, .unpark q, q), (0x0501, .pgOpen q, q), (0x0502, .pgClose q, q), (0x0503, .pgSet q, q), (0x0504, .chSet q, q),
   (0x0505, .ringSetup q, q), (0x0506, .ringTeardown q, q), (0x0507, .pgStatus q, q), (0x0508, .resumeQuery q, q),
   (0x0601, .engqSetup q, q), (0x0602, .engqTeardown q, q), (0x0603, .engqAbort q, q), (0x0604, .engStatus q, q), (0x0605, .engSet q, q),
   (0x0701, .pipStatusRead q, q), (0x0702, .demandScrub q, q), (0x0703, .trioDump q, q), (0x0704, .swap q, q), (0x0705, .quiesce q, q),
   (0x0706, .quiesceEnd q, q), (0x0707, .huskStatus q, q), (0x0708, .privLogRead q, q), (0x0709, .unitRejoin q, q),
   (0x0801, .keyGenerate q, q), (0x0802, .keyImport q, q), (0x0803, .keyDestroy q, q), (0x0804, .keyInfo q, q), (0x0805, .rekey q, q),
   (0x0806, .measurementRead q, q), (0x0807, .imageStatus q, q)]

/-! ## Invariants -/

/-- Main memory has its canonical form. -/
def memOk (s : State) : Bool := Memory.wf s.mem

/-- The rings are listed by rising key. -/
def ringsOk (s : State) : Bool := tsorted s.rings

/-- The mode is one that R25 names, and the boot has come no further than service. -/
def modeOk (s : State) : Bool := decide (s.mode.mode ≤ 11 ∧ s.mode.base ≤ 5)

/-- The mode word shows the mode that R26 gives for the conditions present; without standby power it shows M0. -/
def modeShown (s : State) : Bool :=
  decide (s.mode.mode = modeFor s ∨ (s.pins.standbyGood = false ∧ s.mode.mode = 0 ∧ s.mode.base = 1))

/-- What every state of a run satisfies. -/
def Sound (s : State) : Prop := memOk s = true ∧ ringsOk s = true ∧ modeOk s = true ∧ modeShown s = true

/-- A command that ends M11: only a RESET_N cycle or a loss of standby power leaves it (R488). -/
def leavesSafe (i : Instr) : Bool :=
  match i with
  | .resetNAssert | .resetNRelease _ | .standbyPowerLoss | .standbyPowerGood => true
  | _ => false

/-- A run is safe while no step stops. -/
def SafeStep (s : State) : Prop := ∃ t, step s = .next t

end Sys2Proof.Machine
end

