-- ==== Sys2Proof/WellFormed.lean ====
section
/-! DEFINITION. The commands that can stand for something the module meets: the lengths of the operands that are lists. A command is a word
of its type for every other operand (R11, R15). -/

namespace Sys2Proof

/-- No list operand is longer than an image copy (R460). -/
def listBound : Nat := 4194304

/-- A request carries at most its 48 parameter bytes (R397). -/
def requestOk (q : Request) : Bool := decide (q.params.length ≤ 48)

def nodupB {α : Type} [DecidableEq α] : List α → Bool
  | [] => true
  | x :: xs => decide (x ∉ xs) && nodupB xs

/-- Readings lie in the range of a 16-bit field, and powers in that of theirs (R483, R502). -/
def pipInputsOk (i : PipInputs) : Bool :=
  i.sensors.all (fun e => decide (-32768 ≤ e.2 ∧ e.2 ≤ 32767)) &&
  decide (i.vinA < 65536 ∧ i.vinB < 65536 ∧ i.standby < 65536 ∧ i.ivrLoss < 65536) &&
  decide (i.sensors.length ≤ 320 ∧ i.stackTab.length ≤ 8 ∧ i.progress.length ≤ 65536)

/-- A pip has one piece of each rebuild, and a scrub piece of 1,024 lines in each stack at most (R146, R204). -/
def huskInputsOk (i : HuskInputs) : Bool :=
  decide (i.rebuild.length ≤ 192 ∧ i.scrub.corrected.length ≤ 8192 ∧ i.scrub.uncorrectable.length ≤ 8192)

/-- No core, stack, die or port is named more often than it exists. -/
def bistOk (r : BistIn) : Bool :=
  decide (r.failedCores.length ≤ 208 ∧ r.failedStacks.length ≤ 8 ∧ r.failedDies.length ≤ 6 ∧ r.cxl.length ≤ 8 ∧ r.trims.length ≤ 6) &&
  decide (r.testRecord.length ≤ 65536)

/-- Lines of a directory entry. -/
def eccItems (e : EccArray) : Nat := match e with | .l2 .. => 0 | .l3 .. => 0 | .dir _ _ _ lines => lines.length | .device .. => 0

def eccOk (e : EccArray) : Bool := decide (eccItems e ≤ 64)

/-- Items of a command's list operands. -/
def Instr.items (i : Instr) : Nat :=
  match i with
  -- pins, power and time
  | .resetNRelease _ => 0
  | .resetNAssert => 0
  | .standbyPowerLoss => 0
  | .pwrOkRise => 0
  | .pwrOkFall => 0
  | .inputLoss _ _ => 0
  | .ivrCurrentLimit _ => 0
  | .thermalTrip _ => 0
  | .pipEdge inp => inp.sensors.length + inp.stackTab.length + inp.progress.length
  | .huskLoop inp => inp.rebuild.length + inp.scrub.corrected.length + inp.scrub.uncorrectable.length
  | .eventDeliveryWindow => 0
  | .commitWindow => 0
  | .pipOverrun _ => 0
  | .refclkLost => 0
  | .holdoverExit => 0
  | .aliveToggle => 0
  -- Derkin instructions
  | .mov _ _ _ => 0
  | .add _ _ => 0
  | .sub _ _ => 0
  | .and _ _ => 0
  | .or _ _ => 0
  | .xor _ _ => 0
  | .not _ _ _ => 0
  | .neg _ _ _ => 0
  | .tget _ _ => 0
  | .jr _ _ _ => 0
  | .ret _ _ => 0
  | .movi _ _ _ => 0
  | .addi _ _ => 0
  | .andi _ _ _ _ => 0
  | .ori _ _ _ _ => 0
  | .xori _ _ _ _ => 0
  | .shl _ _ => 0
  | .shr _ _ => 0
  | .sar _ _ => 0
  | .shifti _ _ _ _ _ => 0
  | .lui _ _ _ => 0
  | .mul _ _ _ _ => 0
  | .mulh _ _ _ _ => 0
  | .div _ _ _ _ => 0
  | .rem _ _ _ _ => 0
  | .addc _ _ _ _ _ => 0
  | .subc _ _ _ _ _ => 0
  | .mulw _ _ _ _ _ => 0
  | .leai _ _ _ => 0
  | .lea _ _ _ _ => 0
  | .adda _ _ _ _ _ => 0
  | .leap _ _ _ => 0
  | .leac _ _ _ => 0
  | .ldt _ _ => 0
  | .ldw _ _ _ _ => 0
  | .ldwu _ _ _ _ => 0
  | .ldh _ _ _ _ => 0
  | .ldhu _ _ _ _ => 0
  | .ldb _ _ _ _ => 0
  | .ldbu _ _ _ _ => 0
  | .ldc _ _ _ _ => 0
  | .ldtp _ _ _ => 0
  | .stt _ _ => 0
  | .stw _ _ _ _ => 0
  | .sth _ _ _ _ => 0
  | .stb _ _ _ _ => 0
  | .bcmp _ _ _ _ => 0
  | .bz _ _ _ => 0
  | .bnz _ _ _ => 0
  | .jmp _ _ => 0
  | .call _ _ => 0
  | .jalr _ _ _ _ => 0
  | .nop _ => 0
  | .dadd _ _ _ _ => 0
  | .dsub _ _ _ _ => 0
  | .dcmp _ _ _ _ => 0
  | .dchk _ _ _ => 0
  | .dtoi _ _ _ => 0
  | .itod _ _ _ => 0
  | .vdadd _ _ _ _ => 0
  | .vld _ _ _ _ => 0
  | .vst _ _ _ _ => 0
  | .vstd _ _ _ _ => 0
  | .fadd _ _ _ _ => 0
  | .fsub _ _ _ _ => 0
  | .fmul _ _ _ _ => 0
  | .fdiv _ _ _ _ => 0
  | .fsqrt _ _ _ => 0
  | .fma _ _ _ _ _ => 0
  | .fmin _ _ _ _ => 0
  | .fmax _ _ _ _ => 0
  | .fcmp _ _ _ _ => 0
  | .fcvtif _ _ _ => 0
  | .fcvtfi _ _ _ => 0
  | .fneg _ _ _ => 0
  | .fabs _ _ _ => 0
  | .fbar _ _ => 0
  | .fpTrap _ => 0
  | .amoadd _ _ _ _ _ => 0
  | .amoswap _ _ _ _ _ => 0
  | .amocas _ _ _ _ _ => 0
  | .damoadd _ _ _ _ _ => 0
  | .fence _ => 0
  | .ifence _ => 0
  | .zline _ _ _ => 0
  | .cclean _ _ _ => 0
  | .cflush _ _ _ => 0
  | .cinv _ _ _ => 0
  | .l2wb _ _ _ => 0
  | .tset _ _ _ _ => 0
  | .tchk _ _ _ => 0
  | .trapi _ _ => 0
  | .rdtime _ _ => 0
  | .break _ => 0
  | .tswitch _ _ => 0
  | .tsave _ _ _ => 0
  | .tload _ _ _ _ => 0
  | .wread _ _ => 0
  | .wwrite _ _ => 0
  | .rett _ => 0
  | .mfsr _ _ _ => 0
  | .mtsr _ _ _ => 0
  | .event _ => 0
  | .machineCheck _ => 0
  -- trios
  | .voterDissent _ _ _ => 0
  | .l1ParityError _ => 0
  | .voterNoMajority _ => 0
  | .checkstopRecoveryPip _ _ => 0
  | .checkstopResume _ => 0
  | .rebuildLimit _ _ => 0
  | .splitCoreError _ => 0
  | .splitCoreResume _ _ _ => 0
  -- coherence
  | .rdshared _ _ _ => 0
  | .rdown _ _ _ _ => 0
  | .upgrade _ _ _ => 0
  | .amoreq _ _ _ => 0
  | .wrline _ _ bytes _ _ => bytes.length
  | .wbdirty _ _ => 0
  | .wbclean _ _ => 0
  | .evictnote _ _ => 0
  | .invalack _ _ => 0
  | .dataAtHome _ _ d => d.length
  | .cmpAtHome _ _ => 0
  | .data _ _ d => d.length
  | .dataexcl _ _ d => d.length
  | .cmp _ _ => 0
  | .nack _ _ => 0
  | .fwdshared _ _ _ _ => 0
  | .fwdown _ _ _ => 0
  | .inval _ _ => 0
  | .amorsp _ _ _ _ _ => 0
  | .cacheEccError arr _ => eccItems arr
  | .isolatedResponse _ => 0
  -- memory
  | .patrolScrubStep _ corrected uncorrectable => corrected.length + uncorrectable.length
  | .hbmCorrectableError _ => 0
  | .hbmUncorrectableError _ => 0
  | .hbmCaParityError _ _ => 0
  | .hbmPhyFailure _ => 0
  | .stackSlow _ => 0
  | .stackSelfRefreshEntry _ => 0
  | .cxlLinkLoss _ _ => 0
  -- network
  | .flitCrcError _ => 0
  | .linkTrainingEnd _ _ => 0
  | .domainWake _ => 0
  | .domainWakeDone _ => 0
  | .wakeOverrun _ => 0
  | .netTimeout _ _ => 0
  | .hullPlacement _ => 0
  | .hullArrival _ _ => 0
  | .splitLinkIsolation => 0
  | .spanningPartitionEvaluate _ => 0
  | .m7Retrain _ => 0
  | .dieSelfStop _ => 0
  -- rings and exchanges
  | .sqTailWrite _ _ _ => 0
  | .cqHeadWrite _ _ _ => 0
  | .wmStatusClear _ _ _ _ => 0
  | .descriptorFetch _ _ => 0
  | .mirrorConfirm _ => 0
  | .read _ => 0
  | .write _ => 0
  | .control _ => 0
  | .sense _ => 0
  | .chain _ => 0
  | .echo _ => 0
  | .cancel _ => 0
  | .open _ => 0
  | .dataSend _ => 0
  | .exchangeLogged _ => 0
  | .recordComposed _ => 0
  | .recordPosted _ => 0
  | .noPathWaitExpiry _ => 0
  | .exchangeTimeout _ => 0
  | .abortWaitExpiry _ => 0
  | .ioDieTakeover _ => 0
  | .pairLoss _ => 0
  | .sliceResetDrainEnd _ => 0
  | .dataFrame _ _ b => b.data.length
  | .ack _ _ _ => 0
  | .nak _ _ _ _ => 0
  | .complete _ _ _ => 0
  | .resumeAnswer _ _ b => b.entries.length
  | .pathHello _ _ _ => 0
  | .pathGone _ _ _ => 0
  | .rtoExpiry _ => 0
  | .pathHelloSend _ => 0
  | .pathSilence _ => 0
  | .pcsBlockLockLoss _ => 0
  | .pcsBlockLock _ => 0
  | .rekeyIntervalExpiry _ => 0
  | .rekeyTimeout _ => 0
  | .oldKeyErase _ => 0
  -- translation
  | .invalidate _ _ _ => 0
  | .invalidateDone _ _ => 0
  -- engines
  | .eqTailWrite _ _ _ => 0
  | .engineJobFetch _ _ => 0
  | .engineJobAccept _ _ => 0
  | .engineJobStart _ => 0
  | .engineJobEnd _ => 0
  | .engineSelfCheckFail _ _ => 0
  | .stagingEnd _ => 0
  -- husks
  | .seedPlacement _ _ => 0
  | .seedRenewal => 0
  | .huskSelfCheckFail _ _ => 0
  | .seedTakeover => 0
  | .huskSelfTestEnd _ _ => 0
  | .huskRejoinCopyDone _ _ => 0
  | .mbRequest _ _ bytes _ => bytes.length
  | .mbReplyRead _ _ => 0
  | .cmdGo _ _ => 0
  | .commandPoll _ q => q.params.length
  | .unknownCommand _ q => q.params.length
  -- command packets
  | .identity q => q.params.length
  | .configRead q => q.params.length
  | .configWrite q => q.params.length
  | .stackWeightSet q => q.params.length
  | .partDefine q => q.params.length
  | .partStart q => q.params.length
  | .partStop q => q.params.length
  | .partRangeAdd q => q.params.length
  | .partRangeRemove q => q.params.length
  | .partRestart q => q.params.length
  | .sliceCreate q => q.params.length
  | .sliceDestroy q => q.params.length
  | .sliceReset q => q.params.length
  | .sliceLogStart q => q.params.length
  | .sliceLogSwitch q => q.params.length
  | .sliceLogStop q => q.params.length
  | .sliceStatus q => q.params.length
  | .partStatus q => q.params.length
  | .faultLogRead q => q.params.length
  | .historyRead q => q.params.length
  | .trioStatusRead q => q.params.length
  | .counterClear q => q.params.length
  | .hullStatusRead q => q.params.length
  | .classRead q => q.params.length
  | .classSet q => q.params.length
  | .capSet q => q.params.length
  | .powerRead q => q.params.length
  | .sensorRead q => q.params.length
  | .trioClockLimit q => q.params.length
  | .park q => q.params.length
  | .parkEntry => 0
  | .unpark q => q.params.length
  | .trioAutoPark _ => 0
  | .pgOpen q => q.params.length
  | .pgClose q => q.params.length
  | .pgSet q => q.params.length
  | .chSet q => q.params.length
  | .ringSetup q => q.params.length
  | .ringTeardown q => q.params.length
  | .pgStatus q => q.params.length
  | .resumeQuery q => q.params.length
  | .engqSetup q => q.params.length
  | .engqTeardown q => q.params.length
  | .engqAbort q => q.params.length
  | .engStatus q => q.params.length
  | .engSet q => q.params.length
  | .pipStatusRead q => q.params.length
  | .demandScrub q => q.params.length
  | .trioDump q => q.params.length
  | .swap q => q.params.length
  | .quiesce q => q.params.length
  | .quiesceEnd q => q.params.length
  | .huskStatus q => q.params.length
  | .privLogRead q => q.params.length
  | .unitRejoin q => q.params.length
  | .unitRejoinEnd _ _ => 0
  | .keyGenerate q => q.params.length
  | .keyImport q => q.params.length
  | .keyDestroy q => q.params.length
  | .keyInfo q => q.params.length
  | .rekey q => q.params.length
  | .measurementRead q => q.params.length
  | .imageStatus q => q.params.length
  -- events and mailboxes
  | .evPendingWrite _ _ _ => 0
  | .evTake _ _ => 0
  | .evBindWrite _ _ _ => 0
  | .mbxSend _ _ _ => 0
  | .mbxDbTake _ _ => 0
  | .mbxRelease _ _ _ => 0
  | .mbxReset _ _ _ => 0
  -- registers and faults
  | .registerWrite _ _ => 0
  | .faultPointReport _ _ => 0
  | .faultRecordWrite => 0
  | .collectorSelfFault _ => 0
  -- boot
  | .imageCheckEnd c0 c1 => c0.bytes.length + c1.bytes.length
  | .builtInTestEnd r => r.failedCores.length + r.failedStacks.length + r.failedDies.length + r.cxl.length + r.testRecord.length
  | .coldStartEnd => 0
  -- management buses
  | .mbBusStuck _ => 0
  | .mbBusFail _ => 0
  | .mbBusReturn _ => 0
  | .i3cAddressAssign _ _ => 0
  | .standbyPowerGood => 0
  -- responses and fetch
  | .deviceWindowResponse _ => 0
  | .illegalInstruction _ _ => 0
  | .instructionFetchFault _ _ => 0

/-- The command's operands fit what it stands for. -/
def Instr.wellFormed (i : Instr) : Bool :=
  match i with
  -- pins, power and time
  | .resetNRelease _ => true
  | .resetNAssert => true
  | .standbyPowerLoss => true
  | .pwrOkRise => true
  | .pwrOkFall => true
  | .inputLoss _ _ => true
  | .ivrCurrentLimit _ => true
  | .thermalTrip _ => true
  | .pipEdge inp => pipInputsOk inp
  | .huskLoop inp => huskInputsOk inp
  | .eventDeliveryWindow => true
  | .commitWindow => true
  | .pipOverrun _ => true
  | .refclkLost => true
  | .holdoverExit => true
  | .aliveToggle => true
  -- Derkin instructions
  | .mov _ _ _ => true
  | .add _ _ => true
  | .sub _ _ => true
  | .and _ _ => true
  | .or _ _ => true
  | .xor _ _ => true
  | .not _ _ _ => true
  | .neg _ _ _ => true
  | .tget _ _ => true
  | .jr _ _ _ => true
  | .ret _ _ => true
  | .movi _ _ _ => true
  | .addi _ _ => true
  | .andi _ _ _ _ => true
  | .ori _ _ _ _ => true
  | .xori _ _ _ _ => true
  | .shl _ _ => true
  | .shr _ _ => true
  | .sar _ _ => true
  | .shifti _ _ _ _ _ => true
  | .lui _ _ _ => true
  | .mul _ _ _ _ => true
  | .mulh _ _ _ _ => true
  | .div _ _ _ _ => true
  | .rem _ _ _ _ => true
  | .addc _ _ _ _ _ => true
  | .subc _ _ _ _ _ => true
  | .mulw _ _ _ _ _ => true
  | .leai _ _ _ => true
  | .lea _ _ _ _ => true
  | .adda _ _ _ _ _ => true
  | .leap _ _ _ => true
  | .leac _ _ _ => true
  | .ldt _ _ => true
  | .ldw _ _ _ _ => true
  | .ldwu _ _ _ _ => true
  | .ldh _ _ _ _ => true
  | .ldhu _ _ _ _ => true
  | .ldb _ _ _ _ => true
  | .ldbu _ _ _ _ => true
  | .ldc _ _ _ _ => true
  | .ldtp _ _ _ => true
  | .stt _ _ => true
  | .stw _ _ _ _ => true
  | .sth _ _ _ _ => true
  | .stb _ _ _ _ => true
  | .bcmp _ _ _ _ => true
  | .bz _ _ _ => true
  | .bnz _ _ _ => true
  | .jmp _ _ => true
  | .call _ _ => true
  | .jalr _ _ _ _ => true
  | .nop _ => true
  | .dadd _ _ _ _ => true
  | .dsub _ _ _ _ => true
  | .dcmp _ _ _ _ => true
  | .dchk _ _ _ => true
  | .dtoi _ _ _ => true
  | .itod _ _ _ => true
  | .vdadd _ _ _ _ => true
  | .vld _ _ _ _ => true
  | .vst _ _ _ _ => true
  | .vstd _ _ _ _ => true
  | .fadd _ _ _ _ => true
  | .fsub _ _ _ _ => true
  | .fmul _ _ _ _ => true
  | .fdiv _ _ _ _ => true
  | .fsqrt _ _ _ => true
  | .fma _ _ _ _ _ => true
  | .fmin _ _ _ _ => true
  | .fmax _ _ _ _ => true
  | .fcmp _ _ _ _ => true
  | .fcvtif _ _ _ => true
  | .fcvtfi _ _ _ => true
  | .fneg _ _ _ => true
  | .fabs _ _ _ => true
  | .fbar _ _ => true
  | .fpTrap _ => true
  | .amoadd _ _ _ _ _ => true
  | .amoswap _ _ _ _ _ => true
  | .amocas _ _ _ _ _ => true
  | .damoadd _ _ _ _ _ => true
  | .fence _ => true
  | .ifence _ => true
  | .zline _ _ _ => true
  | .cclean _ _ _ => true
  | .cflush _ _ _ => true
  | .cinv _ _ _ => true
  | .l2wb _ _ _ => true
  | .tset _ _ _ _ => true
  | .tchk _ _ _ => true
  | .trapi _ _ => true
  | .rdtime _ _ => true
  | .break _ => true
  | .tswitch _ _ => true
  | .tsave _ _ _ => true
  | .tload _ _ _ _ => true
  | .wread _ _ => true
  | .wwrite _ _ => true
  | .rett _ => true
  | .mfsr _ _ _ => true
  | .mtsr _ _ _ => true
  | .event _ => true
  | .machineCheck _ => true
  -- trios
  | .voterDissent _ _ _ => true
  | .l1ParityError _ => true
  | .voterNoMajority _ => true
  | .checkstopRecoveryPip _ _ => true
  | .checkstopResume _ => true
  | .rebuildLimit _ _ => true
  | .splitCoreError _ => true
  | .splitCoreResume _ _ _ => true
  -- coherence
  | .rdshared _ _ _ => true
  | .rdown _ _ _ _ => true
  | .upgrade _ _ _ => true
  | .amoreq _ _ _ => true
  | .wrline _ _ bytes _ _ => decide (bytes.length = 128)
  | .wbdirty _ _ => true
  | .wbclean _ _ => true
  | .evictnote _ _ => true
  | .invalack _ _ => true
  | .dataAtHome _ _ d => decide (d.length = 16)
  | .cmpAtHome _ _ => true
  | .data _ _ d => decide (d.length = 16)
  | .dataexcl _ _ d => decide (d.length = 16)
  | .cmp _ _ => true
  | .nack _ _ => true
  | .fwdshared _ _ _ _ => true
  | .fwdown _ _ _ => true
  | .inval _ _ => true
  | .amorsp _ _ _ _ _ => true
  | .cacheEccError arr _ => eccOk arr
  | .isolatedResponse _ => true
  -- memory
  | .patrolScrubStep _ corrected uncorrectable => nodupB corrected && nodupB uncorrectable && decide (corrected.length ≤ 7) && decide (uncorrectable.length ≤ 7)
  | .hbmCorrectableError _ => true
  | .hbmUncorrectableError _ => true
  | .hbmCaParityError _ _ => true
  | .hbmPhyFailure _ => true
  | .stackSlow _ => true
  | .stackSelfRefreshEntry _ => true
  | .cxlLinkLoss _ _ => true
  -- network
  | .flitCrcError _ => true
  | .linkTrainingEnd _ _ => true
  | .domainWake _ => true
  | .domainWakeDone _ => true
  | .wakeOverrun _ => true
  | .netTimeout _ _ => true
  | .hullPlacement _ => true
  | .hullArrival _ _ => true
  | .splitLinkIsolation => true
  | .spanningPartitionEvaluate _ => true
  | .m7Retrain _ => true
  | .dieSelfStop _ => true
  -- rings and exchanges
  | .sqTailWrite _ _ _ => true
  | .cqHeadWrite _ _ _ => true
  | .wmStatusClear _ _ _ _ => true
  | .descriptorFetch _ _ => true
  | .mirrorConfirm _ => true
  | .read _ => true
  | .write _ => true
  | .control _ => true
  | .sense _ => true
  | .chain _ => true
  | .echo _ => true
  | .cancel _ => true
  | .open _ => true
  | .dataSend _ => true
  | .exchangeLogged _ => true
  | .recordComposed _ => true
  | .recordPosted _ => true
  | .noPathWaitExpiry _ => true
  | .exchangeTimeout _ => true
  | .abortWaitExpiry _ => true
  | .ioDieTakeover _ => true
  | .pairLoss _ => true
  | .sliceResetDrainEnd _ => true
  | .dataFrame _ _ b => decide (b.data.length = b.dlen.toNat)
  | .ack _ _ _ => true
  | .nak _ _ _ _ => true
  | .complete _ _ _ => true
  | .resumeAnswer _ _ b => decide (b.entries.length ≤ 255)
  | .pathHello _ _ _ => true
  | .pathGone _ _ _ => true
  | .rtoExpiry _ => true
  | .pathHelloSend _ => true
  | .pathSilence _ => true
  | .pcsBlockLockLoss _ => true
  | .pcsBlockLock _ => true
  | .rekeyIntervalExpiry _ => true
  | .rekeyTimeout _ => true
  | .oldKeyErase _ => true
  -- translation
  | .invalidate _ _ _ => true
  | .invalidateDone _ _ => true
  -- engines
  | .eqTailWrite _ _ _ => true
  | .engineJobFetch _ _ => true
  | .engineJobAccept _ _ => true
  | .engineJobStart _ => true
  | .engineJobEnd _ => true
  | .engineSelfCheckFail _ _ => true
  | .stagingEnd _ => true
  -- husks
  | .seedPlacement _ _ => true
  | .seedRenewal => true
  | .huskSelfCheckFail _ _ => true
  | .seedTakeover => true
  | .huskSelfTestEnd _ _ => true
  | .huskRejoinCopyDone _ _ => true
  | .mbRequest _ _ bytes _ => decide (bytes.length ≤ 255)
  | .mbReplyRead _ _ => true
  | .cmdGo _ _ => true
  | .commandPoll _ q => requestOk q
  | .unknownCommand _ q => requestOk q
  -- command packets
  | .identity q => requestOk q
  | .configRead q => requestOk q
  | .configWrite q => requestOk q
  | .stackWeightSet q => requestOk q
  | .partDefine q => requestOk q
  | .partStart q => requestOk q
  | .partStop q => requestOk q
  | .partRangeAdd q => requestOk q
  | .partRangeRemove q => requestOk q
  | .partRestart q => requestOk q
  | .sliceCreate q => requestOk q
  | .sliceDestroy q => requestOk q
  | .sliceReset q => requestOk q
  | .sliceLogStart q => requestOk q
  | .sliceLogSwitch q => requestOk q
  | .sliceLogStop q => requestOk q
  | .sliceStatus q => requestOk q
  | .partStatus q => requestOk q
  | .faultLogRead q => requestOk q
  | .historyRead q => requestOk q
  | .trioStatusRead q => requestOk q
  | .counterClear q => requestOk q
  | .hullStatusRead q => requestOk q
  | .classRead q => requestOk q
  | .classSet q => requestOk q
  | .capSet q => requestOk q
  | .powerRead q => requestOk q
  | .sensorRead q => requestOk q
  | .trioClockLimit q => requestOk q
  | .park q => requestOk q
  | .parkEntry => true
  | .unpark q => requestOk q
  | .trioAutoPark _ => true
  | .pgOpen q => requestOk q
  | .pgClose q => requestOk q
  | .pgSet q => requestOk q
  | .chSet q => requestOk q
  | .ringSetup q => requestOk q
  | .ringTeardown q => requestOk q
  | .pgStatus q => requestOk q
  | .resumeQuery q => requestOk q
  | .engqSetup q => requestOk q
  | .engqTeardown q => requestOk q
  | .engqAbort q => requestOk q
  | .engStatus q => requestOk q
  | .engSet q => requestOk q
  | .pipStatusRead q => requestOk q
  | .demandScrub q => requestOk q
  | .trioDump q => requestOk q
  | .swap q => requestOk q
  | .quiesce q => requestOk q
  | .quiesceEnd q => requestOk q
  | .huskStatus q => requestOk q
  | .privLogRead q => requestOk q
  | .unitRejoin q => requestOk q
  | .unitRejoinEnd _ _ => true
  | .keyGenerate q => requestOk q
  | .keyImport q => requestOk q
  | .keyDestroy q => requestOk q
  | .keyInfo q => requestOk q
  | .rekey q => requestOk q
  | .measurementRead q => requestOk q
  | .imageStatus q => requestOk q
  -- events and mailboxes
  | .evPendingWrite _ _ _ => true
  | .evTake _ _ => true
  | .evBindWrite _ _ _ => true
  | .mbxSend _ _ _ => true
  | .mbxDbTake _ _ => true
  | .mbxRelease _ _ _ => true
  | .mbxReset _ _ _ => true
  -- registers and faults
  | .registerWrite _ _ => true
  | .faultPointReport _ _ => true
  | .faultRecordWrite => true
  | .collectorSelfFault _ => true
  -- boot
  | .imageCheckEnd c0 c1 => decide (c0.bytes.length ≤ listBound) && decide (c1.bytes.length ≤ listBound)
  | .builtInTestEnd r => bistOk r
  | .coldStartEnd => true
  -- management buses
  | .mbBusStuck _ => true
  | .mbBusFail _ => true
  | .mbBusReturn _ => true
  | .i3cAddressAssign _ _ => true
  | .standbyPowerGood => true
  -- responses and fetch
  | .deviceWindowResponse _ => true
  | .illegalInstruction _ _ => true
  | .instructionFetchFault _ _ => true

end Sys2Proof
end

