-- ==== Sys2Proof/Certificates/Slice0/Obligations.lean ====
section
/-! DEFINITION. The statements about the model, each taken from the numbered rules of the spec that its docstring names. -/

open Sys2Proof Sys2Proof.Machine

/-! ## The step and integer instructions -/

/-- Every command c and state s: a step of s with c at the front of its queue is exec c on s with the queue's rest. On an empty queue a
grain passes, the model's own choice (LOG 13). -/
def Obligations.StepRunsFrontCommand : Prop :=
  (∀ (c : Instr) (rest : List Instr) (s : State), step { s with pending := c :: rest } = exec c { s with pending := rest }) ∧
  (∀ s : State, s.pending = [] → step s = .next (passGrain s))

/-- The state right after reset: RESET_N low with standby power, mode 1, pip 0, nothing queued, no register written, no fault recorded,
and memory in canonical form (R34, R478; the values the spec does not give are LOG 2 and LOG 4). -/
def Obligations.ResetState : Prop :=
  let s := State.reset
  s.pins.resetN = false ∧ s.pins.standbyGood = true ∧ s.mode.mode = 1 ∧ s.time.pip = 0 ∧ s.time.grain = 0 ∧ s.pending = [] ∧
  s.pins.alive = false ∧ s.pins.pwrOk = false ∧ s.pins.thermtripN = true ∧ s.faults.log = [] ∧ s.faults.head = 0#32 ∧
  s.boot.locked = false ∧ s.boot.keys = [] ∧ s.husks.longOps = [] ∧ s.exchs = [] ∧ s.jobs = [] ∧ Sound s ∧
  (∀ c, runs s c = false)

/-- A fetch at an odd address raises ALIGN with the address; its second halfword is only looked at when the first was fetched (R87, R88).
An instruction on a logical core that does not run changes nothing (the model's reading of a command whose occasion cannot arise, LOG 15):
one instruction of each way of issue. -/
def Obligations.FetchFaults : Prop :=
  (∀ (s : State) (c : LC), runs s c = true →
     (∀ r, fetchTrap s c (pcOf s c) = some r → exec (.instructionFetchFault c false) s = .next (raiseTrap s c .short r)) ∧
     (∀ r, fetchTrap s c (pcOf s c) = none → fetchTrap s c (pcOf s c + 2#64) = some r →
       exec (.instructionFetchFault c true) s = .next (raiseTrap s c .long r)) ∧
     ((pcOf s c).getLsbD 0 = true → ∃ r, fetchTrap s c (pcOf s c) = some r ∧ r.no = Trap.align ∧ r.info = TWord.mkAddr (pcOf s c))) ∧
  (∀ (s : State) (c : LC), runs s c = false →
     ∀ (f : RForm) (m : MForm) (w : SwForm) (rd ra rb rc : Reg) (k : BCond) (d : BitVec 11) (v : VReg) (n : Byte),
       exec (.add c f) s = .next s ∧ exec (.bcmp c ra k d) s = .next s ∧ exec (.ldt c m) s = .next s ∧
       exec (.stt c m) s = .next s ∧ exec (.fma c rd ra rb rc) s = .next s ∧ exec (.vdadd c v v v) s = .next s ∧
       exec (.trapi c n) s = .next s ∧ exec (.tswitch c w) s = .next s ∧ exec (.tsave c rd rb) s = .next s ∧
       exec (.tload c rd ra rb) s = .next s ∧ exec (.wread c rd) s = .next s ∧ exec (.rett c) s = .next s ∧
       exec (.mfsr c rd ra) s = .next s ∧ exec (.event c) s = .next s ∧ exec (.machineCheck c) s = .next s)

/-- Class A: the operands are read as signed, the result is exact and INT, and a result outside the INT range raises INT_OVF and writes no
register (R91); MUL of the full product and NEG (R92). A write of G0 is discarded by `gwrite` and the program counter moves on all the
same. DIV truncates toward zero, REM has the sign of the dividend, a zero divisor raises DIV_ZERO, DIV of the most negative number by -1
raises INT_OVF and REM of them gives INT 0 (R93). -/
def Obligations.IntegerResults : Prop :=
  (∀ (s : State) (c : LC), ready s c = true →
     (∀ f : RForm, let (rd, ra, rb, z) := rformRegs f
       tagIn s c ra accA = true → tagIn s c rb accA = true →
         exec (.add c f) s = .next (intOutcome s c z rd (regInt s c ra + regInt s c rb)) ∧
         exec (.sub c f) s = .next (intOutcome s c z rd (regInt s c ra - regInt s c rb))) ∧
     (∀ rd ra rb : Reg, tagIn s c ra accA = true → tagIn s c rb accA = true →
         exec (.mul c rd ra rb) s = .next (intOutcome s c .long rd (regInt s c ra * regInt s c rb)) ∧
         exec (.mulh c rd ra rb) s = .next (passed s c .long (gwrite (curSet s c) rd
           (TWord.mkInt (BitVec.ofInt 64 (regInt s c ra * regInt s c rb / 2 ^ 64)))))) ∧
     (∀ rd ra : Reg, tagIn s c ra accA = true →
         exec (.neg c rd ra) s = .next (intOutcome s c .long rd (-(regInt s c ra)))) ∧
     (∀ (rd : Reg) (imm : BitVec 7), tagIn s c rd accA = true →
         exec (.addi c (.short rd imm)) s = .next (intOutcome s c .short rd (regInt s c rd + imm.toInt))) ∧
     (∀ (rd ra : Reg) (imm : BitVec 14), tagIn s c ra accA = true →
         exec (.addi c (.long rd ra imm)) s = .next (intOutcome s c .long rd (regInt s c ra + imm.toInt)))) ∧
  (∀ (s : State) (c : LC) (rd ra rb : Reg), ready s c = true → tagIn s c ra accA = true → tagIn s c rb accA = true →
     (regInt s c rb = 0 →
       exec (.div c rd ra rb) s = .next (raiseTrap s c .long { no := Trap.divZero }) ∧
       exec (.rem c rd ra rb) s = .next (raiseTrap s c .long { no := Trap.divZero })) ∧
     (regInt s c rb ≠ 0 →
       exec (.div c rd ra rb) s = .next (intOutcome s c .long rd ((regInt s c ra).tdiv (regInt s c rb))) ∧
       exec (.rem c rd ra rb) s = .next (passed s c .long (gwrite (curSet s c) rd
         (TWord.mkInt (BitVec.ofInt 64 ((regInt s c ra).tmod (regInt s c rb))))))) ∧
     (regInt s c ra = -(2 ^ 63) → regInt s c rb = -1 →
       exec (.div c rd ra rb) s = .next (raiseTrap s c .long { no := Trap.intOvf }) ∧
       exec (.rem c rd ra rb) s = .next (passed s c .long (gwrite (curSet s c) rd (TWord.mkInt 0#64)))))

/-- Class L: logic and shifts, with the tag of R61 and counts below 64 (R68, R85). ADDC, SUBC and MULW read their operands as unsigned and
never trap on a result; carry and borrow come from bit 0 of rc and go to rc as RAW 0 or 1, written last; through G0 the carry in is 0 and
the carry out is lost (R94). MULW gives the high word in rd and the low word in rc. -/
def Obligations.LogicAndShiftResults : Prop :=
  (∀ (s : State) (c : LC), ready s c = true →
     (∀ f : RForm, let (rd, ra, rb, z) := rformRegs f
       tagIn s c ra accL = true → tagIn s c rb accL = true →
         let out := fun d => Host.Outcome.next (passed s c z (gwrite (curSet s c) rd ⟨d, logicTag (regTag s c ra) (regTag s c rb)⟩))
         exec (.and c f) s = out (regData s c ra &&& regData s c rb) ∧
         exec (.or c f) s = out (regData s c ra ||| regData s c rb) ∧
         exec (.xor c f) s = out (regData s c ra ^^^ regData s c rb)) ∧
     (∀ (rd ra : Reg) (imm : BitVec 14) (k : BitVec 6), tagIn s c ra accL = true →
         let out := fun d => Host.Outcome.next (passed s c .long (gwrite (curSet s c) rd ⟨d, logicTag (regTag s c ra) Tag.raw⟩))
         exec (.not c rd ra) s = out (~~~(regData s c ra)) ∧
         exec (.andi c rd ra imm) s = out (regData s c ra &&& imm.signExtend 64) ∧
         exec (.ori c rd ra imm) s = out (regData s c ra ||| imm.signExtend 64) ∧
         exec (.xori c rd ra imm) s = out (regData s c ra ^^^ imm.signExtend 64) ∧
         exec (.shifti c rd ra .shl k) s = out (regData s c ra <<< k.toNat) ∧
         exec (.shifti c rd ra .shr k) s = out (regData s c ra >>> k.toNat) ∧
         exec (.shifti c rd ra .sar k) s = out ((regData s c ra).sshiftRight k.toNat)) ∧
     (∀ (rd : Reg) (n : BitVec 5), tagIn s c rd accL = true →
         let out := fun d => Host.Outcome.next (passed s c .short (gwrite (curSet s c) rd ⟨d, logicTag (regTag s c rd) Tag.raw⟩))
         exec (.shl c (.short rd n)) s = out (regData s c rd <<< n.toNat) ∧
         exec (.shr c (.short rd n)) s = out (regData s c rd >>> n.toNat) ∧
         exec (.sar c (.short rd n)) s = out ((regData s c rd).sshiftRight n.toNat)) ∧
     (∀ rd ra rb : Reg, tagIn s c ra accL = true → tagIn s c rb accL = true →
         let n := (regData s c rb).toNat % 64
         let out := fun d => Host.Outcome.next (passed s c .long (gwrite (curSet s c) rd ⟨d, logicTag (regTag s c ra) (regTag s c rb)⟩))
         exec (.shl c (.long rd ra rb)) s = out (regData s c ra <<< n) ∧
         exec (.shr c (.long rd ra rb)) s = out (regData s c ra >>> n) ∧
         exec (.sar c (.long rd ra rb)) s = out ((regData s c ra).sshiftRight n))) ∧
  (∀ (s : State) (c : LC) (rd ra rb rc : Reg), ready s c = true → tagIn s c ra accA = true → tagIn s c rb accA = true →
     (tagIn s c rc accA = true →
       (let sum := (regData s c ra).toNat + (regData s c rb).toNat + (regData s c rc).toNat % 2
        exec (.addc c rd ra rb rc) s = .next (passed s c .long (gwrite (gwrite (curSet s c) rd
          (TWord.mkRaw (BitVec.ofNat 64 sum))) rc (TWord.mkRaw (BitVec.ofNat 64 (sum / 2 ^ 64)))))) ∧
       (let lent := (regData s c rb).toNat + (regData s c rc).toNat % 2
        exec (.subc c rd ra rb rc) s = .next (passed s c .long (gwrite (gwrite (curSet s c) rd
          (TWord.mkRaw (regData s c ra - regData s c rb - BitVec.ofNat 64 ((regData s c rc).toNat % 2)))) rc
          (TWord.mkRaw (if (regData s c ra).toNat < lent then 1#64 else 0#64)))))) ∧
     (rd ≠ rc →
       (let p := (regData s c ra).toNat * (regData s c rb).toNat
        exec (.mulw c rd ra rb rc) s = .next (passed s c .long (gwrite (gwrite (curSet s c) rd
          (TWord.mkRaw (BitVec.ofNat 64 (p / 2 ^ 64)))) rc (TWord.mkRaw (BitVec.ofNat 64 p)))))) ∧
     (rd = rc → exec (.mulw c rd ra rb rc) s = .next (raiseTrap s c .long { no := Trap.illegalOp })))

/-- Moves, constants, addresses, tags, the time of the core's own half (R35) and NOP (R57, R58, R59, R61, R85). TSET raises ILLEGAL_OP for
a reserved tag and, at level U, PRIV for ADDR and CODE. An operand of a tag that its class does not accept raises TAG_MISMATCH with the
register and the tag found, and the subcause 1, or 2 for VOID, or 3 for a reserved tag; a base that is no ADDR gives 5 and a jump target
that is no CODE gives 6 (R61, R62, R90). -/
def Obligations.MoveAddressTagResults : Prop :=
  (∀ (s : State) (c : LC), ready s c = true →
     let t := curSet s c
     let put := fun (z : Size) (rd : Nat) (w : TWord) => Host.Outcome.next (passed s c z (gwrite t rd w))
     (∀ rd rs : Reg, tagIn s c rs accAny = true → exec (.mov c rd rs) s = put .short rd (gread t rs)) ∧
     (∀ (rd : Reg) (i : BitVec 7), exec (.movi c rd i) s = put .short rd (TWord.mkInt (i.signExtend 64))) ∧
     (∀ (rd : Reg) (i : BitVec 19),
       exec (.lui c rd i) s = put .long rd (TWord.mkInt (i.signExtend 64 <<< 14)) ∧
       exec (.leap c rd i) s = put .long rd (TWord.mkAddr (t.pc.data + i.signExtend 64 * 2#64)) ∧
       exec (.leac c rd i) s = put .long rd (TWord.mkCode (t.pc.data + i.signExtend 64 * 2#64))) ∧
     (∀ (rd : Reg) (i : BitVec 7), regTag s c rd = Tag.addr →
       exec (.leai c rd i) s = put .short rd (TWord.mkAddr (regData s c rd + i.signExtend 64 * 8#64))) ∧
     (∀ (rd ra : Reg) (i : BitVec 14), regTag s c ra = Tag.addr →
       exec (.lea c rd ra i) s = put .long rd (TWord.mkAddr (regData s c ra + i.signExtend 64))) ∧
     (∀ (rd ra rb : Reg) (sh : BitVec 2), regTag s c ra = Tag.addr → tagIn s c rb accA = true →
       exec (.adda c rd ra rb sh) s = put .long rd (TWord.mkAddr (regData s c ra + (regData s c rb <<< sh.toNat)))) ∧
     (∀ rd ra : Reg,
       exec (.tget c (.short rd ra)) s = put .short rd (TWord.mkInt ((regTag s c ra).setWidth 64)) ∧
       exec (.tget c (.long rd ra)) s = put .long rd (TWord.mkInt ((regTag s c ra).setWidth 64))) ∧
     (∀ (rd ra : Reg) (g : Tag), isReservedTag g = true →
       exec (.tset c rd ra g) s = .next (raiseTrap s c .long { no := Trap.illegalOp })) ∧
     (∀ (rd ra : Reg) (g : Tag), g = Tag.addr ∨ g = Tag.code → t.tstat.priv = false →
       exec (.tset c rd ra g) s = .next (raiseTrap s c .long { no := Trap.priv })) ∧
     (∀ (rd ra : Reg) (g : Tag), isReservedTag g = false → (g = Tag.addr ∨ g = Tag.code → t.tstat.priv = true) →
       tagIn s c ra accAny = true → exec (.tset c rd ra g) s = put .long rd ⟨regData s c ra, g⟩) ∧
     (∀ (ra : Reg) (m : Half), m.getLsbD (regTag s c ra).toNat = true → exec (.tchk c ra m) s = .next (passed s c .long t)) ∧
     (∀ (ra : Reg) (m : Half), m.getLsbD (regTag s c ra).toNat = false →
       exec (.tchk c ra m) s = .next (raiseTrap s c .long
         { no := Trap.tagMismatch, sub := 1, opreg := ra, tagf := regTag s c ra })) ∧
     (∀ rd : Reg, exec (.rdtime c rd) s = put .long rd (TWord.mkInt (stampAt s (lcoreHalf c)))) ∧
     exec (.nop c) s = .next (passed s c .short t)) ∧
  (∀ (s : State) (c : LC), ready s c = true → ∀ rd ra rb : Reg,
     let trap := fun (z : Size) (sub : Nat) => Host.Outcome.next (raiseTrap s c z
       { no := Trap.tagMismatch, sub := sub, opreg := ra, tagf := regTag s c ra })
     let sub := if regTag s c ra = Tag.void then 2 else if isReservedTag (regTag s c ra) = true then 3 else 1
     (tagIn s c ra accA = false →
       exec (.add c (.long rd ra rb)) s = trap .long sub ∧ exec (.div c rd ra rb) s = trap .long sub ∧
       exec (.neg c rd ra) s = trap .long sub ∧ exec (.itod c rd ra) s = trap .long sub ∧
       exec (.fcvtif c rd ra) s = trap .long sub) ∧
     (tagIn s c ra accL = false →
       exec (.xor c (.long rd ra rb)) s = trap .long sub ∧ exec (.shl c (.long rd ra rb)) s = trap .long sub) ∧
     (regTag s c ra ≠ Tag.dec → exec (.dadd c rd ra rb) s = trap .long sub ∧ exec (.dtoi c rd ra) s = trap .long sub) ∧
     (regTag s c ra ≠ Tag.bfp → exec (.fadd c rd ra rb) s = trap .long sub ∧ exec (.fsqrt c rd ra) s = trap .long sub) ∧
     (tagIn s c ra accAny = false → exec (.mov c rd ra) s = trap .short sub) ∧
     (regTag s c ra ≠ Tag.addr → ∀ i : BitVec 14, exec (.lea c rd ra i) s = trap .long 5) ∧
     (regTag s c ra ≠ Tag.code → exec (.jr c rd ra) s = trap .short 6 ∧ ∀ i : BitVec 14, exec (.jalr c rd ra i) s = trap .long 6))

/-- Branches and jumps: displacements in halfwords from the branch's own address, links tagged CODE, and ALIGN with the target in TINFO
for an odd target (R56, R64, R65, R68, R87). The comparisons of BCMP on each condition, with the pairs of tags that R64 admits. -/
def Obligations.BranchAndJumpResults : Prop :=
  (∀ (s : State) (c : LC), ready s c = true →
     let t := curSet s c
     let pc := t.pc.data
     let go := fun (u : TaskSet) (a : W64) =>
       if a.getLsbD 0 = true then Host.Outcome.next (raiseTrap s c .long { no := Trap.align, info := TWord.mkAddr a })
       else .next (retired s c (setPc u a))
     (∀ (rs : Reg) (d : BitVec 7), tagIn s c rs accEq = true →
       exec (.bz c rs d) s = .next (retired s c (setPc t (if regData s c rs = 0#64 then pc + d.signExtend 64 * 2#64 else pc + 2#64))) ∧
       exec (.bnz c rs d) s = .next (retired s c (setPc t (if regData s c rs = 0#64 then pc + 2#64 else pc + d.signExtend 64 * 2#64)))) ∧
     (∀ (ra : Reg) (k : BCond) (d : BitVec 11) (b : Bool), condHolds t ra k = .ok b →
       exec (.bcmp c ra k d) s = .next (retired s c (setPc t (if b then pc + d.signExtend 64 * 2#64 else pc + 4#64)))) ∧
     (∀ d : BitVec 24,
       exec (.jmp c d) s = go t (pc + d.signExtend 64 * 2#64) ∧
       exec (.call c d) s = go (gwrite t 1 (TWord.mkCode (pc + 4#64))) (pc + d.signExtend 64 * 2#64)) ∧
     (∀ (rd ra : Reg) (i : BitVec 14), regTag s c ra = Tag.code →
       exec (.jalr c rd ra i) s = go (gwrite t rd (TWord.mkCode (pc + 4#64))) (regData s c ra + i.signExtend 64 * 2#64)) ∧
     (∀ rd rs : Reg, regTag s c rs = Tag.code → (regData s c rs).getLsbD 0 = false →
       exec (.jr c rd rs) s = .next (retired s c (setPc (gwrite t rd (TWord.mkCode (pc + 2#64))) (regData s c rs))) ∧
       exec (.ret c rs) s = .next (retired s c (setPc t (regData s c rs)))) ∧
     (∀ rd rs : Reg, regTag s c rs = Tag.code → (regData s c rs).getLsbD 0 = true →
       exec (.jr c rd rs) s = .next (raiseTrap s c .short { no := Trap.align, info := TWord.mkAddr (regData s c rs) }) ∧
       exec (.ret c rs) s = .next (raiseTrap s c .short { no := Trap.align, info := TWord.mkAddr (regData s c rs) }))) ∧
  (∀ (t : TaskSet) (ra rb : Reg),
     let a := gread t ra
     let b := gread t rb
     (accEq a.tag = true → accEq b.tag = true → a.tag = b.tag ∨ isRawUser a.tag = true ∨ isRawUser b.tag = true →
       condHolds t ra (.eq rb) = .ok (decide (a.data = b.data)) ∧ condHolds t ra (.ne rb) = .ok (decide (a.data ≠ b.data))) ∧
     (accEq a.tag = true → accEq b.tag = true → a.tag ≠ b.tag → isRawUser a.tag = false → isRawUser b.tag = false →
       condHolds t ra (.eq rb) = .error { no := Trap.tagMismatch, sub := 1, opreg := rb, tagf := b.tag }) ∧
     (accA a.tag = true → accA b.tag = true →
       condHolds t ra (.lt rb) = .ok (decide (a.data.toInt < b.data.toInt)) ∧
       condHolds t ra (.ge rb) = .ok (decide (b.data.toInt ≤ a.data.toInt))) ∧
     (accEq a.tag = true → accEq b.tag = true →
       (accL a.tag = true ∧ accL b.tag = true) ∨ (a.tag = b.tag ∧ (a.tag = Tag.addr ∨ a.tag = Tag.code)) →
       condHolds t ra (.ltu rb) = .ok (decide (a.data.toNat < b.data.toNat)) ∧
       condHolds t ra (.geu rb) = .ok (decide (b.data.toNat ≤ a.data.toNat))) ∧
     (∀ g : Tag, condHolds t ra (.tageq g) = .ok (decide (a.tag = g)) ∧ condHolds t ra (.tagne g) = .ok (decide (a.tag ≠ g))))

/-! ## Decimal, floating-point and trap instructions, task sets -/

/-- Class D on operands whose sixteen nibbles are valid: exact results, the sign of R96, DEC_OVF above 15 digits with no register written,
the comparison of DCMP, and the conversions (R95, R96, R97, R98). A DEC operand with an invalid nibble raises DEC_DATA before any register
is written, with the source in SUBCAUSE [7:6] and the lowest invalid nibble in [3:0] (R95, R99). The decimal words: the value written for
a value reads back as that value, its nibbles are valid, and its sign is 0xC or 0xD, 0xD only for a negative value (R95, R96, R97). VDADD
adds lane by lane, sets VUSED and writes the destination only when no lane traps (R56, R100). -/
def Obligations.DecimalResults : Prop :=
  (∀ (s : State) (c : LC) (rd ra rb : Reg), ready s c = true →
     (regTag s c ra = Tag.dec → decBad (regData s c ra) = none →
       let x := decVal (regData s c ra)
       exec (.dchk c rd ra) s = .next (passed s c .long (gwrite (curSet s c) rd (TWord.mkDec (decOf x)))) ∧
       exec (.dtoi c rd ra) s = .next (passed s c .long (gwrite (curSet s c) rd (TWord.mkInt (BitVec.ofInt 64 x)))) ∧
       (regTag s c rb = Tag.dec → decBad (regData s c rb) = none →
         let y := decVal (regData s c rb)
         exec (.dadd c rd ra rb) s = .next (decOutcome s c .long rd (x + y)) ∧
         exec (.dsub c rd ra rb) s = .next (decOutcome s c .long rd (x - y)) ∧
         exec (.dcmp c rd ra rb) s = .next (passed s c .long (gwrite (curSet s c) rd
           (TWord.mkInt (if x < y then BitVec.ofInt 64 (-1) else if x = y then 0#64 else 1#64)))))) ∧
     (tagIn s c ra accA = true → exec (.itod c rd ra) s = .next (decOutcome s c .long rd (regInt s c ra)))) ∧
  (∀ (s : State) (c : LC) (rd ra rb : Reg) (n : Nat), ready s c = true → regTag s c ra = Tag.dec →
     (decBad (regData s c ra) = some n →
       exec (.dchk c rd ra) s = .next (raiseTrap s c .long { no := Trap.decData, sub := n }) ∧
       exec (.dtoi c rd ra) s = .next (raiseTrap s c .long { no := Trap.decData, sub := n }) ∧
       (regTag s c rb = Tag.dec →
         exec (.dadd c rd ra rb) s = .next (raiseTrap s c .long { no := Trap.decData, sub := n }) ∧
         exec (.dcmp c rd ra rb) s = .next (raiseTrap s c .long { no := Trap.decData, sub := n }))) ∧
     (decBad (regData s c ra) = none → regTag s c rb = Tag.dec → decBad (regData s c rb) = some n →
       exec (.dadd c rd ra rb) s = .next (raiseTrap s c .long { no := Trap.decData, sub := 64 + n }) ∧
       exec (.dsub c rd ra rb) s = .next (raiseTrap s c .long { no := Trap.decData, sub := 64 + n }))) ∧
  (∀ v : Int, v.natAbs ≤ 999999999999999 →
     decVal (decOf v) = v ∧ decBad (decOf v) = none ∧ decNibble (decOf v) 0 = if v < 0 then 0xD else 0xC) ∧
  (∀ (s : State) (c : LC) (vd va vb : VReg), ready s c = true →
     let t := curSet s c
     let x := vread t va
     let y := vread t vb
     let sum := fun i : Nat => decVal (lane x i) + decVal (lane y i)
     ((∀ i < 4, decBad (lane x i) = none ∧ decBad (lane y i) = none) → (∀ i < 4, (sum i).natAbs ≤ 999999999999999) →
       exec (.vdadd c vd va vb) s = .next (passed s c .long
         (vwrite (setVused t) vd (ofLanes [decOf (sum 0), decOf (sum 1), decOf (sum 2), decOf (sum 3)])))) ∧
     ((∀ i < 4, decBad (lane x i) = none ∧ decBad (lane y i) = none) → ∀ k < 4, 999999999999999 < (sum k).natAbs →
       (∀ i < k, (sum i).natAbs ≤ 999999999999999) →
       exec (.vdadd c vd va vb) s = .next (raiseTrap s c .long { no := Trap.decOvf, sub := 16 * k })))

/-- Every floating-point instruction writes its result, sets VUSED, ORs its exceptions into FLAGS and makes the enabled ones pending (R56,
R101, R105); FNEG and FABS change only the sign bit and signal nothing (R109). NaN results: in mode 1 always the canonical NaN, in mode 0
the first NaN operand with bit 51 set, or the canonical NaN when an operation without a NaN operand is invalid; a signalling NaN operand
signals invalid in both modes, a quiet one does not (R109, R110, R111). FMIN and FMAX take -0 as less than +0, and FCMP finds them equal
(R102). -/
def Obligations.FloatResults : Prop :=
  (∀ (s : State) (c : LC) (rd ra rb rc : Reg), ready s c = true →
     let t := curSet s c
     let m := t.tstat.nanmode
     let r := rmOf t.fstat.rm
     let a := regData s c ra
     let b := regData s c rb
     let fp := fun (p : W64 × FFlags) => Host.Outcome.next (passed s c .long (fpResult t rd (TWord.mkBfp p.1) p.2))
     let int := fun (p : Int × FFlags) =>
       Host.Outcome.next (passed s c .long (fpResult t rd (TWord.mkInt (BitVec.ofInt 64 p.1)) p.2))
     (regTag s c ra = Tag.bfp →
       exec (.fsqrt c rd ra) s = fp (fsqrt r m a) ∧ exec (.fcvtfi c rd ra) s = int (fcvtfi a) ∧
       exec (.fneg c rd ra) s = fp (a ^^^ 0x8000000000000000#64, 0#5) ∧
       exec (.fabs c rd ra) s = fp (a &&& 0x7FFFFFFFFFFFFFFF#64, 0#5)) ∧
     (regTag s c ra = Tag.bfp → regTag s c rb = Tag.bfp →
       exec (.fadd c rd ra rb) s = fp (fadd r m a b) ∧ exec (.fsub c rd ra rb) s = fp (fsub r m a b) ∧
       exec (.fmul c rd ra rb) s = fp (fmul r m a b) ∧ exec (.fdiv c rd ra rb) s = fp (fdiv r m a b) ∧
       exec (.fmin c rd ra rb) s = fp (fmin m a b) ∧ exec (.fmax c rd ra rb) s = fp (fmax m a b) ∧
       exec (.fcmp c rd ra rb) s = int (fcmp a b) ∧
       (regTag s c rc = Tag.bfp → exec (.fma c rd ra rb rc) s = fp (fma r m a b (regData s c rc)))) ∧
     (tagIn s c ra accA = true → exec (.fcvtif c rd ra) s = fp (fcvtif r a))) ∧
  (∀ (r : Rm) (m : Bool) (a b : W64),
     (isNan a = true ∨ isNan b = true →
       let x := if m then 0x7FF8000000000000#64 else (if isNan a = true then a else b) ||| 0x0008000000000000#64
       let fl := if isSnan a = true ∨ isSnan b = true then Fl.invalid else 0#5
       fadd r m a b = (x, fl) ∧ fsub r m a b = (x, fl) ∧ fmul r m a b = (x, fl) ∧ fdiv r m a b = (x, fl) ∧
       fmin m a b = (x, fl) ∧ fmax m a b = (x, fl) ∧ (fcmp a b).1 = 2 ∧ (fcmp a b).2 = fl) ∧
     (isNan a = true →
       fsqrt r m a = ((if m then 0x7FF8000000000000#64 else a ||| 0x0008000000000000#64),
         if isSnan a = true then Fl.invalid else 0#5) ∧
       fcvtfi a = (-(2 ^ 63), Fl.invalid)) ∧
     (isInf a = true → isInf b = true → fSign a ≠ fSign b → fadd r m a b = (0x7FF8000000000000#64, Fl.invalid)) ∧
     (isZero a = true → isInf b = true → fmul r m a b = (0x7FF8000000000000#64, Fl.invalid)) ∧
     (isZero a = true → isZero b = true → fdiv r m a b = (0x7FF8000000000000#64, Fl.invalid)) ∧
     (isInf a = true → fcvtfi a = ((if fSign a then -(2 ^ 63) else 2 ^ 63 - 1), Fl.invalid))) ∧
  (∀ (m : Bool) (a b : W64), isZero a = true → isZero b = true → fSign a = true → fSign b = false →
     fmin m a b = (a, 0#5) ∧ fmin m b a = (a, 0#5) ∧ fmax m a b = (b, 0#5) ∧ fmax m b a = (b, 0#5) ∧
     fcmp a b = (0, 0#5) ∧ fcmp b a = (0, 0#5))

/-- A pending floating-point trap is taken at FBAR, TSWITCH, TSAVE, and MFSR or MTSR of FSTAT, and at the retirement of the 64th
instruction after the one that wrote FEPC; TEPC holds the instruction at that point, which has not executed, SUBCAUSE receives PEND, PEND
is cleared, and FLAGS and FEPC stay (R106, R107, R118). What a signalled exception writes: FLAGS always; PEND for the enabled causes;
FEPC, tagged RAW, only by the first that becomes pending while PEND is zero (R105). FBAR with nothing pending falls through (R107). -/
def Obligations.FloatTrapPoints : Prop :=
  (∀ (s : State) (c : LC), let t := curSet s c
     runs s c = true → t.fstat.pend ≠ 0#5 → tvecOk t = true →
     let entered := fun (o : Res) (z : Size) => ∃ u, o = .next u ∧
       (let v := curSet u c
        v.tepc = TWord.mkCode t.pc.data ∧ v.pc = TWord.mkCode (t.tvec.data + 768#64) ∧ v.fstat = { t.fstat with pend := 0#5 } ∧
        v.fepc = t.fepc ∧ v.g = t.g ∧ v.v = t.v ∧ v.tcause.toNat % 2 ^ 16 = t.fstat.pend.toNat * 256 + 12 ∧
        v.tcause.getLsbD 16 = decide (z = .long) ∧ v.tstat.priv = true ∧ v.tstat.intrap = true ∧ u.mem = s.mem)
     (∀ z : Size, entered (exec (.fbar c z) s) z) ∧
     (∀ k : SetNo, entered (exec (.tswitch c (.imm k)) s) .short ∨
       (k.val ≠ (lcore s c).cur ∧ ∃ r, switchCheck s c k = .error r)) ∧
     (∀ rd rb : Reg, (∃ u, tsaveBody s c rd rb = .done u) → entered (exec (.tsave c rd rb) s) .long) ∧
     (∀ rd : Reg, entered (exec (.mfsr c rd 5) s) .long) ∧
     (∀ rs : Reg, fstatBadRm (regData s c rs) = false → entered (exec (.mtsr c rs 5) s) .long) ∧
     (fpDue t = true → (∀ rd rs : Reg, tagIn s c rs accAny = true → entered (exec (.mov c rd rs) s) .short) ∧
       (entered (exec (.fpTrap c) s) .short ∨ entered (exec (.fpTrap c) s) .long))) ∧
  (∀ (t : TaskSet) (fl : FFlags),
     let u := signal t fl
     u.fstat.flags = t.fstat.flags ||| fl ∧ u.fstat.pend = t.fstat.pend ||| (fl &&& t.fstat.enable) ∧
     u.fstat.rm = t.fstat.rm ∧ u.fstat.enable = t.fstat.enable ∧ u.g = t.g ∧ u.v = t.v ∧ u.pc = t.pc ∧ u.tstat = t.tstat ∧
     (t.fstat.pend = 0#5 → fl &&& t.fstat.enable ≠ 0#5 → u.fepc = TWord.mkRaw t.pc.data) ∧
     (t.fstat.pend ≠ 0#5 ∨ fl &&& t.fstat.enable = 0#5 → u.fepc = t.fepc)) ∧
  (∀ (s : State) (c : LC) (z : Size), ready s c = true → (curSet s c).fstat.pend = 0#5 →
     exec (.fbar c z) s = .next (passed s c z (curSet s c)))

/-- Trap entry in one step: TEPC, TINFO and TCAUSE, PRIV saved and set, INTRAP set, EVMASK saved and set, PC at TVEC plus the trap's
offset; no register, no other set, no memory and no cache but an instruction L1 is touched (R87, R89, R129; LOG 124). TRAPI, BREAK and an
encoding that is not assigned take their traps; TEPC of TRAPI and BREAK is the next instruction (R67, R87). A trap while INTRAP is set, or
with a TVEC that R116 does not admit, is a double trap: the set is HELD with its registers as they were, DOUBLE_TRAP is raised, and
execution passes to the lowest READY set, or the core stops with TASK0_DOUBLE_TRAP reported (R130). -/
def Obligations.TrapEntry : Prop :=
  (∀ (s : State) (c : LC) (z : Size) (r : TrapRec), let t := curSet s c
     t.tstat.intrap = false → tvecOk t = true → r.no < 18 → r.sub < 256 → r.opreg < 32 →
     let u := raiseTrap s c z r
     let v := curSet u c
     v.tepc = TWord.mkCode (if r.after then t.pc.data + (if z = .long then 4#64 else 2#64) else t.pc.data) ∧
     v.tinfo = r.info ∧
     v.tcause.toNat % 256 = r.no ∧ v.tcause.toNat / 2 ^ 8 % 256 = r.sub ∧ v.tcause.toNat / 2 ^ 16 % 2 = (if z = .long then 1 else 0) ∧
     v.tcause.toNat / 2 ^ 17 % 2 = (if t.fstat.pend = 0#5 then 0 else 1) ∧ v.tcause.toNat / 2 ^ 18 % 32 = r.opreg ∧
     v.tcause.toNat / 2 ^ 24 = r.tagf.toNat ∧
     v.pc = TWord.mkCode (t.tvec.data + BitVec.ofNat 64 (64 * r.no)) ∧
     v.tstat = { t.tstat with ppriv := t.tstat.priv, priv := true, intrap := true, pevmask := t.tstat.evmask, evmask := true } ∧
     v.g = t.g ∧ v.v = t.v ∧ v.fstat = t.fstat ∧ v.fepc = t.fepc ∧ v.tvec = t.tvec ∧ (lcore u c).cur = (lcore s c).cur ∧
     (∀ j, j ≠ (lcore s c).cur → taskSet u c j = taskSet s c j) ∧ (∀ d : Nat, d ≠ c → lcore u d = lcore s d) ∧
     u.mem = s.mem ∧ { u.coh with l1i := s.coh.l1i } = s.coh) ∧
  (∀ (s : State) (c : LC), ready s c = true →
     (∀ n : Byte, exec (.trapi c n) s = .next (raiseTrap s c .long { no := 11, sub := n.toNat, after := true })) ∧
     exec (.break c) s = .next (raiseTrap s c .long { no := 15, after := true }) ∧
     (∀ z : Size, exec (.illegalInstruction c z) s = .next (raiseTrap s c z { no := 0 }))) ∧
  (∀ (s : State) (c : LC), let k := (lcore s c).cur
     let t := curSet s c
     let u := (doubleTrap s c).1
     taskSet u c k = { t with tstat := { t.tstat with state := .held } } ∧
     (evSource u (1152 + c)).pending.getLsbD 0 = true ∧ u.mem = s.mem ∧
     (k = 0 → (lcore u c).stopped = true ∧ (doubleTrap s c).2 = false ∧
       (timeRuns s = true → ∃ e ∈ u.faults.inbox, e.point = 480 + c.val)) ∧
     (k ≠ 0 → (∀ j < 32, j ≠ k → (taskSet s c j).tstat.state ≠ .ready) → (lcore u c).stopped = true ∧ (doubleTrap s c).2 = false) ∧
     (k ≠ 0 → ∀ j < 32, j ≠ k → (taskSet s c j).tstat.state = .ready → (∀ i < j, i ≠ k → (taskSet s c i).tstat.state ≠ .ready) →
       (lcore u c).cur = j ∧ (taskSet u c j).tstat.state = .running ∧ (doubleTrap s c).2 = true))

/-- TSAVE of another set that is neither EMPTY nor set 0, with every line of its frame held in M: the frame holds the set's words, rd the
frame base, and the set is EMPTY with the values of R114 (R122, R123). TLOAD into an EMPTY set from a frame in held lines whose header and
PC are valid: the registers with their tags, the level from rd, INTRAP and PPRIV only for level S, STATE READY; TALLOW, EVMASK, PEVMASK
and TVEC stay (R124). TSWITCH to another set that is READY with a CODE PC, allowed at the level: the old set READY past the instruction,
the target RUNNING; with nothing pending in the target it changes nothing else of the two sets (R117, R119). To its own number it only
falls through (R118). -/
def Obligations.TaskFrames : Prop :=
  (∀ (s : State) (c : LC) (rd rb : Reg) (k : Nat) (pas : List Nat), let t := curSet s c
     let x := taskSet s c k
     let base := frameBase (gread x 2).data
     ready s c = true → t.fstat.pend = 0#5 → t.tstat.priv = true → setNumber t rb = .ok k → k ≠ (lcore s c).cur → k ≠ 0 →
     x.tstat.state ≠ .empty → (gread x 2).tag = Tag.addr → x.tstat.vused = false → x.tstat.evpend = false →
     framePas s c base .write false = .ok pas → pas = (List.range 9).map (fun n => pas.getD 0 0 + 128 * n) →
     pas.getD 0 0 % 128 = 0 → pas.getD 0 0 + 1152 ≤ hbmTop →
     (∀ n < 3, storeHit s c (lineOf (pas.getD n 0)) = true ∧ (l2Data s c (lineOf (pas.getD n 0))).length = 16) →
     ∃ u, exec (.tsave c rd rb) s = .next u ∧
       (taskSet u c k).tstat.state = .empty ∧ (taskSet u c k).g = [] ∧ (taskSet u c k).v = [] ∧ (taskSet u c k).pc = TWord.void ∧
       (taskSet u c k).tepc = TWord.mkRaw 0#64 ∧ (taskSet u c k).fstat = {} ∧ (taskSet u c k).tvec = x.tvec ∧
       (taskSet u c k).tstat.tallow = x.tstat.tallow ∧ (taskSet u c k).tstat.mcpend = false ∧
       (curSet u c).g = (gwrite t rd (TWord.mkAddr base)).g ∧ (curSet u c).pc = (pastPc t .long).pc ∧ u.mem = s.mem ∧
       (∀ w ∈ frameWords k x, lineWord (l2Data u c (lineOf (pas.getD (w.1 / 16) 0))) (w.1 % 16) = ⟨w.2, false⟩)) ∧
  (∀ (s : State) (c : LC) (rd ra rb : Reg) (k : Nat) (pas : List Nat), let t := curSet s c
     let base := regData s c ra
     let word := fun i : Nat => lineWord (l2Data s c (lineOf (pas.getD (i / 16) 0))) (i % 16)
     let hdr := (word 0).w.data
     ready s c = true → t.tstat.priv = true → rd.val ≤ 1 → setNumber t rb = .ok k → k ≠ (lcore s c).cur →
     (taskSet s c k).tstat.state = .empty → regTag s c ra = Tag.addr → base.toNat % 128 = 0 →
     framePas s c base .read true = .ok pas → (∀ n < 3, loadHit s c (lineOf (pas.getD n 0)) = true) →
     (word 0).w.tag = Tag.raw → field hdr 7 0 = 1 → field hdr 63 12 = 0 → bitOf hdr 8 = false → (word 1).w.tag = Tag.code →
     (∀ i < 40, (word i).poison = false) →
     ∃ u, exec (.tload c rd ra rb) s = .next u ∧
       (let y := taskSet u c k
        y.tstat.state = .ready ∧ y.tstat.priv = decide (rd.val = 1) ∧ y.tstat.vused = false ∧
        y.tstat.evpend = bitOf hdr 9 ∧ y.tstat.mcpend = bitOf hdr 11 ∧ y.tstat.intrap = (decide (rd.val = 1) && bitOf hdr 10) ∧
        y.tstat.nanmode = bitOf (word 2).w.data 11 ∧ y.tstat.tallow = (taskSet s c k).tstat.tallow ∧
        y.tstat.evmask = (taskSet s c k).tstat.evmask ∧ y.tstat.pevmask = (taskSet s c k).tstat.pevmask ∧
        y.tvec = (taskSet s c k).tvec ∧ y.pc = (word 1).w ∧ y.tepc = (word 3).w ∧ y.tinfo = (word 4).w ∧
        (∀ n, 1 ≤ n → n < 32 → gread y n = (word (8 + n)).w) ∧ y.fstat = {} ∧ y.fepc = TWord.mkRaw 0#64 ∧ y.v = []) ∧
       (curSet u c).g = t.g ∧ (curSet u c).pc = (pastPc t .long).pc ∧ u.mem = s.mem) ∧
  (∀ (s : State) (c : LC) (f : SwForm) (k : Nat), ready s c = true → (curSet s c).fstat.pend = 0#5 →
     swTarget (curSet s c) f = .ok k →
     (k = (lcore s c).cur → exec (.tswitch c f) s = .next (passed s c (swSize f) (curSet s c))) ∧
     (k ≠ (lcore s c).cur → (curSet s c).tstat.priv = true ∨ (curSet s c).tstat.tallow.getLsbD k = true →
       (taskSet s c k).tstat.state = .ready → (taskSet s c k).pc.tag = Tag.code →
       (taskSet s c k).tstat.mcpend = false → (taskSet s c k).tstat.evpend = false →
       ∃ u, exec (.tswitch c f) s = .next u ∧ (lcore u c).cur = k ∧
         (taskSet u c k).tstat = { (taskSet s c k).tstat with state := .running } ∧ (taskSet u c k).g = (taskSet s c k).g ∧
         (taskSet u c k).pc = (taskSet s c k).pc ∧
         (taskSet u c (lcore s c).cur).tstat = { (curSet s c).tstat with state := .ready } ∧
         (taskSet u c (lcore s c).cur).pc = (pastPc (curSet s c) (swSize f)).pc ∧
         (taskSet u c (lcore s c).cur).g = (curSet s c).g ∧
         (∀ j, j ≠ k → j ≠ (lcore s c).cur → taskSet u c j = taskSet s c j) ∧ u.mem = s.mem ∧
         { u.coh with l1i := s.coh.l1i } = s.coh) ∧
     (k ≠ (lcore s c).cur → (curSet s c).tstat.priv = false → (curSet s c).tstat.tallow.getLsbD k = false →
       exec (.tswitch c f) s = .next (raiseTrap s c (swSize f) { no := Trap.priv, sub := 1 })) ∧
     (k ≠ (lcore s c).cur → (curSet s c).tstat.priv = true → (taskSet s c k).tstat.state ≠ .ready →
       exec (.tswitch c f) s = .next (raiseTrap s c (swSize f) { no := Trap.priv, sub := 2 })))

/-- Entry of a pending event: EVPEND is cleared and the staged vector number is the SUBCAUSE; a machine check that is pending goes first
(R119, R131, R132, R420). RETT takes PC from TEPC, PRIV from PPRIV, EVMASK from PEVMASK and clears INTRAP (R129); at level U it raises
PRIV, and a TEPC that is no CODE raises TAG_MISMATCH with subcause 6. -/
def Obligations.EventEntry : Prop :=
  (∀ (s : State) (c : LC), let t := curSet s c
     runs s c = true → t.tstat.intrap = false → tvecOk t = true →
     (t.tstat.mcpend = false → t.tstat.evpend = true → t.tstat.evmask = false → ∀ n < 256, t.staged.getD 0 = n →
       ∃ u, exec (.event c) s = .next u ∧ (curSet u c).tstat.evpend = false ∧ (curSet u c).staged = none ∧
         (curSet u c).tcause.toNat % 2 ^ 17 = n * 256 + 14 ∧ (curSet u c).tepc = TWord.mkCode t.pc.data ∧
         (curSet u c).pc = TWord.mkCode (t.tvec.data + 896#64) ∧ (curSet u c).g = t.g ∧ u.mem = s.mem) ∧
     (t.tstat.mcpend = true → (lcore s c).mcCause < 256 →
       ∃ u, exec (.machineCheck c) s = .next u ∧ (curSet u c).tstat.mcpend = false ∧
         (curSet u c).tstat.evpend = t.tstat.evpend ∧ (curSet u c).staged = t.staged ∧
         (curSet u c).tcause.toNat % 2 ^ 17 = (lcore s c).mcCause * 256 + 13 ∧ (curSet u c).tepc = TWord.mkCode t.pc.data ∧
         (curSet u c).pc = TWord.mkCode (t.tvec.data + 832#64) ∧ (curSet u c).g = t.g ∧ u.mem = s.mem)) ∧
  (∀ (s : State) (c : LC), let t := curSet s c
     ready s c = true →
     (t.tstat.priv = true → t.tepc.tag = Tag.code → t.tepc.data.getLsbD 0 = false → t.tstat.mcpend = false →
       exec (.rett c) s = .next (retired s c { t with
         pc := t.tepc, tstat := { t.tstat with priv := t.tstat.ppriv, evmask := t.tstat.pevmask, intrap := false } })) ∧
     (t.tstat.priv = false → exec (.rett c) s = .next (raiseTrap s c .long { no := Trap.priv })) ∧
     (t.tstat.priv = true → t.tepc.tag ≠ Tag.code →
       exec (.rett c) s = .next (raiseTrap s c .long { no := Trap.tagMismatch, sub := 6, tagf := t.tepc.tag })))

/-- MFSR returns each special register, with TSTAT, TCAUSE, FSTAT and TWIN as RAW; numbers 0 and above 9 are ILLEGAL_OP, and at level U
only TSTAT, FSTAT and FEPC may be read (R85, R517). MTSR at level S writes each special register of the set, RM values above 4 excepted
(ILLEGAL_OP 0x16); at level U it writes only NANMODE of TSTAT, and FSTAT, whose RM, ENABLE and FLAGS it stores (LOG 17); TWIN keeps its
reserved bits zero (R104, R115, R116, R126). WREAD and WWRITE act on the register that TWIN selects in another set, at level S, and step
TWIN when INC is set; the selected set is the only other thing a write changes (R121, R126, R127). -/
def Obligations.SpecialRegisters : Prop :=
  (∀ (s : State) (c : LC) (rd n : Reg), let t := curSet s c
     ready s c = true → t.fstat.pend = 0#5 →
     (n.val = 0 ∨ 9 < n.val → exec (.mfsr c rd n) s = .next (raiseTrap s c .long { no := Trap.illegalOp })) ∧
     (1 ≤ n.val → n.val ≤ 9 → t.tstat.priv = false → n.val ≠ 1 → n.val ≠ 5 → n.val ≠ 6 →
       exec (.mfsr c rd n) s = .next (raiseTrap s c .long { no := Trap.priv })) ∧
     (1 ≤ n.val → n.val ≤ 9 → t.tstat.priv = true ∨ n.val = 1 ∨ n.val = 5 ∨ n.val = 6 →
       exec (.mfsr c rd n) s = .next (passed s c .long (gwrite t rd
         (if n.val = 8 then TWord.mkRaw (lcore s c).twin else if n.val = 9 then (lcore s c).vroot
          else specialRead t (lcore s c).cur n))))) ∧
  (∀ (s : State) (c : LC) (rs n : Reg), let t := curSet s c
     let w := gread t rs
     ready s c = true → t.fstat.pend = 0#5 →
     (n.val = 5 → 5 ≤ w.data.toNat / 2 ^ 10 % 8 →
       exec (.mtsr c rs n) s = .next (raiseTrap s c .long { no := Trap.illegalOp, sub := 0x16 })) ∧
     (n.val = 0 ∨ 9 < n.val → exec (.mtsr c rs n) s = .next (raiseTrap s c .long { no := Trap.illegalOp })) ∧
     (2 ≤ n.val → n.val ≤ 9 → n.val ≠ 5 → t.tstat.priv = false →
       exec (.mtsr c rs n) s = .next (raiseTrap s c .long { no := Trap.priv })) ∧
     (n.val = 5 → w.data.toNat / 2 ^ 10 % 8 < 5 →
       exec (.mtsr c rs n) s = .next (passed s c .long (setVused { t with fstat := { t.fstat with
         rm := BitVec.ofNat 3 (w.data.toNat / 2 ^ 10), enable := BitVec.ofNat 5 (w.data.toNat / 2 ^ 5)
         flags := BitVec.ofNat 5 w.data.toNat } }))) ∧
     (n.val = 1 → t.tstat.priv = false →
       exec (.mtsr c rs n) s = .next (passed s c .long { t with tstat := { t.tstat with nanmode := w.data.getLsbD 11 } })) ∧
     (n.val = 1 → t.tstat.priv = true →
       exec (.mtsr c rs n) s = .next (passed s c .long { t with tstat := { t.tstat with
         tallow := BitVec.ofNat 32 (w.data.toNat / 2 ^ 32), pevmask := w.data.getLsbD 14, evmask := w.data.getLsbD 13
         intrap := w.data.getLsbD 12, nanmode := w.data.getLsbD 11, vused := w.data.getLsbD 10, ppriv := w.data.getLsbD 9
         priv := w.data.getLsbD 8 } })) ∧
     (t.tstat.priv = true →
       (n.val = 2 → exec (.mtsr c rs n) s = .next (passed s c .long { t with tepc := w })) ∧
       (n.val = 3 → exec (.mtsr c rs n) s = .next (passed s c .long { t with tinfo := w })) ∧
       (n.val = 4 → exec (.mtsr c rs n) s = .next (passed s c .long { t with tcause := w.data &&& 0x0F7FFFFF#64 })) ∧
       (n.val = 6 → exec (.mtsr c rs n) s = .next (passed s c .long (setVused { t with fepc := w }))) ∧
       (n.val = 7 → exec (.mtsr c rs n) s = .next (passed s c .long { t with tvec := w })) ∧
       (n.val = 8 → ∃ u, exec (.mtsr c rs n) s = .next u ∧ (lcore u c).twin = w.data &&& 0x8003DF1F#64 ∧
         (curSet u c).g = t.g ∧ (curSet u c).pc = (pastPc t .long).pc) ∧
       (n.val = 9 → ∃ u, exec (.mtsr c rs n) s = .next u ∧ (lcore u c).vroot = w ∧
         (curSet u c).g = t.g ∧ (curSet u c).pc = (pastPc t .long).pc))) ∧
  (∀ (s : State) (c : LC) (r : Reg), let t := curSet s c
     let w := (lcore s c).twin
     let k := twinTask w
     ready s c = true →
     (k = (lcore s c).cur →
       exec (.wread c r) s = .next (raiseTrap s c .long { no := Trap.illegalOp, sub := 0x10 }) ∧
       exec (.wwrite c r) s = .next (raiseTrap s c .long { no := Trap.illegalOp, sub := 0x10 })) ∧
     (k ≠ (lcore s c).cur → twinClass w = 3 →
       exec (.wread c r) s = .next (raiseTrap s c .long { no := Trap.illegalOp, sub := 0x15 }) ∧
       exec (.wwrite c r) s = .next (raiseTrap s c .long { no := Trap.illegalOp, sub := 0x15 })) ∧
     (k ≠ (lcore s c).cur → twinClass w = 0 → t.tstat.priv = false →
       exec (.wread c r) s = .next (raiseTrap s c .long { no := Trap.priv }) ∧
       exec (.wwrite c r) s = .next (raiseTrap s c .long { no := Trap.priv })) ∧
     (k ≠ (lcore s c).cur → twinClass w = 0 → t.tstat.priv = true →
       (∃ u, exec (.wread c r) s = .next u ∧ (r.val ≠ 0 → gread (curSet u c) r = gread (taskSet s c k) (twinIndex w)) ∧
         (lcore u c).twin = twinStep w ∧ taskSet u c k = taskSet s c k ∧ (curSet u c).pc = (pastPc t .long).pc ∧
         (∀ q, q ≠ r.val → gread (curSet u c) q = gread t q) ∧ u.mem = s.mem) ∧
       (∃ u, exec (.wwrite c r) s = .next u ∧ (twinIndex w ≠ 0 → gread (taskSet u c k) (twinIndex w) = gread t r) ∧
         (lcore u c).twin = twinStep w ∧ (curSet u c).g = t.g ∧ (curSet u c).pc = (pastPc t .long).pc ∧
         (∀ q, q ≠ twinIndex w → gread (taskSet u c k) q = gread (taskSet s c k) q) ∧
         (∀ j, j ≠ k → j ≠ (lcore s c).cur → taskSet u c j = taskSet s c j) ∧ u.mem = s.mem)))

/-- The frame of an instruction that completes within its own set (`passed` and `retired`, the next states of the statements above): every
other set and core, memory, the caches, every special register the set's new value does not change, and the rest of the machine stay as
they were; only an instruction L1 may take the next instruction's line, and the model's free value move on (LOG 124). General registers:
G0 reads as RAW 0 and a write to it is lost; a write to another register is read back and changes no other (R55). -/
def Obligations.InstructionFrame : Prop :=
  (∀ (s : State) (c : LC) (t : TaskSet), let u := retired s c t
     (∀ j, j ≠ (lcore s c).cur → taskSet u c j = taskSet s c j) ∧ (∀ d : Nat, d ≠ c → lcore u d = lcore s d) ∧
     (curSet u c).g = t.g ∧ (curSet u c).v = t.v ∧ (curSet u c).pc = t.pc ∧ (curSet u c).tstat = t.tstat ∧
     (curSet u c).fstat = t.fstat ∧ (curSet u c).fepc = t.fepc ∧ (curSet u c).tepc = t.tepc ∧ (curSet u c).tinfo = t.tinfo ∧
     (curSet u c).tcause = t.tcause ∧ (curSet u c).tvec = t.tvec ∧
     (lcore u c).twin = (lcore s c).twin ∧ (lcore u c).vroot = (lcore s c).vroot ∧
     (∀ a, Memory.byte u.mem a = Memory.byte s.mem a) ∧
     { u with lcores := s.lcores, coh := { u.coh with l1i := s.coh.l1i }, free := s.free } = s) ∧
  (∀ (t : TaskSet) (r q : Nat) (w : TWord),
     gread t 0 = ⟨0#64, 0x0#4⟩ ∧ gwrite t 0 w = t ∧ (r ≠ 0 → gread (gwrite t r w) r = w) ∧
     (q ≠ r → gread (gwrite t r w) q = gread t q) ∧ (gwrite t r w).pc = t.pc ∧ (gwrite t r w).tstat = t.tstat ∧
     (gwrite t r w).fstat = t.fstat ∧ (gwrite t r w).v = t.v ∧ (gwrite t r w).tvec = t.tvec)

/-! ## Memory instructions and coherence -/

/-- Loads that hit in the L2: the full word with its tag, or the bytes extended and tagged by the kind of load, VOID for a word that is
VOID or reserved; the line is filled into the L1 arrays and memory does not change (R71, R72, R73, R172). LDTP reads the word at PC with
its low three bits cleared plus 8 times its offset, and the short forms of LDT read through G24 to G31 and G2 (R68, R72). A load from a
device window retires at its issue with its value in the replay buffer, the core then waits, and DEVICE_WINDOW_RESPONSE writes the
register, after which the core goes on (R139). -/
def Obligations.LoadResults : Prop :=
  (∀ (s : State) (c : LC) (rd ra : Reg) (imm : BitVec 14) (pa : Nat), let t := curSet s c
     let va := regData s c ra + imm.signExtend 64
     let w := lineWord (l2Data s c (lineOf pa)) (wordOf pa % 16)
     let out := fun (v : TWord) => Host.Outcome.next
       (retire (modCur (l1Fill s c (lineOf pa)) c (fun _ => gwrite (pastPc t .long) rd v)) c (lcore s c).cur)
     let byte := fun n => (w.w.data.toNat >>> (8 * (pa % 8))) % 2 ^ (8 * n)
     let narrow := fun (v : TWord) => if isVoidish w.w.tag = true then TWord.void else v
     ready s c = true → regTag s c ra = Tag.addr → devOf pa = none → loadHit s c (lineOf pa) = true → w.poison = false →
     (va.toNat % 8 = 0 → physical s c va 8 .read = .ok pa → exec (.ldt c (.long rd ra imm)) s = out w.w) ∧
     (va.toNat % 4 = 0 → physical s c va 4 .read = .ok pa →
       exec (.ldw c rd ra imm) s = out (narrow (TWord.mkInt ((BitVec.ofNat 32 (byte 4)).signExtend 64))) ∧
       exec (.ldwu c rd ra imm) s = out (narrow (TWord.mkRaw (BitVec.ofNat 64 (byte 4))))) ∧
     (va.toNat % 2 = 0 → physical s c va 2 .read = .ok pa →
       exec (.ldh c rd ra imm) s = out (narrow (TWord.mkInt ((BitVec.ofNat 16 (byte 2)).signExtend 64))) ∧
       exec (.ldhu c rd ra imm) s = out (narrow (TWord.mkRaw (BitVec.ofNat 64 (byte 2))))) ∧
     (physical s c va 1 .read = .ok pa →
       exec (.ldb c rd ra imm) s = out (narrow (TWord.mkInt ((BitVec.ofNat 8 (byte 1)).signExtend 64))) ∧
       exec (.ldbu c rd ra imm) s = out (narrow (TWord.mkRaw (BitVec.ofNat 64 (byte 1)))) ∧
       exec (.ldc c rd ra imm) s = out (narrow (TWord.mkChar (BitVec.ofNat 64 (byte 1)))))) ∧
  (∀ (s : State) (c : LC) (rd : Reg) (pa : Nat), let t := curSet s c
     let w := lineWord (l2Data s c (lineOf pa)) (wordOf pa % 16)
     let out := fun (z : Size) => Host.Outcome.next
       (retire (modCur (l1Fill s c (lineOf pa)) c (fun _ => gwrite (pastPc t z) rd w.w)) c (lcore s c).cur)
     ready s c = true → devOf pa = none → loadHit s c (lineOf pa) = true → w.poison = false →
     (∀ imm : BitVec 19, physical s c ((t.pc.data &&& ~~~7#64) + imm.signExtend 64 * 8#64) 8 .read = .ok pa →
       exec (.ldtp c rd imm) s = out .long) ∧
     (∀ off : BitVec 6, regTag s c 2 = Tag.addr → (regData s c 2 + BitVec.ofNat 64 (8 * off.toNat)).toNat % 8 = 0 →
       physical s c (regData s c 2 + BitVec.ofNat 64 (8 * off.toNat)) 8 .read = .ok pa →
       exec (.ldt c (.stack rd off)) s = out .short) ∧
     (∀ (b : BitVec 3) (off : BitVec 4), regTag s c (24 + b.toNat) = Tag.addr →
       (regData s c (24 + b.toNat) + BitVec.ofNat 64 (8 * off.toNat)).toNat % 8 = 0 →
       physical s c (regData s c (24 + b.toNat) + BitVec.ofNat 64 (8 * off.toNat)) 8 .read = .ok pa →
       exec (.ldt c (.base rd b off)) s = out .short)) ∧
  (∀ (s : State) (c : LC) (rd ra : Reg) (imm : BitVec 14) (p off pa : Nat), let t := curSet s c
     let va := regData s c ra + imm.signExtend 64
     (ready s c = true → regTag s c ra = Tag.addr → va.toNat % 8 = 0 → physical s c va 8 .read = .ok pa → devOf pa = some (p, off) →
       devDead s off = false →
       ∃ u, exec (.ldt c (.long rd ra imm)) s = .next u ∧
         (lcore u c).replay = some { set := (lcore s c).cur, rd := rd, value := TWord.mkRaw (devRead s p c (lcore s c).cur (off / 8 * 8)).2
                                     arrived := false, pc := pcOf s c, va := va, die := devDie s off, since := pip s } ∧
         (curSet u c).g = t.g ∧ (curSet u c).pc = (pastPc t .long).pc ∧ runs u c = false ∧ u.mem = s.mem) ∧
     (∀ r, (lcore s c).replay = some r → r.amo = none → r.vec = none → r.isolated = false → inService s = true →
       trioRuns (trio s (trioOf c)).state = true → (lcore s c).ckPip0 = none → (curSet s c).tstat.mcpend = false →
       ∃ u, exec (.deviceWindowResponse c) s = .next u ∧ (lcore u c).replay = none ∧
         taskSet u c r.set = gwrite (taskSet s c r.set) r.rd r.value ∧ (∀ j, j ≠ r.set → taskSet u c j = taskSet s c j) ∧
         u.mem = s.mem))

/-- Stores that hit a line in E or M: the line ends in M with the one word changed (STT with its tag, a narrow store as RAW with only its
own bytes changed), no register and no byte of memory or of another line is changed (R60, R71, R72, R74, R172). -/
def Obligations.StoreResults : Prop :=
  ∀ (s : State) (c : LC) (rs ra : Reg) (imm : BitVec 14) (pa : Nat), let t := curSet s c
    let va := regData s c ra + imm.signExtend 64
    let ln := lineOf pa
    let old := l2Data s c ln
    let k := wordOf pa % 16
    let keep := fun n : Nat => BitVec.ofNat 64 ((2 ^ (8 * n) - 1) <<< (8 * (pa % 8)))
    let stored := fun (o : Res) (w : CWord) => ∃ u, o = .next u ∧
      (l2Line u c ln).st = .st .m ∧ l2Data u c ln = old.set k w ∧
      (∀ a l, (a ≠ c.val ∨ l ≠ ln) → l < 2 ^ 45 → l2Line u a l = l2Line s a l) ∧ u.mem = s.mem ∧ u.coh.homes = s.coh.homes ∧
      (curSet u c).g = t.g ∧ (curSet u c).v = t.v ∧ (curSet u c).tstat = t.tstat ∧ (curSet u c).fstat = t.fstat ∧
      (curSet u c).pc = (pastPc t .long).pc
    let narrow := fun n : Nat => CWord.mk
      (TWord.mkRaw (((lineWord old k).w.data &&& ~~~keep n) ||| ((regData s c rs <<< (8 * (pa % 8))) &&& keep n)))
      (lineWord old k).poison
    ready s c = true → regTag s c ra = Tag.addr → devOf pa = none → isCxl pa = false → ln < 2 ^ 45 →
    storeHit s c ln = true →
    (va.toNat % 8 = 0 → physical s c va 8 .write = .ok pa →
      stored (exec (.stt c (.long rs ra imm)) s) ⟨gread t rs, false⟩) ∧
    (tagIn s c rs accL = true →
      (va.toNat % 4 = 0 → physical s c va 4 .write = .ok pa → stored (exec (.stw c rs ra imm) s) (narrow 4)) ∧
      (va.toNat % 2 = 0 → physical s c va 2 .write = .ok pa → stored (exec (.sth c rs ra imm) s) (narrow 2)) ∧
      (physical s c va 1 .write = .ok pa → stored (exec (.stb c rs ra imm) s) (narrow 1)))

/-- The traps of loads and stores in their order: a base that is no ADDR, a misaligned address with the address in TINFO, a translation or
range that fails, and STT of a tagged word to memory without tags (R71, R74, R87, R88, R90). Without a translation table a virtual address
is the physical one, and memory outside the partition's ranges and its window raises PART_RANGE (R333, R335). -/
def Obligations.MemoryTraps : Prop :=
  (∀ (s : State) (c : LC) (rd ra : Reg) (imm : BitVec 14), ready s c = true →
     let va := regData s c ra + imm.signExtend 64
     (regTag s c ra ≠ Tag.addr →
       let trap := Host.Outcome.next (raiseTrap s c .long
         { no := Trap.tagMismatch, sub := 5, opreg := ra, tagf := regTag s c ra })
       exec (.ldt c (.long rd ra imm)) s = trap ∧ exec (.stt c (.long rd ra imm)) s = trap ∧ exec (.stb c rd ra imm) s = trap ∧
       exec (.ldc c rd ra imm) s = trap) ∧
     (regTag s c ra = Tag.addr → va.toNat % 8 ≠ 0 →
       let trap := Host.Outcome.next (raiseTrap s c .long { no := Trap.align, info := TWord.mkAddr va })
       exec (.ldt c (.long rd ra imm)) s = trap ∧ exec (.stt c (.long rd ra imm)) s = trap) ∧
     (regTag s c ra = Tag.addr → ∀ r, physical s c va 1 .read = .error r →
       exec (.ldb c rd ra imm) s = .next (raiseTrap s c .long { r with info := TWord.mkAddr va })) ∧
     (regTag s c ra = Tag.addr → va.toNat % 8 = 0 → ∀ pa, physical s c va 8 .write = .ok pa → isCxl pa = true →
       isRawUser (regTag s c rd) = false →
       exec (.stt c (.long rd ra imm)) s = .next (raiseTrap s c .long { no := Trap.tagStore, info := TWord.mkAddr va }))) ∧
  (∀ (s : State) (c : LC) (va : W64) (n : Nat) (a : Acc), (lcore s c).vroot.tag ≠ Tag.addr →
     translate s c va a = .ok va.toNat ∧
     (∀ p, partOf s c = some p → inRanges s p va.toNat n = true → physical s c va n a = .ok va.toNat) ∧
     (∀ p, partOf s c = some p → inRanges s p va.toNat n = false → devOf va.toNat = none →
       physical s c va n a = .error { no := Trap.partRange, info := TWord.mkAddr va }) ∧
     (partOf s c = none → physical s c va n a = .error { no := Trap.partRange, info := TWord.mkAddr va }))

/-- Block accesses whose lines hit: VLD reads four words into V[vd], VST writes four RAW words and VSTD four DEC words with the sign of
R96; each sets VUSED (R56, R74, R85, R95). -/
def Obligations.BlockAccessResults : Prop :=
  ∀ (s : State) (c : LC) (v : VReg) (ra : Reg) (imm : BitVec 14) (p0 p1 p2 p3 : Nat), let t := curSet s c
    let va := regData s c ra + imm.signExtend 64
    let pas := [p0, p1, p2, p3]
    let word := fun (s : State) pa => lineWord (l2Data s c (lineOf pa)) (wordOf pa % 16)
    ready s c = true → regTag s c ra = Tag.addr → pas.Nodup → (∀ pa ∈ pas, devOf pa = none ∧ isCxl pa = false ∧ pa % 8 = 0 ∧
      pa < 2 ^ 52 ∧ (l2Data s c (lineOf pa)).length = 16) →
    (blockAddrs s c va .read = .ok pas → (∀ pa ∈ pas, loadHit s c (lineOf pa) = true ∧ (word s pa).poison = false ∧
        vldBad (word s pa).w.tag = false) →
      ∃ u, exec (.vld c v ra imm) s = .next u ∧
        vread (curSet u c) v = ofLanes [(word s p0).w.data, (word s p1).w.data, (word s p2).w.data, (word s p3).w.data] ∧
        (curSet u c).tstat.vused = true ∧ (curSet u c).g = t.g ∧ (∀ j, j ≠ v.val → vread (curSet u c) j = vread t j) ∧
        u.mem = s.mem) ∧
    (blockAddrs s c va .write = .ok pas → (∀ pa ∈ pas, storeHit s c (lineOf pa) = true) →
      (∃ u, exec (.vst c v ra imm) s = .next u ∧ (curSet u c).tstat.vused = true ∧ (curSet u c).g = t.g ∧ u.mem = s.mem ∧
        word u p0 = ⟨TWord.mkRaw (lane (vread t v) 0), false⟩ ∧ word u p1 = ⟨TWord.mkRaw (lane (vread t v) 1), false⟩ ∧
        word u p2 = ⟨TWord.mkRaw (lane (vread t v) 2), false⟩ ∧ word u p3 = ⟨TWord.mkRaw (lane (vread t v) 3), false⟩) ∧
      ((∀ i < 4, decBad (lane (vread t v) i) = none) →
        ∃ u, exec (.vstd c v ra imm) s = .next u ∧ (curSet u c).tstat.vused = true ∧ (curSet u c).g = t.g ∧ u.mem = s.mem ∧
          word u p0 = ⟨TWord.mkDec (decOf (decVal (lane (vread t v) 0))), false⟩ ∧
          word u p1 = ⟨TWord.mkDec (decOf (decVal (lane (vread t v) 1))), false⟩ ∧
          word u p2 = ⟨TWord.mkDec (decOf (decVal (lane (vread t v) 2))), false⟩ ∧
          word u p3 = ⟨TWord.mkDec (decOf (decVal (lane (vread t v) 3))), false⟩))

/-- Atomic operations outside the predictor modes run at the home: with the line in I there and a credit free, rd receives the old word,
the home's L3 holds the new one, no L2 gains the line, and the credit is back (R81, R180, R181, R226). The operation of an atomic on the
memory word: the sum with the word's own tag, INT_OVF for an INT word out of range, the swap, the compare of data and tag, and the decimal
sum (R81). -/
def Obligations.AtomicAtHome : Prop :=
  (∀ (s : State) (c : LC) (rd ra rb : Reg) (o : AmoOrder) (pa : Nat), let t := curSet s c
     let va := regData s c ra
     let ln := lineOf pa
     let k := wordOf pa % 16
     let old := lineWord (homeData s ln) k
     let b := gread t rb
     let done := fun (r : Res) (x : AmoArgs) => ∀ w, amoApply false x old.w = (.ok, some w) → ∃ u, r = .next u ∧
       (curSet u c).g = (gwrite t rd old.w).g ∧ (curSet u c).pc = (pastPc t .long).pc ∧
       (homeOf u ln).l3 = some ((homeData s ln).set k ⟨w, false⟩) ∧ (homeOf u ln).l3Dirty = true ∧ (homeOf u ln).st = .st .i ∧
       u.mem = s.mem ∧ u.coh.l2 = s.coh.l2 ∧ (∀ l, l ≠ ln → homeOf u l = homeOf s l) ∧ u.coh.out = s.coh.out ∧ u.coh.net = s.coh.net
     let sent := fun (x : AmoArgs) => reaches s { agent := c, line := ln, r := .amo c pa x, core := true }
     ready s c = true → predictorMode s.mode.mode = false → regTag s c ra = Tag.addr → va.toNat % 8 = 0 →
     memoryAddr s c va 8 .amo = .ok pa → isCxl pa = false → sent ⟨.add, b, b⟩ = true → homeRoom s ln = true → quiet s ln = true →
     (homeOf s ln).st = .st .i → old.poison = false →
     (tagIn s c rb accA = true → done (exec (.amoadd c rd ra rb o) s) ⟨.add, b, gread t rd⟩) ∧
     (tagIn s c rb accAny = true → done (exec (.amoswap c rd ra rb o) s) ⟨.swap, b, gread t rd⟩) ∧
     (tagIn s c rb accAny = true → tagIn s c rd accAny = true → done (exec (.amocas c rd ra rb o) s) ⟨.cas, b, gread t rd⟩) ∧
     (regTag s c rb = Tag.dec → done (exec (.damoadd c rd ra rb o) s) ⟨.dadd, b, gread t rd⟩)) ∧
  (∀ (b m e : TWord),
     (isIntRawUser m.tag = true → (m.tag = Tag.int → -(2 ^ 63) ≤ m.data.toInt + b.data.toInt ∧ m.data.toInt + b.data.toInt < 2 ^ 63) →
       amoApply false ⟨.add, b, e⟩ m = (.ok, some ⟨m.data + b.data, m.tag⟩)) ∧
     (m.tag = Tag.int → ¬(-(2 ^ 63) ≤ m.data.toInt + b.data.toInt ∧ m.data.toInt + b.data.toInt < 2 ^ 63) →
       amoApply false ⟨.add, b, e⟩ m = (.intOvf, none)) ∧
     (isIntRawUser m.tag = false → amoApply false ⟨.add, b, e⟩ m = (.tagMismatch m.tag, none)) ∧
     amoApply false ⟨.swap, b, e⟩ m = (.ok, some b) ∧
     (m = e → amoApply false ⟨.cas, b, e⟩ m = (.ok, some b)) ∧ (m ≠ e → amoApply false ⟨.cas, b, e⟩ m = (.ok, none)) ∧
     (m.tag = Tag.dec → decBad b.data = none → decBad m.data = none → (decVal m.data + decVal b.data).natAbs ≤ 999999999999999 →
       amoApply false ⟨.dadd, b, e⟩ m = (.ok, some ⟨decOf (decVal m.data + decVal b.data), Tag.dec⟩)) ∧
     (m.tag ≠ Tag.dec → amoApply false ⟨.dadd, b, e⟩ m = (.tagMismatch m.tag, none)))

/-- Fences and maintenance. FENCE only falls through in this model; IFENCE empties the instruction L1 of every member, where only the line
of the next instruction can then stand, and leaves the data L1; ZLINE on a line in E or M zero-fills it; CCLEAN, CFLUSH and CINV at a home
in I leave no copy beyond what R188 says, and write a modified L3 copy to memory first; L2WB with no modified line only falls through, and
raises PRIV at level U, as CINV does (R83, R84, R160, R187, R188, R189). -/
def Obligations.MaintenanceResults : Prop :=
  ∀ (s : State) (c : LC) (ra : Reg) (imm : BitVec 14) (pa : Nat), let t := curSet s c
    let va := regData s c ra + imm.signExtend 64
    let ln := lineOf pa
    let fell := fun (u : State) => (curSet u c).pc = (pastPc t .long).pc ∧ (curSet u c).g = t.g ∧ (curSet u c).tstat = t.tstat
    ready s c = true →
    exec (.fence c) s = .next (passed s c .long t) ∧
    (∃ u, exec (.ifence c) s = .next u ∧ fell u ∧ u.coh.l1d = s.coh.l1d ∧ u.mem = s.mem ∧
      ∀ n ∈ l1Members s c, ∀ x ∈ tget [] u.coh.l1i n, ∃ p, physical s c (pastPc t .long).pc.data 2 .exec = .ok p ∧ x = lineOf p) ∧
    (t.tstat.priv = true → modifiedLines s c = [] → exec (.l2wb c ra imm) s = .next (passed s c .long t)) ∧
    (t.tstat.priv = false → exec (.l2wb c ra imm) s = .next (raiseTrap s c .long { no := Trap.priv }) ∧
      ∃ r, r.no = Trap.priv ∧ exec (.cinv c ra imm) s = .next (raiseTrap s c .long r)) ∧
    (regTag s c ra = Tag.addr → ln < 2 ^ 45 →
      (va.toNat % 128 = 0 → memoryAddr s c va 128 .write = .ok pa → storeHit s c ln = true → coreAsks s c ln = false →
        ∃ u, exec (.zline c ra imm) s = .next u ∧ fell u ∧ l2Line u c ln = { l2Line s c ln with st := .st .m, data := Line.zero } ∧
          u.mem = s.mem) ∧
      (reaches s { agent := c, line := ln, r := .maint c .clean, core := true } = true → (lcore s c).reply = none →
        coreAsks s c ln = false → homeRoom s ln = true → quiet s ln = true → (homeOf s ln).st = .st .i →
        (memoryAddr s c va 1 .read = .ok pa →
          (∃ u, exec (.cclean c ra imm) s = .next u ∧ fell u ∧ (homeOf u ln).l3 = (homeOf s ln).l3 ∧ u.mem = (cleanL3 s ln).mem ∧
            ((homeOf s ln).l3 ≠ none → (homeOf u ln).l3Dirty = false)) ∧
          (∃ u, exec (.cflush c ra imm) s = .next u ∧ fell u ∧ (homeOf u ln).l3 = none ∧ u.mem = (cleanL3 s ln).mem ∧
            (homeOf u ln).st = .st .i)) ∧
        (t.tstat.priv = true → memoryAddr s c va 1 .write = .ok pa →
          ∃ u, exec (.cinv c ra imm) s = .next u ∧ fell u ∧ (homeOf u ln).l3 = none ∧ u.mem = (cleanL3 s ln).mem ∧
            (homeOf u ln).st = .st .i)))

/-- Requests with a free credit at a home whose line is in I with nothing queued: each takes its credit; RdShared and RdOwn grant the line
and wait for the requester's Cmp, an Upgrade of the only sharer is granted with Cmp, an AmoReq is performed in L3 and answered with the
old word, and a WrLine merges its bytes and is answered with Cmp. A request without a credit waits at its agent (R172, R175, R178, R181,
R226). Evictions at a home that records the sender: WbDirty writes L3 and leaves the line in I, WbClean leaves a clean L3 copy, EvictNote
of the last sharer leaves I; each is answered with Cmp, and the L2 waits for it in XI_A, the one eviction of the agent at the slice (R166,
R172, R175). -/
def Obligations.HomeTakesRequests : Prop :=
  (∀ (s : State) (a : Agent) (line : LineNo), let ln := line.toNat
     let ask := fun (r : HomeReq) => ({ agent := a, line := ln, r := r, row := true } : OutReq)
     let took := fun (u : State) (o : OutReq) (m : CohMsg) =>
       u.coh.net = s.coh.net ++ [{ m with since := pip s }] ∧ u.coh.out = s.coh.out ++ [{ o with since := pip s }]
     let grant : CohMsg := { kind := .dataExcl, agent := a, line := ln, data := homeData s ln }
     inService s = true → calm s 128 = true → (homeOf s ln).queue = [] →
     (∀ nc : Bool, isolatedFrom s (agentHalf a) ln = false → hasCredit s (ask (.rdShared a nc)) = false →
       exec (.rdshared a line nc) s = .next (modCoh s (fun c => { c with held := c.held ++ [ask (.rdShared a nc)] }))) ∧
     ((homeOf s ln).st = .st .i →
       (a.val < 128 → (l2Line s a ln).st = .i → reaches s (ask (.rdShared a false)) = true →
         (∃ u, exec (.rdshared a line false) s = .next u ∧ (l2Line u a ln).st = .isD ∧ (homeOf u ln).st = .bC a (.em a) ∧
           took u (ask (.rdShared a false)) grant ∧ u.mem = s.mem) ∧
         (∃ u, exec (.rdown a line false .none) s = .next u ∧ (l2Line u a ln).st = .imD ∧ (homeOf u ln).st = .bC a (.em a) ∧
           took u (ask (.rdOwn a false)) grant ∧ u.mem = s.mem) ∧
         (∃ u, exec (.rdown a line true .none) s = .next u ∧ (l2Line u a ln).st = .imD ∧ (homeOf u ln).st = .bC a (.em a) ∧
           took u (ask (.rdOwn a true)) { kind := .cmp, agent := a, line := ln } ∧ u.mem = s.mem)) ∧
       (∀ (pa : PAddr) (x : AmoArgs) (w : TWord), lineOf pa.toNat = ln → isCxl pa.toNat = false →
         (lineWord (homeData s ln) (wordOf pa.toNat % 16)).poison = false → reaches s (ask (.amo a pa.toNat x)) = true →
         amoApply false x (lineWord (homeData s ln) (wordOf pa.toNat % 16)).w = (.ok, some w) →
         ∃ u, exec (.amoreq a pa x) s = .next u ∧ (homeOf u ln).l3 = some ((homeData s ln).set (wordOf pa.toNat % 16) ⟨w, false⟩) ∧
           took u { ask (.amo a pa.toNat x) with learn := predictorMode s.mode.mode }
             { kind := .amoRsp, agent := a, line := ln, toRequest := true, old := (lineWord (homeData s ln) (wordOf pa.toNat % 16)).w }) ∧
       (∀ (d : IoDie) (bs : List Byte) (m : BitVec 128), bs.length = 128 → isCxl (ln * 128) = false →
         reaches s { agent := 128 + d, line := ln, r := .wrLine d bs m true, express := true } = true →
         ∃ u, exec (.wrline d line bs m true) s = .next u ∧ (homeOf u ln).l3 = some (mergeLine (homeData s ln) bs m) ∧
           (homeOf u ln).st = .st .i ∧ u.mem = s.mem ∧
           took u { agent := 128 + d, line := ln, r := .wrLine d bs m true, express := true, row := true }
             { kind := .cmp, agent := 128 + d, line := ln, toRequest := true })) ∧
     (∀ f, (homeOf s ln).st = .st (.s [a.val] f) → (l2Line s a ln).st = .st .s → reaches s (ask (.upgrade a false)) = true →
       ∃ u, exec (.upgrade a line false) s = .next u ∧ (l2Line u a ln).st = .smG false ∧ (homeOf u ln).st = .bC a (.em a) ∧
         took u (ask (.upgrade a false)) { kind := .cmp, agent := a, line := ln }) ∧
     (∀ x, (homeOf s ln).st = .bC a x → noneFor s a ln = true → passes s { kind := .cmpAtHome, agent := a, line := ln } = true →
       ∃ u, exec (.cmpAtHome a line) s = .next u ∧ (homeOf u ln).st = .st x ∧ u.coh.net = s.coh.net) ∧
     (∀ q, (homeOf s ln).st = .bA [a.val] (.upgrade q false) true → noneFor s a ln = true →
       passes s { kind := .invalAck, agent := a, line := ln } = true →
       ∃ u, exec (.invalack a line) s = .next u ∧ (homeOf u ln).st = .bC q (.em q) ∧
         u.coh.net = s.coh.net ++ [{ kind := .cmp, agent := q, line := ln, since := pip s }]) ∧
     (∀ (q : Nat) (d : Line), (homeOf s ln).st = .bFC a false true (.rdShared q false) (.em a) [] → d.length = 16 → q ≠ a.val →
       noneFor s a ln = true → passes s { kind := .dataAtHome, agent := a, line := ln } = true → isCxl (ln * 128) = false →
       ∃ u, exec (.dataAtHome a line d) s = .next u ∧ (homeOf u ln).st = .st (.s [q, a.val] (some q)) ∧ (homeOf u ln).l3 = some d ∧
         u.mem = s.mem)) ∧
  (∀ (s : State) (a : Agent) (line : LineNo), let ln := line.toNat
     let l := l2Line s a ln
     let net := s.coh.net ++ [{ kind := .cmp, agent := a, line := ln, since := pip s }]
     inService s = true → calm s 128 = true → a.val < 128 → noneFor s a ln = true → (homeOf s ln).queue = [] → isCxl (ln * 128) = false →
     evictBusy s a ln = false → evictDead s a ln = false → passes s { kind := .wbDirty, agent := a, line := ln } = true →
     (l.st = .st .m → (homeOf s ln).st = .st (.em a) →
       ∃ u, exec (.wbdirty a line) s = .next u ∧ (l2Line u a ln).st = .xiA .m ∧ (homeOf u ln).st = .st .i ∧
         (homeOf u ln).l3 = some l.data ∧ (homeOf u ln).l3Dirty = true ∧ u.coh.net = net ∧ u.mem = s.mem) ∧
     (l.st = .st .e → (homeOf s ln).st = .st (.em a) →
       ∃ u, exec (.wbclean a line) s = .next u ∧ (l2Line u a ln).st = .xiA .e ∧ (homeOf u ln).st = .st .i ∧
         (homeOf u ln).l3 = some l.data ∧ u.coh.net = net ∧ u.mem = s.mem) ∧
     (∀ f, l.st = .st .s → (homeOf s ln).st = .st (.s [a.val] f) →
       ∃ u, exec (.evictnote a line) s = .next u ∧ (l2Line u a ln).st = .xiA .s ∧ (homeOf u ln).st = .st .i ∧
         u.coh.net = net ∧ u.mem = s.mem))

/-- Messages at an L2 in the state that R172 gives a cell for: the message sent and the next state, and the credit that an answer to its
request returns (R172, R226). -/
def Obligations.CacheAnswersMessages : Prop :=
  ∀ (s : State) (a : Agent) (line : LineNo) (q : Agent), let ln := line.toNat
    let l := l2Line s a ln
    let cmp : CohMsg := { kind := .cmpAtHome, agent := a, line := ln, since := pip s }
    inService s = true → calm s 128 = true → a.val < 128 → noneFor s a ln = true → passes s { kind := .data, agent := a, line := ln } = true →
    (∀ d : Line, d.length = 16 → l.st = .isD →
      (∃ u, exec (.data a line d) s = .next u ∧ l2Line u a ln = { st := .st .f, data := d } ∧ u.coh.net = s.coh.net ++ [cmp] ∧
        ∀ o, outFor s a ln 0 = some o → u.coh.out = s.coh.out.erase o) ∧
      (∃ u, exec (.dataexcl a line d) s = .next u ∧ l2Line u a ln = { st := .st .e, data := d } ∧ u.coh.net = s.coh.net ++ [cmp])) ∧
    (l.st = .smG false → l.zero = false →
      ∃ u, exec (.cmp a line) s = .next u ∧ l2Line u a ln = { st := .st .m, data := l.data } ∧ u.coh.net = s.coh.net ++ [cmp]) ∧
    (∀ x, l.st = .xiA x → ∃ u, exec (.nack a line) s = .next u ∧ (l2Line u a ln).st = .xiW x ∧ (l2Line u a ln).data = l.data ∧
      u.coh.net = s.coh.net) ∧
    (l.st = .st .m →
      (∃ u, exec (.fwdshared a line q .plain) s = .next u ∧ (l2Line u a ln).st = .st .s ∧ u.coh.net = s.coh.net ++
        [{ kind := .data, agent := q, line := ln, data := l.data, src := some a.val, since := pip s },
         { kind := .dataAtHome, agent := a, line := ln, data := l.data, since := pip s }]) ∧
      (∃ u, exec (.fwdown a line q) s = .next u ∧ (l2Line u a ln).st = .i ∧ u.coh.net = s.coh.net ++
        [{ kind := .dataExcl, agent := q, line := ln, data := l.data, src := some a.val, since := pip s }]) ∧
      (∃ u, exec (.inval a line) s = .next u ∧ (l2Line u a ln).st = .i ∧ u.coh.net = s.coh.net ++
        [{ kind := .dataAtHome, agent := a, line := ln, data := l.data, since := pip s }])) ∧
    (l.st = .i → homeSlice s ln < 64 → ∃ u, exec (.inval a line) s = .next u ∧ u.coh = s.coh ∧ u.mem = s.mem ∧
      ∃ e ∈ u.faults.inbox, e.point = 672 + homeSlice s ln)

/-- Every well-formed command runs in every state: it has its effect, or it leaves the state where its event cannot occur (LOG 15); none
is refused. A command whose byte list cannot be its message's stops with the fault of its name: the model's own guard, no rule of the spec
(LOG 15). -/
def Obligations.WellFormedCommandsRun : Prop :=
  ((∀ (c : Instr) (s : State), c.wellFormed = true → ∃ t, exec c s = .next t) ∧
   (∀ (c : Instr) (s : State) (r : Refusal), exec c s ≠ .refused r)) ∧
  (∀ (s : State) (a : Agent) (line : LineNo) (d : IoDie) (l : Line) (bs : List Byte) (m : BitVec 128) (al : Bool),
     (bs.length ≠ 128 → exec (.wrline d line bs m al) s = .fault .malformed) ∧
     (l.length ≠ 16 → exec (.data a line l) s = .fault .malformed ∧ exec (.dataexcl a line l) s = .fault .malformed ∧
       exec (.dataAtHome a line l) s = .fault .malformed))

/-- Array errors: a corrected error is counted and, in L3, reported; an uncorrectable one poisons the word; one in a directory entry is
reported and poisons every copy. A CXL device may return a poisoned word (R215). An AmoRsp returns the credit of its AmoReq and reaches
the register through the replay buffer, and an eviction answered ISOLATED is dropped and reported (R139, R165, R182, R215, R226, R235). -/
def Obligations.ArrayErrorsAndIsolation : Prop :=
  ∀ (s : State) (a : Agent) (line : LineNo) (k : Fin 16) (set : BitVec 12) (way : BitVec 4), let ln := line.toNat
    inService s = true →
    (∃ u, exec (.cacheEccError (.l2 a line k) true) s = .next u ∧ tget 0 u.coh.l2Ce a = tget 0 s.coh.l2Ce a + 1 ∧
      u.coh.l2 = s.coh.l2 ∧ u.mem = s.mem) ∧
    (l2Holds (l2Line s a ln).st = true → ∃ u, exec (.cacheEccError (.l2 a line k) false) s = .next u ∧
      (k.val < (l2Line s a ln).data.length → (lineWord (l2Line u a ln).data k).poison = true) ∧ u.mem = s.mem) ∧
    (homeSlice s ln < 64 → ∃ u, exec (.cacheEccError (.l3 line k set way) true) s = .next u ∧
      (∃ e ∈ u.faults.inbox, e.point = 736 + homeSlice s ln) ∧ u.mem = s.mem) ∧
    (∀ (sl : Fin 64) (ls : List LineNo), ∃ u, exec (.cacheEccError (.dir sl set way ls) false) s = .next u ∧
      (∃ e ∈ u.faults.inbox, e.point = 608 + sl.val) ∧ u.mem = s.mem) ∧
    (∀ p, cxlPortOf (ln * 128) = some p → (cxlPort s p).capacity ≠ none → (cxlPort s p).lost = false →
      ∃ u, exec (.cacheEccError (.device line k) false) s = .next u ∧ Memory.poisoned u.mem (16 * ln + k) = true ∧
        (∀ b, Memory.byte u.mem b = Memory.byte s.mem b) ∧ u.coh = s.coh) ∧
    (∀ (pa : PAddr) (w : TWord) (st : AmoStatus) (m : CohMsg) (o : OutReq), a.val < 128 → m ∈ s.coh.net →
      inFlight s .amoRsp a (lineOf pa.toNat) = some m → passes s m = true → outFor s a (lineOf pa.toNat) 2 = some o →
      (o.core = false → calm s 128 = true →
        ∃ u, exec (.amorsp a pa w st false) s = .next u ∧ u.coh.net = s.coh.net.erase m ∧ u.coh.out = s.coh.out.erase o ∧ u.mem = s.mem) ∧
      (o.core = true → calm s a = true → m.status = .ok → takesInputs s a = true → (curSet s a).tstat.mcpend = false →
        (lcore s a).wait = none → ∀ r, (lcore s a).replay = some r → r.amo.any (fun x => !x.near) = true → r.vec = none →
        r.isolated = false →
        ∃ u, exec (.amorsp a pa w st false) s = .next u ∧ u.coh.out = s.coh.out.erase o ∧ (lcore u a).replay = none ∧
          taskSet u a r.set = gwrite (taskSet s a r.set) r.rd m.old ∧ u.mem = s.mem)) ∧
    (l2Holds (l2Line s a ln).st = true → a.val < 128 → evictDead s a ln = true →
      ∃ u, exec (.isolatedResponse (.eviction a line)) s = .next u ∧ (l2Line u a ln).st = .i ∧ u.mem = s.mem ∧
        ∃ e ∈ u.faults.inbox, e.point = 880 + a.val / 64)

/-! ## Trios -/

/-- A masked dissent in a trio running 2-of-3: the member leaves lockstep, DISSENT_COUNT counts it, the fault point reports, the owner
gets TRIO_DEGRADED, and a resync of the member begins, or within 1,000 pips of its lockstep entry the integration of a spare; a parity
error of an L1 is a dissent on every lane (R136, R145, R150, R156, R157, R161). No majority: one rollback and retry, counted, with the
state unchanged and a rebuild's step repeated; again before the retire point has advanced, the trio enters checkstop: fenced, MCPEND in
every set that is not EMPTY, TRIO_CHECKSTOP reported (R132, R140, R141, R142, R150). -/
def Obligations.DissentAndNoMajority : Prop :=
  (∀ (s : State) (t : TrioNo) (p : Pos) (lane : Fin 4) (k : CoreNo),
     (trio s t).state = .voted → lockstepSet (trio s t) = [0, 1, 2] → timeRuns s = true → coreOf (trio s t) p = some k.val →
     let hit := fun (o : Res) => ∃ u, o = .next u ∧ (member (trio u t) p).lockstep = false ∧
       (trio u t).dissentCount = (trio s t).dissentCount + 1 ∧ (∃ e ∈ u.faults.inbox, e.point = k.val) ∧
       (∀ q, partOf s (2 * t) = some q → (evSource u (1280 + q)).pending.getLsbD 0 = true) ∧
       (∃ r ∈ (trio u t).rebuilds, r.pos = p.val ∧ r.pip0 = pip s ∧ r.started = none) ∧
       (((member (trio s t) p).entryPip = none ∨ ∃ e, (member (trio s t) p).entryPip = some e ∧ e + 1000 < pip s) →
         (trio u t).state = .resync ∧ coreStat u k = coreStat s k) ∧
       (∀ e, (member (trio s t) p).entryPip = some e → pip s ≤ e + 1000 →
         (trio u t).state = .integrate ∧ coreStat u k = .retired) ∧
       u.lcores = s.lcores ∧ u.mem = s.mem ∧ (∀ n, n ≠ t.val → trio u n = trio s n)
     hit (exec (.voterDissent t p lane) s) ∧ (findCore s k = some (t.val, p.val) → hit (exec (.l1ParityError k) s))) ∧
  (∀ (s : State) (t : TrioNo), votes (trio s t) = true → timeRuns s = true →
     ((trio s t).retryAt ≠ some (lcore s (2 * t)).retired →
       ∃ u, exec (.voterNoMajority t) s = .next u ∧ (trio u t).state = (trio s t).state ∧
         (trio u t).retryCount = (trio s t).retryCount + 1 ∧ (trio u t).retryAt = some (lcore s (2 * t)).retired ∧
         u.lcores = s.lcores ∧ u.mem = s.mem ∧ u.faults = s.faults) ∧
     ((trio s t).retryAt = some (lcore s (2 * t)).retired → (trio s t).rebuilds = [] →
       ∃ u, exec (.voterNoMajority t) s = .next u ∧ (trio u t).state = .checkstop ∧ (trio u t).ckPip0 = some (pip s) ∧
         (trio u t).ckCount = (trio s t).ckCount + 1 ∧ lockstepSet (trio u t) = [] ∧
         (∃ e ∈ u.faults.inbox, e.point = 416 + t.val) ∧ (lcore u (2 * t)).mcCause = 1 ∧
         (∀ e ∈ (lcore u (2 * t)).sets, e.2.tstat.state ≠ .empty → e.2.tstat.mcpend = true) ∧ runs u (2 * t) = false ∧ u.mem = s.mem))

/-- Checkstop recovery pip by pip: a failed array check in pips 2 to 5 retires the member, shadows are compared in pips 6 to 21; at pip 22
the trio resumes 2-of-3 when three members passed and agree, 2-of-2 when exactly two agree, and else is FAILED (R142, R143, R144). A
rebuild that reaches its limit is abandoned and a spare's integration begins with pip 0 in this pip (R145, R147). -/
def Obligations.CheckstopRecovery : Prop :=
  (∀ (s : State) (t : TrioNo) (o : CheckObs) (k0 : Nat), inService s = true → (trio s t).state = .checkstop →
     (trio s t).ckPip0 = some k0 →
     ((trio s t).ckLastPip < pip s → 6 ≤ pip s - k0 → pip s - k0 ≤ 21 →
       ∃ u, exec (.checkstopRecoveryPip t o) s = .next u ∧ (trio u t).agreeAB = ((trio s t).agreeAB && o.agreeAB) ∧
         (trio u t).agreeBC = ((trio s t).agreeBC && o.agreeBC) ∧ (trio u t).agreeAC = ((trio s t).agreeAC && o.agreeAC) ∧
         (trio u t).state = .checkstop ∧ u.lcores = s.lcores) ∧
     ((trio s t).ckLastPip < pip s → 2 ≤ pip s - k0 → pip s - k0 ≤ 5 → ∀ (arr : BitVec 4) (k : CoreNo),
       o.failA = some arr → o.failB = none → o.failC = none → coreOf (trio s t) 0 = some k.val →
       (trio s t).ckMembers = [0, 1, 2] → (trio s t).ckFailed = [] →
       ∃ u, exec (.checkstopRecoveryPip t o) s = .next u ∧ (trio u t).ckFailed = [0] ∧ coreStat u k = .retired ∧
         coreOf (trio u t) 0 = none ∧ ∃ e ∈ u.faults.inbox, e.point = 208 + k.val) ∧
     (k0 + 22 ≤ pip s → agreeing (trio s t) = [(0, 1), (0, 2), (1, 2)] →
       (∀ j, (taskSet s (2 * t) j).tstat.mcpend = false) → (lcore s (2 * t)).replay = none →
       ∃ u, exec (.checkstopResume t) s = .next u ∧ (trio u t).state = .voted ∧ lockstepSet (trio u t) = [0, 1, 2] ∧
         (trio u t).ckPip0 = none) ∧
     (k0 + 22 ≤ pip s → agreeing (trio s t) = [(0, 1)] → (trio s t).ckMembers = [0, 1, 2] → (trio s t).ckFailed = [] →
       (∀ j, (taskSet s (2 * t) j).tstat.mcpend = false) → (lcore s (2 * t)).replay = none →
       ∃ u, exec (.checkstopResume t) s = .next u ∧ (trio u t).state = .resync ∧ (member (trio u t) 0).lockstep = true ∧
         (member (trio u t) 1).lockstep = true ∧ ∃ r ∈ (trio u t).rebuilds, r.pos = 2 ∧ r.integrate = false ∧ r.pip0 = pip s) ∧
     (k0 + 22 ≤ pip s → agreeing (trio s t) = [] →
       ∃ u, exec (.checkstopResume t) s = .next u ∧ (trio u t).state = .failed ∧ (lcore u (2 * t)).failed = true ∧
         (∀ j, taskSet u (2 * t) j = taskSet s (2 * t) j))) ∧
  (∀ (s : State) (t : TrioNo) (p : Pos) (r : Rebuild) (k : Nat), inService s = true → (trio s t).state ≠ .split →
     (trio s t).rebuilds.find? (fun x => x.pos == p.val) = some r → r.started = some k →
     (limitPip r k < pip s → ∃ u, exec (.rebuildLimit t p) s = .next u ∧ (trio u t).state = .integrate ∧
       (∀ n : CoreNo, coreOf (trio s t) p = some n.val → coreStat u n = .retired) ∧ coreOf (trio u t) p = none ∧
       ∃ x ∈ (trio u t).rebuilds, x.pos = p.val ∧ x.integrate = true ∧ x.pip0 = pip s ∧ x.started = none) ∧
     (pip s ≤ limitPip r k → exec (.rebuildLimit t p) s = .next s) ∧
     limitPip r k = max r.pip0 (k - 1) + (if r.integrate then 50 else 40))

/-- A split core's first error at a checkpoint is retried and counted; a second is a core checkstop with MACHINE_CHECK subcause 2 pending;
after its arrays pass in pip 6 it resumes (R155, R158). -/
def Obligations.SplitCoreErrors : Prop :=
  ∀ (s : State) (c : LC), let n := trioOf c
    let l := lcore s c
    (trio s n).state = .split → timeRuns s = true → l.failed = false →
    (l.ckPip0 = none → l.splitRetryAt ≠ some l.retired →
      ∃ u, exec (.splitCoreError c) s = .next u ∧ (lcore u c).splitRetryAt = some l.retired ∧ (lcore u c).ckPip0 = none ∧
        (trio u n).retryCount = (trio s n).retryCount + 1 ∧ u.faults = s.faults ∧ (∀ j, taskSet u c j = taskSet s c j)) ∧
    (l.ckPip0 = none → l.splitRetryAt = some l.retired →
      ∃ u, exec (.splitCoreError c) s = .next u ∧ (lcore u c).ckPip0 = some (pip s) ∧ (lcore u c).mcCause = 2 ∧
        (trio u n).ckCount = (trio s n).ckCount + 1 ∧ (∃ e ∈ u.faults.inbox, e.point = 416 + n) ∧
        (∀ e ∈ (lcore u c).sets, e.2.tstat.state ≠ .empty → e.2.tstat.mcpend = true) ∧ runs u c = false) ∧
    (∀ k0, inService s = true → l.ckPip0 = some k0 → k0 + 6 ≤ pip s → l.replay = none → (curSet s c).tstat.mcpend = false →
      (∀ r ∈ (trio s n).rebuilds, r.pos ≠ c.val % 2) →
      ∃ u, exec (.splitCoreResume c none true) s = .next u ∧ (lcore u c).ckPip0 = none ∧ (∀ j, taskSet u c j = taskSet s c j)) ∧
    (∀ (k0 : Nat) (arr : BitVec 4) (k : CoreNo), inService s = true → l.ckPip0 = some k0 → k0 + 5 ≤ pip s →
      (∀ r ∈ (trio s n).rebuilds, r.pos ≠ c.val % 2) → coreOf (trio s n) (c.val % 2) = some k.val →
      (∃ u, exec (.splitCoreResume c (some arr) true) s = .next u ∧ coreStat u k = .retired ∧ (lcore u c).mcCause = 3 ∧
        (trio u n).state = .split ∧ ∃ x ∈ (trio u n).rebuilds, x.pos = c.val % 2 ∧ x.integrate = true ∧ x.pip0 = k0 + 5) ∧
      (∃ u, exec (.splitCoreResume c (some arr) false) s = .next u ∧ coreStat u k = .retired ∧ (lcore u c).failed = true))

/-! ## Memory and network events -/

/-- Errors of a powered, unfenced stack: a correctable line is counted and reported; of an uncorrectable line all 16 words are poisoned
and nothing else of memory changes; a command or address parity error that persists is handled as an uncorrectable line; a PHY failure
fences the stack, puts it behind a hull and notifies every partition with memory there (R206). A patrol step scrubs one group, the next
follows PATROL_STEP pips later, and the last starts a new pass (R201, R202, R203). A stack whose queue has been full under 80 % for 1,000
pips is SLOW and each partition with memory there is told once for the onset (R208). In M9 a stack idle for 1,000 pips enters self-refresh
with its contents kept (R192). The loss of a CXL link is reported and the window goes behind a hull (R215). -/
def Obligations.MemoryErrors : Prop :=
  (∀ (s : State) (j : StackNo) (pa : PAddr), timeRuns s = true → stackUp s j = true →
     (stackOf s pa.toNat = some j.val →
       (∃ u, exec (.hbmCorrectableError pa) s = .next u ∧ (stack u j).ceCount = (stack s j).ceCount + 1 ∧
         reported u (800 + j.val) ∧ u.mem = s.mem ∧ (stack u j).state = (stack s j).state) ∧
       (∃ u, exec (.hbmUncorrectableError pa) s = .next u ∧ (stack u j).ueCount = (stack s j).ueCount + 1 ∧ reported u (808 + j.val) ∧
         u.mem.bytes = s.mem.bytes ∧ u.mem.tags = s.mem.tags ∧
         (∀ w, Memory.poisoned u.mem w = (Memory.poisoned s.mem w || decide (w / 16 = pa.toNat / 128)))) ∧
       (∃ u, exec (.hbmCaParityError pa false) s = .next u ∧ reported u (816 + j.val) ∧ u.mem = s.mem ∧ u.stackTab = s.stackTab) ∧
       (∃ u, exec (.hbmCaParityError pa true) s = .next u ∧ reported u (816 + j.val) ∧ reported u (808 + j.val) ∧
         (stack u j).ueCount = (stack s j).ueCount + 1 ∧
         (∀ w, Memory.poisoned u.mem w = (Memory.poisoned s.mem w || decide (w / 16 = pa.toNat / 128))))) ∧
     (∃ u, exec (.hbmPhyFailure j) s = .next u ∧ (stack u j).state = .fenced ∧ reported u (824 + j.val) ∧
       targetDead u (HullAt.stack j) = true ∧ u.mem = s.mem ∧
       (∀ p, p < 16 → partOnStack s p j = true → noticed u p Notice.memStackLost)) ∧
     (∀ cs us, patrolOn s j = true → (stack s j).patrolNext ≤ pip s →
       ∃ u, exec (.patrolScrubStep j cs us) s = .next u ∧
         (stack u j).patrolNext = pip s + scrubHours s * 3600000000 / 37748736 ∧ u.mem.bytes = s.mem.bytes ∧
         ((stack s j).patrolGroup + 1 < 37748736 →
           (stack u j).patrolGroup = (stack s j).patrolGroup + 1 ∧ (stack u j).passCount = (stack s j).passCount) ∧
         ((stack s j).patrolGroup + 1 = 37748736 → (stack u j).patrolGroup = 0 ∧ (stack u j).passCount = (stack s j).passCount + 1) ∧
         (us = [] → u.mem = s.mem) ∧
         (∀ (i : Fin 7) (a : Nat) (k : Fin 16), i ∈ us → patrolAddr s j i = some a → stackOf s a = some j.val →
           Memory.poisoned u.mem (16 * (a / 128) + k) = true))) ∧
  (∀ (s : State) (j : StackNo),
     ((stack s j).slowNow = false → 1000 ≤ (stack s j).slowPips →
       ∃ u, exec (.stackSlow j) s = .next u ∧ (stack u j).slow = true ∧ (stack u j).slowNow = true ∧
         (stack u j).state = (stack s j).state ∧ u.mem = s.mem ∧
         (∀ p, p < 16 → partOnStack s p j = true → noticed u p Notice.stackSlow)) ∧
     (((stack s j).slowNow = true ∨ (stack s j).slowPips < 1000) → exec (.stackSlow j) s = .next s) ∧
     (s.mode.parkCond = true → coldDie s (j.val / 4) = false → stackServes s j = true → 1000 ≤ (stack s j).idlePips →
       ∃ u, exec (.stackSelfRefreshEntry j) s = .next u ∧ (stack u j).state = .selfRefresh ∧ wakeOf u (.stack j) = .asleep ∧
         u.mem = s.mem ∧ (∀ i, i ≠ j.val → stack u i = stack s i)) ∧
     (∀ (k : PortNo) (b : Bool), timeRuns s = true → (cxlPort s k).lost = false → (cxlPort s k).capacity.isSome = true →
       ∃ u, exec (.cxlLinkLoss k b) s = .next u ∧ (cxlPort u k).lost = true ∧ (cxlPort u k).capacity = (cxlPort s k).capacity ∧
         reported u (840 + k.val) ∧ targetDead u (HullAt.cxl k) = true ∧ u.mem = s.mem))

/-- Die-to-die links: the sixteenth resend of one flit in one pip, and a training of a link in use that fails, take the link down to
retrain within 4 pips and are reported; a retraining that fails keeps it down, one that succeeds brings it up; one half-to-half link left
tells every partition; an I/O die without a link to one half is lost (R219, R220, R221, R222). With all four half-to-half links down and
both halves healthy M7 is committed, with hulls at the link ports, while a half that is not healthy is lost, and with no husk to commit it
nothing changes (R237); it ends through M10 when a retraining after 1,000 pips brings at least two links up (R241, R493); a spanning
partition with no accepted work left restarts in its home half where its memory fits, and else stays held (R238, R239). -/
def Obligations.DieLinks : Prop :=
  (∀ (s : State) (l : LinkId) (f : Nat), let k := linkNo l
     let count := if (link s k).resendPip = pip s then tget 0 (link s k).resends f else 0
     diesPowered s = true →
     ((link s k).up = true → count < 15 →
       ∃ u, exec (.flitCrcError { link := l, flit := f }) s = .next u ∧ (link u k).up = true ∧ tget 0 (link u k).resends f = count + 1 ∧
         (link u k).resendPip = pip s ∧ (∀ n, n ≠ k → link u n = link s n) ∧ u.faults = s.faults ∧ u.coh = s.coh ∧
         ((link s k).resendPip = pip s → ∀ g, g ≠ f → tget 0 (link u k).resends g = tget 0 (link s k).resends g)) ∧
     ((link s k).up = true → count = 15 →
       ∃ u, exec (.flitCrcError { link := l, flit := f }) s = .next u ∧ (link u k).up = false ∧ (link u k).retrainBy = some (pip s + 4) ∧
         reported u (linkPoint l) ∧
         (∀ d h e, l = .io d h e → (link s (linkNo (.io d h (1 - e)))).up = false → dieLost u (2 + d) = true) ∧
         (∀ i, l = .d2d i → d2dUp s = 2 → s.net.d2dDegraded = false → ∀ p, p < 16 → noticed u p Notice.d2dDegraded)) ∧
     ((link s k).downForRejoin = false → (link s k).up = false →
       ∃ u, exec (.linkTrainingEnd l true) s = .next u ∧ link u k = {}) ∧
     ((link s k).downForRejoin = false → (link s k).retrainBy.isSome = true →
       ∃ u, exec (.linkTrainingEnd l false) s = .next u ∧ (link u k).downForRejoin = true ∧ (link u k).retrainBy = none ∧
         (link u k).up = (link s k).up ∧ reported u (linkPoint l)) ∧
     ((link s k).downForRejoin = false → (link s k).up = true → (link s k).retrainBy = none →
       ∃ u, exec (.linkTrainingEnd l false) s = .next u ∧ (link u k).up = false ∧ (link u k).retrainBy = some (pip s + 4) ∧
         reported u (linkPoint l)) ∧
     ((link s k).downForRejoin = true → ∀ b, exec (.linkTrainingEnd l b) s = .next s)) ∧
  (∀ (s : State),
     (s.mode.base = 5 → s.mode.mode ≠ 11 → s.mode.split = false → d2dUp s = 0 → dieLost s 0 = false → dieLost s 1 = false →
       actingHusk s ≠ none →
       (s.net.healthy.getLsbD 0 = false → s.net.healthy.getLsbD 1 = true →
         ∃ u, exec .splitLinkIsolation s = .next u ∧ dieLost u 0 = true ∧ dieLost u 1 = false ∧ u.mode.split = false) ∧
       (s.net.healthy.getLsbD 0 = true → s.net.healthy.getLsbD 1 = false →
         ∃ u, exec .splitLinkIsolation s = .next u ∧ dieLost u 1 = true ∧ dieLost u 0 = false ∧ u.mode.split = false) ∧
       (s.net.healthy = 3#2 → ∃ u, exec .splitLinkIsolation s = .next u ∧ u.mode.split = true ∧ u.mode.mode = 7 ∧
         u.net.lastRetrain = pip s ∧ (∀ i : Fin 4, (hull u (24 + i.val)).active = true))) ∧
     (actingHusk s = none → exec .splitLinkIsolation s = .next s) ∧
     (∀ up : BitVec 4, inService s = true → s.mode.split = true → s.net.lastRetrain + 1000 ≤ pip s →
       ∃ u, exec (.m7Retrain up) s = .next u ∧ u.net.lastRetrain = pip s ∧ (∀ i : Fin 4, (link u i).up = up.getLsbD i) ∧
         (2 ≤ ((List.range 4).filter (fun i => up.getLsbD i)).length → u.mode.split = false ∧ u.mode.mode = 10 ∧ 8 ∈ u.mode.rejoining) ∧
         (((List.range 4).filter (fun i => up.getLsbD i)).length < 2 → u.mode = s.mode)) ∧
     (∀ p : PartNo, inService s = true → (part s p).evaluate = true → (part s p).state = .held →
       (∀ e ∈ s.exchs, e.part = p.val → isAccepted e = true → 10 ≤ exRank e.st) →
       let free := if (part s p).homeHalf = 0 then s.mode.m7Free.1 else s.mode.m7Free.2
       (partBytesIn s p (part s p).homeHalf + free < partBytes s p →
         ∃ u, exec (.spanningPartitionEvaluate p) s = .next u ∧ (part u p).state = .held ∧ (part u p).evaluate = false ∧
           u.mem = s.mem) ∧
       (partBytes s p ≤ partBytesIn s p (part s p).homeHalf + free → memAll8 s = true →
         ∃ u, exec (.spanningPartitionEvaluate p) s = .next u ∧ (part u p).state = .resetting ∧ (part u p).after = .running ∧
           (part u p).ranges = (part s p).ranges ∧ (∀ c, c ∈ coresOf s p → (lcore u c).held = true))))

/-- A packet starts the wake of a sleeping domain and later ones wait, but in M9 no vector wakes a trio; at the end of the wake the domain
runs; a wake 1 pip past its bound of 2, 3 or 5 pips is reported by its die (R229, R230, R231). A target that has not answered a request
across 8 pip edges is reported by the requester's die, the timer of a waking target running only from the pip in which its wake exceeds
the bound (R231, R232); a declared target gets its hull with the cause (R233, R236); a hull answers requests and counts them, drops and
counts posted writes and responses to its target, and discards and counts what the target sends (R234, R236); a die that no renewal has
reached for more than 2,100 pips stops itself, a half with its stacks in self-refresh (R240). -/
def Obligations.SleepAndDeadTargets : Prop :=
  (∀ (s : State) (d : Domain), inService s = true →
     (wakeOf s d = .asleep → (s.mode.parkCond = false ∨ ∀ t, d ≠ .trio t) →
       ∃ u, exec (.domainWake d) s = .next u ∧ wakeOf u d = .waking (pip s) 1 ∧
         (∀ e, d = .engine e → (eng s e).state = .sleep → (eng u e).state = .waking)) ∧
     (∀ t, d = .trio t → wakeOf s d = .asleep → s.mode.parkCond = true → exec (.domainWake d) s = .next s) ∧
     (∀ k n, wakeOf s d = .waking k n →
       (∃ u, exec (.domainWake d) s = .next u ∧ wakeOf u d = .waking k (n + 1)) ∧
       (∃ u, exec (.domainWakeDone d) s = .next u ∧ wakeOf u d = .awake ∧
         ((∀ j, d ≠ .stack j) → u.mem = s.mem) ∧ ((∀ t, d ≠ .trio t) → (∀ e ∈ s.coh.homes, e.2.queue = []) → u.mem = s.mem ∧ u.coh = s.coh) ∧
         (∀ e, d = .engine e → (eng s e).state = .waking → (eng u e).state = .active) ∧
         (∀ j, d = .stack j → (stack s j).state = .selfRefresh → (stack u j).state = .active) ∧
         (∀ t, d = .trio t → (trio u t).parked = false)) ∧
       (k + (match d with | .engine _ => 2 | .stack _ => 3 | .trio _ => 5) < pip s →
         ∃ u, exec (.wakeOverrun d) s = .next u ∧
           reported u (874 + (match d with | .engine e => 2 + e.val / 8 | .stack j => j.val / 4 | .trio t => t.val / 32)) ∧
           u.net = s.net) ∧
       (pip s ≤ k + (match d with | .engine _ => 2 | .stack _ => 3 | .trio _ => 5) → exec (.wakeOverrun d) s = .next s))) ∧
  (∀ (s : State) (h : HullPos) (d : DieNo),
     (∀ o ∈ s.coh.out, diesPowered s = true → agentDie o.agent = d.val → h.val ∈ lineTargets s o.line →
       max o.since (timerFrom s h) + 8 ≤ pip s →
       ∃ u, exec (.netTimeout d h) s = .next u ∧ reported u (868 + d.val) ∧ u.net = s.net) ∧
     ((∀ q ∈ unanswered s, q.1 = d.val → q.2.1 = h.val → pip s < max q.2.2 (timerFrom s h) + 8) → exec (.netTimeout d h) s = .next s) ∧
     (∀ c k, s.net.dead.find? (fun e => e.1 == h.val) = some (h.val, c, k) →
       ∃ u, exec (.hullPlacement h) s = .next u ∧ (hull u h).active = true ∧ (hull u h).ever = true ∧ (hull u h).cause = c ∧
         u.net.dead = s.net.dead.filter (fun e => e.1 != h.val) ∧ (∀ n, n ≠ h.val → hull u n = hull s n)) ∧
     ((hull s h).active = true →
       (∃ u, exec (.hullArrival h .request) s = .next u ∧ hull u h = { hull s h with isoCount := (hull s h).isoCount + 1 }) ∧
       (∃ u, exec (.hullArrival h .posted) s = .next u ∧ hull u h = { hull s h with dropped := (hull s h).dropped + 1 }) ∧
       (∃ u, exec (.hullArrival h .response) s = .next u ∧ hull u h = { hull s h with dropped := (hull s h).dropped + 1 }) ∧
       (∃ u, exec (.hullArrival h .fromTarget) s = .next u ∧ hull u h = { hull s h with late := (hull s h).late + 1 } ∧
         u.mem = s.mem ∧ u.coh = s.coh)) ∧
     (2 ≤ s.mode.base → s.mode.mode ≠ 11 → dieLost s d = false → tget 0 s.net.renewSeen d + 2100 < pip s →
       ∃ u, exec (.dieSelfStop d) s = .next u ∧ dieLost u d = true ∧ tget 0 u.net.lostPip d = pip s ∧
         targetDead u (HullAt.die d) = true ∧
         (d.val < 2 → ∀ j : Fin 4, (stack s (4 * d + j)).state ≠ .fenced → (stack s (4 * d + j)).state ≠ .unpowered →
           (stack u (4 * d + j)).state = .selfRefresh)))

/-! ## Rings and exchanges -/

/-- SQ_TAIL, CQ_HEAD and EQ_TAIL: a write that moves a counter backwards, or past what the ring or queue holds, has no effect but
DB_ERROR; another is taken, and a submission level that goes from below its mark to at or above it raises the watermark cause, sets WM_HIT
and counts a crossing (R249, R250, R285, R359). Outside a live page the write is dropped and counted (R334). Writing 1 to bit 17 of a
watermark's status clears it and sets PEAK to the level (R286). -/
def Obligations.RingCounters : Prop :=
  ∀ (s : State) (sl : SliceNo) (r : PairNo) (v : W64), inService s = true →
    let key := pairKey sl r
    let x := ring s key
    let q := eqq s key
    let t : W32 := v.setWidth 32
    (pageLive s sl r = true →
      ((2 ^ 31 ≤ (t - x.sqTail).toNat ∨ 2 ^ x.sqK < (t - x.sqHead).toNat) →
        ∃ u, exec (.sqTailWrite sl r v) s = .next u ∧ ring u key = { x with dbError := true } ∧ u.events = s.events ∧
          u.exchs = s.exchs ∧ u.mem = s.mem) ∧
      ((t - x.sqTail).toNat < 2 ^ 31 → (t - x.sqHead).toNat ≤ 2 ^ x.sqK →
        ∃ u, exec (.sqTailWrite sl r v) s = .next u ∧ (ring u key).sqTail = t ∧ (ring u key).sqHead = x.sqHead ∧
          (ring u key).cqHead = x.cqHead ∧ (ring u key).cqTail = x.cqTail ∧ (ring u key).dbError = x.dbError ∧
          (ring u key).sqWmSt.peak = max x.sqWmSt.peak (t - x.sqHead).toNat ∧ u.exchs = s.exchs ∧ u.mem = s.mem ∧
          (x.sqWm ≠ 0 → (x.sqTail - x.sqHead).toNat < x.sqWm → x.sqWm ≤ (t - x.sqHead).toNat →
            caused u x.source 1 ∧ (ring u key).sqWmSt.hit = true ∧ (ring u key).sqWmSt.crossings = x.sqWmSt.crossings + 1) ∧
          ((x.sqWm = 0 ∨ x.sqWm ≤ (x.sqTail - x.sqHead).toNat ∨ (t - x.sqHead).toNat < x.sqWm) →
            (ring u key).sqWmSt.hit = x.sqWmSt.hit ∧ (ring u key).sqWmSt.crossings = x.sqWmSt.crossings)) ∧
      ((2 ^ 31 ≤ (t - x.cqHead).toNat ∨ 2 ^ 31 ≤ (x.cqTail - t).toNat) →
        ∃ u, exec (.cqHeadWrite sl r v) s = .next u ∧ ring u key = { x with dbError := true } ∧ u.events = s.events) ∧
      ((t - x.cqHead).toNat < 2 ^ 31 → (x.cqTail - t).toNat < 2 ^ 31 →
        ∃ u, exec (.cqHeadWrite sl r v) s = .next u ∧ (ring u key).cqHead = t ∧ (ring u key).cqTail = x.cqTail ∧
          (ring u key).sqTail = x.sqTail ∧ (ring u key).sqHead = x.sqHead ∧ (ring u key).dbError = x.dbError) ∧
      (∃ u, exec (.wmStatusClear sl r .sq v) s = .next u ∧
        ring u key = (if v.getLsbD 17 then { x with sqWmSt := { crossings := 0, hit := false, peak := (x.sqTail - x.sqHead).toNat } } else x)) ∧
      (∃ u, exec (.wmStatusClear sl r .cq v) s = .next u ∧
        ring u key = (if v.getLsbD 17 then { x with cqWmSt := { crossings := 0, hit := false, peak := (x.cqTail - x.cqHead).toNat } } else x))) ∧
    (queueLive s sl r = true →
      ((2 ^ 31 ≤ (t - q.eqTail).toNat ∨ 2 ^ q.k < (t - q.eqHead).toNat) →
        ∃ u, exec (.eqTailWrite sl r v) s = .next u ∧ eqq u key = { q with dbError := true } ∧ u.events = s.events) ∧
      ((t - q.eqTail).toNat < 2 ^ 31 → (t - q.eqHead).toNat ≤ 2 ^ q.k →
        ∃ u, exec (.eqTailWrite sl r v) s = .next u ∧ (eqq u key).eqTail = t ∧ (eqq u key).eqHead = q.eqHead ∧
          (eqq u key).dbError = q.dbError ∧
          (q.wm ≠ 0 → (q.eqTail - q.eqHead).toNat < q.wm → q.wm ≤ (t - q.eqHead).toNat →
            caused u q.source 10 ∧ (eqq u key).wmSt.hit = true)) ∧
      (∃ u, exec (.wmStatusClear sl r .eq v) s = .next u ∧
        eqq u key = (if v.getLsbD 17 then { q with wmSt := { crossings := 0, hit := false, peak := (q.eqTail - q.eqHead).toNat } } else q))) ∧
    ((sliceE s sl).state ≠ .free →
      (x.active = false →
        exec (.sqTailWrite sl r v) s = .next (dropWrite s (sliceE s sl).part) ∧
        exec (.cqHeadWrite sl r v) s = .next (dropWrite s (sliceE s sl).part)) ∧
      (q.active = false → exec (.eqTailWrite sl r v) s = .next (dropWrite s (sliceE s sl).part))) ∧
    ((sliceE s sl).state = .free →
      exec (.sqTailWrite sl r v) s = .next s ∧ exec (.cqHeadWrite sl r v) s = .next s ∧ exec (.eqTailWrite sl r v) s = .next s)

/-- Acceptance: the copy of a descriptor is confirmed over its pair's mirror link (R16, R266), and a confirmed descriptor that is next in
its ring is accepted as SQ_HEAD passes it. One that breaks the layout or names a group it may not use, or that has been closed, completes
without a frame, and so does one that repeats a live SEQUENCE (R253, R256, R259, R261, R287), all with SYNTH (R264). A CANCEL with no live
target gets NOT_FOUND, one whose target another CANCEL holds gets ALREADY_CANCELLING and leaves it alone, one whose target has sent no
frame cancels it at once, one whose target is in flight sends its ABORT, and one whose target is complete gets TOO_LATE (R280). A
descriptor fetch reads the slot of the next count and, with a CHAIN its members, and allocates the entries; nothing is accepted yet. A
slot that cannot be read sets FETCH_ERROR, raises RING_FAULT and stops fetch (R252, R253, R254, R262, R266). -/
def Obligations.Acceptance : Prop :=
  (∀ (s : State) (x : ExId) (e : Exch), let key := pairKey x.slice x.pair
     let quiet := fun (u : State) => ∀ n, (chan u n).wire = (chan s n).wire
     inService s = true → exch s x = some e → e.res = none →
     (e.st = .allocated → 1 ≤ e.opcode → e.opcode ≤ 7 → mirrors s x.pair = true →
       ∃ u, exec (.mirrorConfirm x) s = .next u ∧ exch u x = some { e with st := .mirrored } ∧ u.rings = s.rings) ∧
     (mirrors s x.pair = false → exec (.mirrorConfirm x) s = .next s) ∧
     (∀ op row, (op, row) ∈ [(1, Instr.read x), (2, .write x), (3, .control x), (4, .sense x), (6, .echo x)] →
       e.opcode = op → acceptReady s e = true → membersOf s x = [] →
       ∃ u e', exec row s = .next u ∧ exch u x = some e' ∧ (ring u key).sqHead = (ring s key).sqHead + 1 ∧ quiet u ∧
         (e'.st = .accepted ∨ e'.st = .inFlight) ∧
         (∀ f, e.dataFault = some f → e'.res = some { f with synth := true }) ∧
         (e.dataFault = none → groupOk s e.group x.pair e.part = false → e'.res = some { code := 0x07, detail := 0, synth := true }) ∧
         (acceptFault s e = none → seqLive s e = true → e'.res = some { code := 0x09, detail := 0, synth := true })) ∧
     (e.opcode = 5 → acceptReady s e = true → (∀ m ∈ membersOf s x, m.id.slice = x.slice ∧ m.id.pair = x.pair) →
       ∃ u e', exec (.chain x) s = .next u ∧ exch u x = some e' ∧ isAccepted e' = true ∧
         (ring u key).sqHead = (ring s key).sqHead + 1 + BitVec.ofNat 32 (membersOf s x).length ∧ quiet u) ∧
     (e.opcode = 7 → acceptReady s e = true → membersOf s x = [] → e.length = 0 → e.flags = 0 → acceptFault s e = none → seqLive s e = false →
       let live := fun (o : Exch) => o.id.slice = x.slice ∧ o.gen = e.gen ∧ o.id ≠ x ∧ isAccepted o = true ∧ o.seqNo = e.arg.toNat % 2 ^ 24
       ((∀ o ∈ s.exchs, ¬ live o) →
         ∃ u e', exec (.cancel x) s = .next u ∧ exch u x = some e' ∧ e'.res = some { code := 0x12, detail := 0, synth := true } ∧ quiet u) ∧
       (∀ o y, exch s o.id = some o → live o → (∀ p ∈ s.exchs, live p → p = o) → o.cancelledBy = some y →
         ∃ u e', exec (.cancel x) s = .next u ∧ exch u x = some e' ∧ e'.res = some { code := 0x13, detail := 0, synth := true } ∧ quiet u ∧
           ∃ o', exch u o.id = some o' ∧ o'.cancelledBy = some y) ∧
       (∀ o, exch s o.id = some o → live o → (∀ p ∈ s.exchs, live p → p = o) → o.cancelledBy = none → o.res = none → o.st = .accepted →
         o.opcode ≠ 5 →
         ∃ u e' o', exec (.cancel x) s = .next u ∧ exch u o.id = some o' ∧ o'.res = some { code := 0x02, detail := 0, synth := true } ∧
           exch u x = some e' ∧ e'.target = some o.id ∧ quiet u) ∧
       (∀ o, exch s o.id = some o → live o → (∀ p ∈ s.exchs, live p → p = o) → o.cancelledBy = none → 7 ≤ exRank o.st →
         ∃ u e' o', exec (.cancel x) s = .next u ∧ exch u x = some e' ∧ e'.res = some { code := 0x11, detail := 0, synth := true } ∧
           exch u o.id = some o' ∧ o'.cancelledBy = none) ∧
       (∀ o n, exch s o.id = some o → live o → (∀ p ∈ s.exchs, live p → p = o) → o.cancelledBy = none → o.res = none →
         (o.st = .inFlight ∨ o.st = .awaitAck ∨ o.st = .data) → o.opcode ≠ 5 → o.path = some n → (chan s n).state = .live →
         windowRoom (chan s n) = true → (chan s n).queued = [] →
         ∃ u o' f, exec (.cancel x) s = .next u ∧ exch u o.id = some o' ∧ o'.cancelledBy = some x ∧
           (chan u n).wire = f :: (chan s n).wire ∧ f.ftype = 6 ∧ f.sequenced = true ∧ f.tag = tagOf o ∧ f.body.head? = some 1#8))) ∧
  (∀ (s : State) (sl : SliceNo) (r : PairNo), let key := pairKey sl r
     let x := ring s key
     let die := serveDie r x.serve
     let un := unaccepted s sl r
     let c := x.sqHead + BitVec.ofNat 32 un
     let rd := readSlot s die sl (x.sqBase % 2 ^ 64) x.sqK c.toNat
     inService s = true → pageLive s sl r = true → x.pairLost = false → x.cqLost = false → x.fetchStopped = false → x.tearing = false →
     sliceServed s sl = true → ioLost s die = false → un < (x.sqTail - x.sqHead).toNat →
     (rd.2 = none →
       ∃ u, exec (.descriptorFetch sl r) s = .next u ∧ (ring u key).fetchError = true ∧ (ring u key).fetchStopped = true ∧
         (ring u key).sqHead = x.sqHead ∧ caused u x.source 3 ∧ u.exchs = s.exchs ∧ u.mem = s.mem) ∧
     (∀ hd ms n, rd.2 = some hd →
       n = (if hd.getD 0 0#8 = 5#8 ∧ 2 ≤ leAt hd 40 8 ∧ leAt hd 40 8 ≤ 16 then leAt hd 40 8 else 0) →
       un + n < (x.sqTail - x.sqHead).toNat → (x.sqHead - x.cqHead).toNat + un + n < 2 ^ x.cqK →
       (readSlots die sl (x.sqBase % 2 ^ 64) x.sqK n rd.1 (c + 1) []).2 = some ms → (∀ d, tableUse s d + 17 ≤ 65536) →
       ∃ u l, exec (.descriptorFetch sl r) s = .next u ∧ u.exchs = s.exchs ++ l ∧ l.length = ms.length + 1 ∧
         (∀ i e, l[i]? = some e → e.st = .allocated ∧ e.id = { slice := sl, pair := r, idx := c + BitVec.ofNat 32 i } ∧
           e.gen = (sliceE s sl).gen ∧ e.part = (sliceE s sl).part ∧ e.attempt = 0 ∧
           (i = 0 → e.opcode = (hd.getD 0 0#8).toNat ∧ e.seqNo = leAt hd 10 3 ∧ e.chainHead = none) ∧
           (0 < i → e.chainHead = some { slice := sl, pair := r, idx := c })) ∧
         (ring u key).sqHead = x.sqHead ∧ u.mem = s.mem))

/-! ## Exchanges: frames, records, limits and takeover -/

/-- Ends without a COMPLETE: an exchange without a LIVE path ends with NO_PATH after NO_PATH_WAIT, a pinned one with PATH_LOST (R271); one
without a COMPLETE for TIMEOUT pips sends ABORT (R305); an ABORT unanswered for 200 pips is sent again, and after four sends the exchange
ends with ABORT_UNCONFIRMED, which the group counts (R306). The exchange at the head of a LIVE path takes a slot and sends OPEN (R266,
R300); a WRITE's or CONTROL's next DATA frame follows once OPEN is acknowledged NEW and the window has room, and the last one is marked; a
WRITE of length 0 sends none (R297, R303; LOG 129). Every frame takes the path's index, epoch and ACK_SEQ, the addresses of its group, the
channel's tag and the EtherType in force (R290, R291, R295), its 24-byte header after the addresses, and is at least 64 bytes long (R292,
R294). -/
def Obligations.ExchangeExpiries : Prop :=
  (∀ (s : State) (x : ExId) (e : Exch), let g := group s e.group
     inService s = true → exch s x = some e → e.res = none →
     ((e.st = .accepted ∨ e.st = .inFlight ∨ e.st = .awaitAck ∨ e.st = .data) → (∀ n, e.path = some n → (chan s n).state ≠ .live) →
       e.opcode ≠ 5 → e.opcode ≠ 7 → ∀ k, e.waitSince = some k →
       (k + g.noPathWait ≤ pip s →
         ∃ u e', exec (.noPathWaitExpiry x) s = .next u ∧ exch u x = some e' ∧
           e'.res = some { code := if e.pin.isSome then 0x0E else 0x04, detail := 0, synth := true }) ∧
       (pip s < k + g.noPathWait → exec (.noPathWaitExpiry x) s = .next s)) ∧
     (∀ k, (e.st = .inFlight ∨ e.st = .awaitAck ∨ e.st = .data) → e.openPip = some k → e.abort = none → e.terminating = false →
       let t := if e.timeout = 0 then g.exchTimeout else e.timeout
       (k + t ≤ pip s →
         ∃ u e' a, exec (.exchangeTimeout x) s = .next u ∧ exch u x = some e' ∧ e'.abort = some a ∧ a.cause = 2 ∧ a.since = pip s ∧
           e'.res = none ∧
           (∀ n, e.path = some n → (chan s n).state = .live → windowRoom (chan s n) = true → (chan s n).queued = [] →
             a.sends = 1 ∧ ∃ f, (chan u n).wire = f :: (chan s n).wire ∧ f.ftype = 6 ∧ f.tag = tagOf e)) ∧
       (pip s < k + t → exec (.exchangeTimeout x) s = .next s)) ∧
     (∀ a n, e.abort = some a → e.terminating = false → e.path = some n →
       (pip s < a.since + 200 → exec (.abortWaitExpiry x) s = .next s) ∧
       (a.since + 200 ≤ pip s → a.sends < 4 → (chan s n).state = .live → windowRoom (chan s n) = true → (chan s n).queued = [] →
         ∃ u e' f, exec (.abortWaitExpiry x) s = .next u ∧ exch u x = some e' ∧
           e'.abort = some { a with sends := a.sends + 1, since := pip s } ∧ e'.res = none ∧ (chan u n).wire = f :: (chan s n).wire ∧
           f.ftype = 6) ∧
       (a.since + 200 ≤ pip s → 4 ≤ a.sends →
         ∃ u e', exec (.abortWaitExpiry x) s = .next u ∧ exch u x = some e' ∧
           e'.res = some { code := 0x0F, detail := 0, synth := true } ∧ (group u e.group).abortUnconfirmed = g.abortUnconfirmed + 1))) ∧
  ((∀ (s : State) (n : Nat) (f : TxFrame), ∃ w, (chan (putFrame s n f) n).wire = w :: (chan s n).wire ∧ w.ftype = f.ftype ∧ w.tag = f.tag ∧
     w.body = f.body ∧ w.path = (chan s n).pathIndex ∧ w.epoch = (chan s n).epoch ∧ w.ackSeq = (chan s n).rxSeq ∧
     w.etherType = chEtherType s ∧ w.vlan = (chan s n).vlan ∧ w.dst = (chan s n).peer.getD 0xFFFFFFFFFFFF#48 ∧
     w.src = Config.channelAddress n) ∧
   (∀ (key : List Byte) (f : TxFrame), 64 ≤ (txBytes key f).length ∧ (txHeader f).length = 24 ∧
     (f.vlan = none → (txBytes key f).take 38 = beBytes 6 f.dst.toNat ++ beBytes 6 f.src.toNat ++ beBytes 2 f.etherType ++ txHeader f)) ∧
   ∀ (s : State) (x : ExId) (e : Exch) (n : Nat), inService s = true → exch s x = some e → e.path = some n →
     (chan s n).state = .live → windowRoom (chan s n) = true → e.res = none → e.abort = none → e.terminating = false →
     (e.st = .inFlight → mirrors s x.pair = true → 0 < (chan s n).slotsLeft → openCount s n < (chan s n).peerMaxOpen → nextInLine s e = true → jobReady s e = true →
       ∃ u e' f, exec (.open x) s = .next u ∧ exch u x = some e' ∧ e'.st = .awaitAck ∧ e'.openPip = some (e.openPip.getD (pip s)) ∧
         e'.lastCh = some n ∧ (chan u n).slotsLeft = (chan s n).slotsLeft - 1 ∧ (chan u n).wire = f :: (chan s n).wire ∧
         f.ftype = 1 ∧ f.sequenced = true ∧ f.seq = (chan s n).txSeq ∧ f.tag = tagOf e ∧ f.body = openBody e ∧
         (chan u n).txSeq = ((chan s n).txSeq + 1) % 2 ^ 32 ∧ (chan u n).unacked.length = (chan s n).unacked.length + 1 ∧
         u.mem = s.mem) ∧
     (e.st = .data → (e.opcode = 2 ∨ e.opcode = 3) → e.ackNew = true → e.lastSent = false → job s (.inl x) = none →
       (e.wireLen = 0 → exec (.dataSend x) s = .next s) ∧ (0 < e.wireLen →
       let k := min (maxDataOf (group s e.group) n (chan s n)) (e.wireLen - e.sentOff)
       let rd := sglRead e.owner x.slice s (sglPieces e.bufs e.sentOff k) []
       ∀ bs, rd.2 = .ok bs →
       ∃ u e' f, exec (.dataSend x) s = .next u ∧ exch u x = some e' ∧ e'.sentOff = e.sentOff + k ∧
         e'.lastSent = decide (e.wireLen ≤ e.sentOff + k) ∧ (chan u n).wire = f :: (chan s n).wire ∧ f.ftype = 2 ∧ f.tag = tagOf e ∧
         f.last = decide (e.wireLen ≤ e.sentOff + k) ∧ f.body.drop 16 = bs ∧ f.body.take 4 = beBytes 4 e.sentOff ∧
         (f.body.drop 8).take 4 = beBytes 4 (crc32c bs).toNat)))

/-- The end of an exchange: LOGGED once its writes have their Cmp; COMPOSED when its record and completion count are fixed, in ring order
after a CHAIN's members or a CANCEL's target, or with CQ_LOST where the record cannot be written; freed when POSTED, with one completion
event for its ring pair in a pip unless NOEVENT, each write being mirrored while its pair's mirror link is up (R16, R260, R262, R266,
R268, R280, R284). The record's layout and PHASE are those of R263 and R264. -/
def Obligations.RecordLife : Prop :=
  (∀ (s : State) (x : ExId) (e : Exch) (r : ExRes), let key := pairKey x.slice x.pair
    inService s = true → exch s x = some e → e.res = some r →
    (3 ≤ exRank e.st → exRank e.st < 8 → e.terminating = false → ioQuiet s e.owner = true →
      mirrors s x.pair = true →
      ∃ u e', exec (.exchangeLogged x) s = .next u ∧ exch u x = some e' ∧ e'.st = .logged ∧ e'.res = some r) ∧
    (e.st = .logged → composeTurn s e = true → e.terminating = false → mirrors s x.pair = true →
      ∃ u e', exec (.recordComposed x) s = .next u ∧ exch u x = some e' ∧ e'.st = .composed ∧ e'.count = some (ring s key).cqTail ∧
        (ring u key).cqTail = (ring s key).cqTail + 1 ∧
        (e'.record = recordBytes e r (ring s key).cqTail (ring s key).cqK (stampAt s (2 + e.owner)) ∨
          (e'.record = [] ∧ (ring u key).cqLost = true ∧ caused u (ring s key).source 3))) ∧
    (e.st = .logged → (composeTurn s e = false ∨ e.terminating = true ∨ mirrors s x.pair = false) → exec (.recordComposed x) s = .next s) ∧
    (e.st = .composed → ioQuiet s (serveDie x.pair (ring s key).serve) = true →
      ∃ u, exec (.recordPosted x) s = .next u ∧ exch u x = none ∧
        (e.flags.testBit 1 = false → e.record ≠ [] → (ring s key).completionPip ≠ some (pip s) → caused u (ring s key).source 0))) ∧
  (∀ (e : Exch) (r : ExRes) (c : W32) (k : Nat) (stamp : W64), let bs := recordBytes e r c k stamp
    bs.length = 32 ∧ ofLE (bs.take 8) = tagNat e % 2 ^ 64 ∧ bs[8]? = some (BitVec.ofNat 8 r.code) ∧ bs[9]? = some (BitVec.ofNat 8 r.detail) ∧
    ofLE ((bs.drop 12).take 4) = r.bytes % 2 ^ 32 ∧ ofLE ((bs.drop 16).take 8) = e.cookie.toNat ∧ ofLE (bs.drop 24) = stamp.toNat ∧
    (ofLE ((bs.drop 10).take 2)).testBit 15 = decide (c.toNat / 2 ^ k % 2 = 0) ∧
    (ofLE ((bs.drop 10).take 2)).testBit 14 = r.synth ∧ (ofLE ((bs.drop 10).take 2)).testBit 13 = e.redriven ∧
    (ofLE ((bs.drop 10).take 2)).testBit 12 = e.takenOver ∧ ofLE ((bs.drop 10).take 2) % 2 ^ 12 = e.lastCh.getD 0x1FF % 512)

/-- The partner of a lost I/O die takes over what that die owned and served, and protected groups with a path there become unprotected and
their partitions are told, and a ring that had a descriptor there which was not accepted fetches again from SQ_HEAD (R245, R272, R273).
With both dies of a pair lost its exchanges and jobs get no end and PAIR_LOST is set and raised (R276). At the end of a slice reset's
drain every stopped exchange is composed as TERMINATED with SYNTH, the generation advances and the slice's cached translations are gone
(R277, R338). -/
def Obligations.TakeoverAndReset : Prop :=
  ∀ (s : State), inService s = true →
    (∀ d : IoDie, ioLost s d = true → ioLost s (d.val ^^^ 1) = false →
      ∃ u, exec (.ioDieTakeover d) s = .next u ∧
        (∀ x e, exch s x = some e → isAccepted e = true → e.owner = d → e.st ≠ .composed →
          ∃ e', exch u x = some e' ∧ e'.takenOver = true) ∧
        (∀ x e, exch s x = some e → isAccepted e = true → e.owner = d → e.res.isSome = true → (e.st = .composed ∨ e.st = .logged) →
          ∃ e', exch u x = some e' ∧ e'.owner = d.val ^^^ 1 ∧ e'.res = e.res ∧ e'.st = e.st) ∧
        (∀ e ∈ s.exchs, isAccepted e = false → e.owner = d →
          ∀ o ∈ u.exchs, o.id.slice = e.id.slice → o.id.pair = e.id.pair → isAccepted o = true) ∧
        (tsorted s.rings = true → ∀ k, (ring s k).active = true → k % 2 = d.val / 2 → serveDie (d.val / 2) (ring s k).serve = d.val →
          (ring u k).serve = 1 - (ring s k).serve) ∧
        (∀ g ∈ s.groups, g.2.opened = true → g.2.isProtected = true → (∃ n ∈ g.2.chans, chanDie n = d.val) →
          (group u g.1).isProtected = false ∧ (∀ p, p < 16 → g.2.mask.getLsbD p = true → noticed u p Notice.pgUnprotected))) ∧
    (∀ p : PairNo, ioLost s (2 * p.val) = true → ioLost s (2 * p.val + 1) = true →
      ∃ u, exec (.pairLoss p) s = .next u ∧ (∀ e ∈ u.exchs, e.id.pair ≠ p) ∧ (∀ e ∈ s.exchs, e.id.pair ≠ p → e ∈ u.exchs) ∧
        (∀ e ∈ s.rings, e.2.active = true → e.1 % 2 = p.val → e.2.pairLost = false →
          (ring u e.1).pairLost = true ∧ caused u (ring s e.1).source 4 ∧
          ((sliceE s (e.1 / 2)).part < 16 → noticed u (sliceE s (e.1 / 2)).part Notice.pairLost))) ∧
    (∀ sl : SliceNo, (sliceE s sl).state = .resetting → (∀ d, d < 4 → ioQuiet s d = true) →
      (∀ e ∈ s.exchs, e.id.slice = sl → e.st ≠ .composed) →
      ∃ u, exec (.sliceResetDrainEnd sl) s = .next u ∧ (sliceE u sl).gen = ((sliceE s sl).gen + 1) % 256 ∧
        ((sliceE u sl).state = .active ∨ (sliceE u sl).state = .held) ∧
        (∀ d, ∀ l ∈ leavesOf u d, l.slice ≠ sl.val) ∧
        (∀ e ∈ s.exchs, e.id.slice = sl → e.terminating = true →
          ∃ e', exch u e.id = some e' ∧ e'.st = .composed ∧ e'.res = some { code := 0x03, detail := 0, synth := true }))

/-! ## Paths and the wire -/

/-- Frames of an exchange received in order: DATA advances the READ and is acknowledged; one with a bad DATA_CRC is NAKed and not
accepted; ACK NEW, DONE and FULL, an ACK with TAG zero, NAK with its resending, and COMPLETE with the record's status; a frame for no live
exchange writes nothing and is counted (R278, R299, R301, R303, R304, R305). An unsequenced frame whose SEQ shows a gap is NAKed and
discarded (R299), and a frame of another TYPE than its row's is discarded and counted (R296; LOG 125). -/
def Obligations.FramesReceived : Prop :=
  (∀ (s : State) (ch : ChanNo) (g : Nat) (h : FrameHdr), inService s = true → (chan s ch).group = some g → (chan s ch).pcs = true →
    ioLost s (chanDie ch) = false → let t := h.ftype.toNat; let gone := modChan s ch (fun c => { c with discards := c.discards + 1 })
    (t ≠ 2 → ∀ b, exec (.dataFrame ch h b) s = .next gone) ∧ (t ≠ 3 → ∀ d, exec (.ack ch h d) s = .next gone) ∧
    (t ≠ 4 → ∀ k y, exec (.nak ch h k y) s = .next gone) ∧ (t ≠ 5 → ∀ b, exec (.complete ch h b) s = .next gone) ∧
    (t ≠ 8 → ∀ b, exec (.resumeAnswer ch h b) s = .next gone) ∧ (t ≠ 9 → ∀ b, exec (.pathHello ch h b) s = .next gone) ∧
    (t ≠ 10 → ∀ b, exec (.pathGone ch h b) s = .next gone)) ∧
  ∀ (s : State) (ch : ChanNo) (g : Nat) (h : FrameHdr), let c := chan s ch
    let kept := c.unacked.filter (fun f => !seqAfter h.ackSeq.toNat f.seq)
    let gap := seqAfter h.seq.toNat c.rxSeq
    let mayNak : Prop := c.nakFor ≠ some c.rxSeq ∨ c.nakPip + (group s g).rto ≤ pip s
    let nothingWaits : Prop := c.queued = [] ∧ (∀ q, (group s g).query = some q → q.sent = true) ∧
      (∀ e ∈ s.exchs, e.path = some ch.val → ∀ a, e.abort = some a → a.sends ≠ 0)
    let sent := fun (u : State) (t : Nat) (f : TxFrame) => f.ftype = t ∧ ∃ ws, (chan u ch).wire = f :: (ws ++ c.wire)
    inService s = true →
    (∀ (b : DataBody) (e : Exch), acceptable s ch g 2 h = true → h.seq.toNat = c.rxSeq → matchFrame s ch h.tag = .of e → exch s e.id = some e →
      (e.opcode = 1 ∨ e.opcode = 4) → b.offset.toNat = e.rcvd → e.rcvd + b.data.length ≤ e.wireLen → b.data ≠ [] →
      b.data.length = b.dlen.toNat → crc32c b.data = b.crc →
      ∃ u e' f, exec (.dataFrame ch h b) s = .next u ∧ exch u e.id = some e' ∧ e'.rcvd = e.rcvd + b.data.length ∧
        e'.gotLast = (e.gotLast || h.flags.getLsbD 3) ∧ (chan u ch).rxSeq = (c.rxSeq + 1) % 2 ^ 32 ∧ sent u 3 f ∧
        f.ackSeq = (c.rxSeq + 1) % 2 ^ 32 ∧ f.tag = 0#64) ∧
    (∀ (b : DataBody), acceptable s ch g 2 h = true → h.seq.toNat = c.rxSeq → crc32c b.data ≠ b.crc →
      ∃ u, exec (.dataFrame ch h b) s = .next u ∧ (nothingWaits → u.exchs = s.exchs) ∧ (chan u ch).rxSeq = c.rxSeq ∧
        (mayNak → ∃ f, sent u 4 f ∧ f.body.take 5 = beBytes 4 c.rxSeq ++ [2#8])) ∧
    (∀ (e : Exch) (d : Byte), acceptable s ch g 3 h = true → h.tag ≠ 0#64 → h.seq.toNat = c.rxSeq → matchFrame s ch h.tag = .of e → exch s e.id = some e →
      e.st = .awaitAck →
      ∃ u e', exec (.ack ch h d) s = .next u ∧ exch u e.id = some e' ∧ (chan u ch).rxSeq = (c.rxSeq + 1) % 2 ^ 32 ∧
        (d = 0#8 → e'.ackNew = true ∧ e'.st = (if movesData e then .data else .awaitAck) ∧ e'.res = none) ∧
        (d = 1#8 → e'.ackDone = true ∧ e'.st = (if movesData e then .data else .awaitAck) ∧ e'.res = none) ∧
        (d = 2#8 → e'.res = some { code := 0x01, detail := 0xF2, synth := true })) ∧
    (∀ (d : Byte), acceptable s ch g 3 h = true → h.tag = 0#64 →
      ∃ u m, exec (.ack ch h d) s = .next u ∧ (chan u ch).unacked = kept ++ m ∧ (nothingWaits → m = [] ∧ u.exchs = s.exchs) ∧
        (chan u ch).rxSeq = c.rxSeq ∧ (gap = true → mayNak → ∃ f, sent u 4 f ∧ f.body.take 5 = beBytes 4 c.rxSeq ++ [1#8])) ∧
    (∀ (k : W32) (why : Byte), acceptable s ch g 4 h = true →
      ∃ u m, exec (.nak ch h k why) s = .next u ∧ (chan u ch).unacked = kept ++ m ∧ (nothingWaits → m = [] ∧ u.exchs = s.exchs) ∧
        (gap = false → (chan u ch).retxCount = c.retxCount + ((kept ++ m).filter (fun f => !seqAfter k.toNat f.seq)).length) ∧
        (gap = true → (chan u ch).retxCount = c.retxCount ∧ (mayNak → ∃ f, sent u 4 f ∧ f.body.take 5 = beBytes 4 c.rxSeq ++ [1#8]))) ∧
    (∀ (b : CompleteBody) (e : Exch), acceptable s ch g 5 h = true → h.seq.toNat = c.rxSeq → matchFrame s ch h.tag = .of e → exch s e.id = some e →
      job s (.inl e.id) = none →
      ∃ u e', exec (.complete ch h b) s = .next u ∧ exch u e.id = some e' ∧ e'.st = .remoteComplete ∧
        (e.abort = none → b.status = 0#8 → e.dataFault = none → ((e.opcode = 1 ∨ e.opcode = 4) → b.bytes.toNat = e.rcvd) →
          ((e.opcode = 2 ∨ e.opcode = 3) → 0 < e.wireLen → e.lastSent = true ∨ e.ackDone = true) →
          e'.res = some { code := 0x00, detail := 0, bytes := b.bytes.toNat }) ∧
        (e.abort = none → 1 ≤ b.status.toNat → b.status.toNat ≤ 0xEF → ((e.opcode = 1 ∨ e.opcode = 4) → b.bytes.toNat = e.rcvd) →
          ((e.opcode = 2 ∨ e.opcode = 3) → 0 < e.wireLen → e.lastSent = true ∨ e.ackDone = true) →
          e'.res = some { code := 0x01, detail := b.status.toNat, bytes := b.bytes.toNat }) ∧
        (∀ a, e.abort = some a → b.status = 0xF0#8 →
          (a.cause = 1 → e'.res = some { code := 0x02, detail := 0, bytes := b.bytes.toNat }) ∧
          (a.cause = 2 → e'.res = some { code := 0x05, detail := 0, bytes := b.bytes.toNat }) ∧
          (a.cause = 4 → e'.res = some { code := 0x0C, detail := e.dpErr.getD 0, bytes := b.bytes.toNat }))) ∧
    (∀ (b : DataBody), acceptable s ch g 2 h = true → h.seq.toNat = c.rxSeq → crc32c b.data = b.crc → b.data.length = b.dlen.toNat → b.data ≠ [] →
      (matchFrame s ch h.tag = .late →
        ∃ u, exec (.dataFrame ch h b) s = .next u ∧ u.mem = s.mem ∧ u.coh = s.coh ∧ (nothingWaits → u.exchs = s.exchs) ∧
          (group u g).lateDiscards = (group s g).lateDiscards + 1) ∧
      (matchFrame s ch h.tag = .stale →
        ∃ u, exec (.dataFrame ch h b) s = .next u ∧ u.mem = s.mem ∧ u.coh = s.coh ∧ (nothingWaits → u.exchs = s.exchs) ∧
          (group u g).staleDiscards = (group s g).staleDiscards + 1))

/-- A path becomes LIVE with a new epoch at the third PATH-HELLO in a row that shows SEEN and the next epoch, and starts over at one that
does not (R309); PATH-HELLO goes out every 10 pips (R308). A LIVE path is lost by D pips of silence, the loss of block lock, RETX_MAX
expiries, a PATH-GONE that names it, or another sender's identity, and its exchanges are redriven with ATTEMPT raised, a pinned one ending
with PATH_LOST (R269, R271, R301, R307, R310). -/
def Obligations.PathLiveness : Prop :=
  ∀ (s : State) (ch : ChanNo) (g : Nat), let c := chan s ch
    let lostBy := fun (u : State) (n why : Nat) =>
      (chan u n).state = (if (chan s n).pcs then .lost else .down) ∧ (chan u n).lossCount = (chan s n).lossCount + 1 ∧
      (chan u n).lossReason = why ∧
      (∀ x e, exch s x = some e → onPath e = true → e.path = some n → e.terminating = false →
        ∃ e', exch u x = some e' ∧
          (e.pin.isSome = true → e'.res = some { code := 0x0E, detail := 0, synth := true }) ∧
          (e.pin = none → e.abort = none → e.attempt + 1 ≤ (group s e.group).attemptMax → e.attempt < e'.attempt ∧ e'.path ≠ some n))
    inService s = true → c.group = some g →
    (∀ (h : FrameHdr) (b : HelloBody), c.pcs = true → ioLost s (chanDie ch) = false → outerOk s ch 9 h = true →
      authAccepted s g h = true →
      (c.state = .probing → b.senderId = (group s g).remote → (group s g).keyValue = none →
        (helloCounts s ch g h b = true → c.hellos = 2 →
          ∃ u, exec (.pathHello ch h b) s = .next u ∧ (chan u ch).state = .live ∧ (chan u ch).epoch = (c.epoch + 1) % 256 ∧
            (chan u ch).rxSeq = 0) ∧
        (helloCounts s ch g h b = true → c.hellos < 2 →
          ∃ u, exec (.pathHello ch h b) s = .next u ∧ (chan u ch).state = .probing ∧ (chan u ch).hellos = c.hellos + 1 ∧
            (chan u ch).epoch = c.epoch) ∧
        (helloCounts s ch g h b = false →
          ∃ u, exec (.pathHello ch h b) s = .next u ∧ (chan u ch).state = .probing ∧ (chan u ch).hellos = 0)) ∧
      (c.state = .live → b.senderId ≠ (group s g).remote →
        ∃ u, exec (.pathHello ch h b) s = .next u ∧ reported u (914 + ch.val) ∧ lostBy u ch 5) ∧
      (c.state = .live → b.senderId = (group s g).remote → h.epoch.toNat = c.epoch →
        seqAfter h.seq.toNat c.rxSeq = false →
        ∃ u, exec (.pathHello ch h b) s = .next u ∧ (chan u ch).lastValid = pip s ∧ (chan u ch).peerWindow = b.window.toNat ∧
          (chan u ch).state = .live ∧ (group u g).farIncarnation = some b.incarnation.toNat)) ∧
    (∀ (h : FrameHdr) (b : GoneBody) (n : Nat), acceptable s ch g 10 h = true → seqAfter h.seq.toNat c.rxSeq = false →
      (livePaths s g).find? (fun k => (chan s k).peerIndex == b.lostIndex.toNat) = some n → (chan s n).group = some g →
      ∃ u, exec (.pathGone ch h b) s = .next u ∧ lostBy u n 7) ∧
    (c.pcs = true → ioLost s (chanDie ch) = false → (c.state = .probing ∨ c.state = .live ∨ c.state = .lost) →
      (∀ k, c.helloSent = some k → k + 10 ≤ pip s) →
      ∃ u f, exec (.pathHelloSend ch) s = .next u ∧ (chan u ch).helloSent = some (pip s) ∧ (chan u ch).epoch = c.epoch ∧
        (chan u ch).txSeq = c.txSeq ∧ justSent s u ch 9 f ∧ f.sequenced = false ∧
        f.epoch = (if c.state = .live then c.epoch else (c.epoch + 1) % 256)) ∧
    (c.state = .live →
      (c.lastValid + (group s g).dPips ≤ pip s → ∃ u, exec (.pathSilence ch) s = .next u ∧ lostBy u ch 1) ∧
      (pip s < c.lastValid + (group s g).dPips → exec (.pathSilence ch) s = .next s) ∧
      (∀ f fs, c.unacked = f :: fs → c.oldestSince + (group s g).rto ≤ pip s →
        ((group s g).retxMax ≤ c.rtoCount + 1 → ∃ u, exec (.rtoExpiry ch) s = .next u ∧ lostBy u ch 3) ∧
        (c.rtoCount + 1 < (group s g).retxMax →
          ∃ u, exec (.rtoExpiry ch) s = .next u ∧ (chan u ch).rtoCount = c.rtoCount + 1 ∧ (chan u ch).state = .live ∧
            (chan u ch).unacked = c.unacked ∧
            (chan u ch).retxCount = c.retxCount + (c.unacked.filter (fun x => !seqAfter f.seq x.seq)).length))) ∧
    (∃ u, exec (.pcsBlockLockLoss ch) s = .next u ∧ (chan u ch).pcs = false ∧ (chan u ch).state = .down ∧
      (c.state = .live → (chan u ch).lossReason = 2 ∧ (chan u ch).lossCount = c.lossCount + 1)) ∧
    (∃ u, exec (.pcsBlockLock ch) s = .next u ∧ (chan u ch).pcs = true ∧
      ((c.state = .down ∨ c.state = .lost) → (chan u ch).state = .probing))

/-- Rekey: the interval's end starts one toward the next key epoch; one not switched within 1,000 pips is reported, keeps the old keys and
starts again 1,000 pips later; the old keys go 100 pips after the first frame under the new ones (R326). RESUME-ANSWER ends the group's
query with one entry for each tag asked (R323). -/
def Obligations.RekeyAndOutcomeQuery : Prop :=
  ∀ (s : State) (g : GroupNo), let x := group s g
    inService s = true →
    (x.opened = true → x.keyPip + x.rekeyInterval ≤ pip s → x.keyValue.isSome = true → x.rekey = none →
      ∃ u, exec (.rekeyIntervalExpiry g) s = .next u ∧ (group u g).rekey = some { since := pip s, nextEpoch := x.keyEpoch + 1 } ∧
        (group u g).keyEpoch = x.keyEpoch ∧ (∀ n ∈ x.chans, (chan u n).nextReady = false)) ∧
    (∀ r, x.rekey = some r → (∀ n ∈ x.chans, n < 512) →
      (r.since + 1000 ≤ pip s →
        ∃ u, exec (.rekeyTimeout g) s = .next u ∧ (group u g).rekey = none ∧ (group u g).rekeyRetry = some (pip s + 1000) ∧
          (group u g).keyEpoch = x.keyEpoch ∧ reported u (1426 + x.chans.headD 0 / 128)) ∧
      (pip s < r.since + 1000 → exec (.rekeyTimeout g) s = .next s)) ∧
    (∀ k, x.oldSince = some k →
      (k + 100 ≤ pip s → ∃ u, exec (.oldKeyErase g) s = .next u ∧ (group u g).oldEpoch = none ∧ (group u g).keyEpoch = x.keyEpoch) ∧
      (pip s < k + 100 → exec (.oldKeyErase g) s = .next s)) ∧
    (∀ (ch : ChanNo) (h : FrameHdr) (b : AnswerBody) (q : ResumeQ), acceptable s ch g 8 h = true → h.seq.toNat = (chan s ch).rxSeq →
      x.query = some q → q.sent = true → b.queryId.toNat = q.queryId →
      ∃ u, exec (.resumeAnswer ch h b) s = .next u ∧ (group u g).query = none ∧
        ((∀ e ∈ s.exchs, e.path = some ch.val → ∀ a, e.abort = some a → a.sends ≠ 0) → u.exchs = s.exchs) ∧
        (∀ o ∈ s.husks.longOps, o.key = q.opKey → o.done = false →
          ∃ p ∈ u.husks.longOps, p.key = o.key ∧ p.done = true ∧ p.status = 0 ∧ p.result = q.tags.flatMap (answerBytes b)))

/-! ## Translation and engines -/

/-- INV_CSR: a write while BUSY is ignored; GO checks the request, and one that stands drops every cached entry of the slice that overlaps
its range; the end, once every die has its Cmps and a lost one has been lost for a pip, sets DONE with the stamp and, with EVENT, gives
the notice INV_DONE (R343, R344, R345). -/
def Obligations.Invalidation : Prop :=
  ∀ (s : State) (p : PartNo) (k : Fin 16) (v : W64), let x := invSlot s p k
    let sl := (x.sliceNo.setWidth 12).toNat
    inService s = true →
    (x.busy = true → exec (.invalidate p k v) s = .next s) ∧
    (x.busy = false → v.getLsbD 0 = true →
      (((sliceE s sl).state = .free ∨ (sliceE s sl).part ≠ p.val) →
        ∃ u, exec (.invalidate p k v) s = .next u ∧ (invSlot u p k).err = true ∧ (invSlot u p k).error = 1 ∧
          (invSlot u p k).busy = false ∧ (invSlot u p k).done = false ∧ u.leaves = s.leaves) ∧
      ((sliceE s sl).state ≠ .free → (sliceE s sl).part = p.val → (x.iova.toNat % 4096 ≠ 0 ∨ 2 ^ 48 < x.iova.toNat) →
        ∃ u, exec (.invalidate p k v) s = .next u ∧ (invSlot u p k).err = true ∧ (invSlot u p k).error = 2 ∧
          (invSlot u p k).busy = false ∧ u.leaves = s.leaves) ∧
      ((sliceE s sl).state ≠ .free → (sliceE s sl).part = p.val → x.iova.toNat % 4096 = 0 → x.iova.toNat ≤ 2 ^ 48 →
        ∃ u, exec (.invalidate p k v) s = .next u ∧ (invSlot u p k).busy = true ∧ (invSlot u p k).done = false ∧
          (invSlot u p k).event = v.getLsbD 3 ∧
          (∀ d, ∀ l ∈ leavesOf u d, l.slice = sl → x.pages ≠ 0#64 ∧
            (x.iova.toNat + x.pages.toNat * 4096 ≤ l.page * 2 ^ l.shift ∨ (l.page + 1) * 2 ^ l.shift ≤ x.iova.toNat)) ∧
          (∀ d, ∀ l ∈ leavesOf s d, l.slice ≠ sl → l ∈ leavesOf u d))) ∧
    (x.busy = false → v.getLsbD 0 = false →
      ∃ u, exec (.invalidate p k v) s = .next u ∧ u.leaves = s.leaves ∧
        invSlot u p k = { x with event := v.getLsbD 3, err := x.err && !v.getLsbD 2, done := x.done && !v.getLsbD 1 }) ∧
    (x.busy = true → (∀ d, d < 4 → drained s d = true) →
      ∃ u, exec (.invalidateDone p k) s = .next u ∧ (invSlot u p k).busy = false ∧ (invSlot u p k).done = true ∧
        (invSlot u p k).stamp = now s ∧ (x.event = true → noticed u p 10) ∧ (x.event = false → u.events = s.events)) ∧
    (x.busy = false ∨ (∃ d, d < 4 ∧ drained s d = false) → exec (.invalidateDone p k) s = .next s)

/-- A job descriptor is fetched and its RESULT translated, else FETCH_ERROR and EQ_FAULT stop the queue; the job is accepted as EQ_HEAD
passes it, once its note is confirmed over the mirror link (R16, R360, R361), and does not start while its slice is in reset (R380). It
starts on its engine, and runs again from its beginning on another engine of the die after a failed self-check, which is reported (R354,
R356, R362). At its end it leaves the queue once its output has its Cmps, and with EVENT raises ENG_DONE once in a pip (R362). -/
def Obligations.EngineJobs : Prop :=
  ∀ (s : State) (sl : SliceNo) (r : PairNo), let key := pairKey sl r
    let q := eqq s key
    let die := serveDie r q.serve
    let un := (queueJobs s sl r).length - activeJobs s sl r
    let c := q.eqHead + BitVec.ofNat 32 un
    let rd := readSlot s die sl q.base q.k c.toNat
    inService s = true →
    (queueLive s sl r = true → q.pairLost = false → q.fetchStopped = false → q.tearing = false → sliceServed s sl = true →
      ioLost s die = false → un < (q.eqTail - q.eqHead).toNat → activeJobs s sl r + un < 256 →
      (rd.2 = none →
        ∃ u, exec (.engineJobFetch sl r) s = .next u ∧ (eqq u key).fetchError = true ∧ (eqq u key).fetchStopped = true ∧
          caused u q.source 9 ∧ u.jobs = s.jobs) ∧
      (∀ bs, rd.2 = some bs →
        let tr := ioTranslate rd.1 die sl (BitVec.ofNat 64 (parseDesc bs).result) 128 true
        (∀ pa, tr.2 = .ok pa →
          ∃ u j, exec (.engineJobFetch sl r) s = .next u ∧ u.jobs = s.jobs ++ [j] ∧ j.id = .queued sl r c ∧ j.desc = bs ∧ j.die = die ∧
            j.st = .fetched ∧ (eqq u key).eqHead = q.eqHead) ∧
        (∀ why, tr.2 = .error why →
          ∃ u, exec (.engineJobFetch sl r) s = .next u ∧ (eqq u key).fetchError = true ∧ caused u q.source 9 ∧ u.jobs = s.jobs ∧
            (sliceE u sl).lastFault = why))) ∧
    (∀ j, job s (.queued sl r q.eqHead) = some j → j.st = .fetched → mirrors s r = true →
      ∃ u j', exec (.engineJobAccept sl r) s = .next u ∧ (eqq u key).eqHead = q.eqHead + 1 ∧
        job u (.queued sl r q.eqHead) = some j' ∧ j'.st = .accepted ∧ j'.desc = j.desc) ∧
    (mirrors s r = false → exec (.engineJobAccept sl r) s = .next s) ∧
    (∀ (x : JobId) j e, job s x = some j → j.engine = some e →
      (j.st = .accepted → jobStopped s j = false → jobFenceOk s j = true → engineFree s j e = true →
        ∃ u j', exec (.engineJobStart x) s = .next u ∧ job u x = some j' ∧ j'.st = .running ∧ j'.engine = some e ∧ j'.rerun = j.rerun ∧
          j'.since = pip s) ∧
      (j.st = .accepted → jobStopped s j = true →
        ∃ u j', exec (.engineJobStart x) s = .next u ∧ job u x = some j' ∧ j'.st = .accepted) ∧
      (∀ stage : Fin 3, j.st = .running → e < 32 →
        ∃ u j', exec (.engineSelfCheckFail x stage) s = .next u ∧ reported u (882 + e) ∧ job u x = some j' ∧ j'.st = .accepted ∧
          j'.rerun = true ∧ j'.progress = 0 ∧ j'.engine ≠ some e ∧ (∀ g, j'.engine = some g → g / 8 = j.die))) ∧
    (∀ i j, job s (.queued sl r i) = some j →
      let done := fun (u : State) => job u (.queued sl r i) = none ∧
        ((parseDesc j.desc).event = true → q.donePip ≠ some (pip s) → caused u q.source 8)
      (j.st = .running → ioQuiet (runStandalone s sl j).1 j.die = true → ∃ u, exec (.engineJobEnd (.queued sl r i)) s = .next u ∧ done u) ∧
      (j.st = .running → ioQuiet (runStandalone s sl j).1 j.die = false →
        ∃ u j', exec (.engineJobEnd (.queued sl r i)) s = .next u ∧ job u (.queued sl r i) = some j' ∧ j'.st = .ended) ∧
      (j.st = .ended → ioQuiet s j.die = true → ∃ u, exec (.engineJobEnd (.queued sl r i)) s = .next u ∧ done u) ∧
      (j.st = .ended → ioQuiet s j.die = false → exec (.engineJobEnd (.queued sl r i)) s = .next s)) ∧
    (∀ x i, exec (.engineJobEnd (.inl { slice := sl, pair := x, idx := i })) s = .next s) ∧
    (∀ (x : ExId) e j inp, exch s x = some e → job s (.inl x) = some j → e.opcode = 2 → e.res = none → e.staged = none →
      (parseDesc j.desc).comp = true → j.st = .running →
      let d := parseDesc j.desc
      let src := sglRead e.owner x.slice s e.bufs []
      src.2 = .ok inp → (inlineOutput src.1 e d inp d.outLen).state = 2 →
      (ioWriteV src.1 e.owner x.slice d.out ((inlineOutput src.1 e d inp d.outLen).out.take d.outLen)).2 = .ok () →
      ∃ u e', exec (.stagingEnd x) s = .next u ∧ exch u x = some e' ∧
        e'.staged = some (inlineOutput src.1 e d inp d.outLen).out.length ∧ e'.wireLen = (inlineOutput src.1 e d inp d.outLen).out.length)

/-! ## Command packets -/

/-- The checks on a request, for every command packet: a malformed one gets BAD_PARAM, one outside its modes IGNORED, which is counted, an
expert one without EXPERT BAD_LEVEL, a long one with 16 operations open BUSY; an unprivileged sender gets REFUSED, readable at the edge of
pip t + 4, with the reason in the refusal log; a repeat of the last request gets its reply again; and nothing else changes. A request that
the holder's loop does not take now waits in its bus's queue of 8 or its mailbox, none is taken on a failed bus, and in M0 nothing runs
(R21, R25, R40, R48, R397, R401, R403, R405, R406, R408, R507). A granted command whose parameters are in range is done, or begun where it
is long (R401, R405). A poll returns the progress of an open operation or the status and result of an ended one; polling changes nothing
else (R402). -/
def Obligations.RequestChecks : Prop :=
  ((∀ (s : State) (q : Request) (op : Nat) (row : Instr) (qa : Request), PacketRow q op row qa →
     let same := fun (u : State) => u = { s with husks := u.husks, free := u.free }
     (taking s qa = true → fresh s qa = true →
       (privileged s op qa = true →
         (malformed qa = true → ∃ u, exec row s = .next u ∧ replied s u op qa 0x12 [] ∧ same u) ∧
         (malformed qa = false → isPoll qa = false → ∀ i, infoOf op (params48 qa) = some i →
           (inModes s.mode.mode i.modes = false →
             ∃ u, exec row s = .next u ∧ replied s u op qa 0x10 [] ∧ same u ∧ u.husks.ignored = s.husks.ignored + 1) ∧
           (inModes s.mode.mode i.modes = true → i.expert = true → isExpert qa = false →
             ∃ u, exec row s = .next u ∧ replied s u op qa 0x13 [] ∧ same u) ∧
           (inModes s.mode.mode i.modes = true → (i.expert = true → isExpert qa = true) → i.long = true → 16 ≤ openOps s →
             ∃ u, exec row s = .next u ∧ replied s u op qa 0x14 [] ∧ same u)) ∧
         (malformed qa = false → isPoll qa = true → opOf s op qa = none →
           ∃ u, exec row s = .next u ∧ replied s u op qa 0x16 [] ∧ same u)) ∧
       (privileged s op qa = false → op ≠ 0x0101 → op ≠ 0x0707 →
         ∃ u k e es, exec row s = .next u ∧ same u ∧ tfind u.husks.shown (senderKey qa) = some k ∧ k.status = 0x11 ∧ k.readyAt = pip s + 4 ∧
           u.husks.kept = s.husks.kept ∧ u.husks.privLog = e :: es ∧ e.opcode = op ∧ e.stamp = now s ∧
           (malformed qa = true → e.reason = 0x12))) ∧
     (taking s qa = true → isPoll qa = false →
       ∀ k, tfind s.husks.kept (senderKey qa) = some k → k.nonce = qa.nonce.toNat → k.seq = qa.seq.toNat →
         ∃ u k', exec row s = .next u ∧ same u ∧ tfind u.husks.shown (senderKey qa) = some k' ∧ k'.status = k.status ∧ k'.result = k.result ∧
           pip s < k'.readyAt ∧ k'.readyAt ≤ pip s + 3 ∧ u.husks.longOps = s.husks.longOps) ∧
     (timeRuns s = true → taking s qa = false →
       (∀ b, busOf qa = some b → (mbus s b).failed = false → (mbus s b).queue.length < 8 →
         ∃ u, exec row s = .next u ∧ (mbus u b).queue = (mbus s b).queue ++ [{ opcode := op, q := qa }] ∧ same u) ∧
       (∀ b, busOf qa = some b → (8 ≤ (mbus s b).queue.length ∨ (mbus s b).failed = true) → exec row s = .next s) ∧
       (∀ p, busOf qa = none → senderPart qa = some p → (cmdMbx s p).queued = none →
         ∃ u, exec row s = .next u ∧ (cmdMbx u p).queued = some { opcode := op, q := qa } ∧ same u)) ∧
     (timeRuns s = false → exec row s = .next s) ∧
     (∀ opcode : Half, (handlerOf opcode.toNat).isNone = true →
       taking s q = true → fresh s q = true → privileged s opcode.toNat q = true → malformed q = false → isPoll q = false →
       ∃ u, exec (.unknownCommand opcode q) s = .next u ∧ replied s u opcode.toNat q 0x10 [] ∧ same u)) ∧
   (∀ (s : State) (q : Request),
     let k := par q 0 1
     let w := par q 0 2
     let r := par q 2 1
     let answered := fun (u : State) (op : Nat) (qa : Request) (st : Nat) => ∃ a, tfind u.husks.kept (senderKey qa) = some a ∧
       tfind u.husks.shown (senderKey qa) = some a ∧ a.opcode = op ∧ a.seq = qa.seq.toNat ∧ a.nonce = qa.nonce.toNat ∧ a.status = st ∧
       pip s < a.readyAt ∧ a.readyAt ≤ pip s + 3
     let done := fun (op : Nat) (row : Instr) => granted s op q = true → ∃ u, exec row s = .next u ∧ answered u op q 0
     let begun := fun (op : Nat) (row : Instr) (qa : Request) (kind : LongKind) => granted s op qa = true →
       ∃ u, exec row s = .next u ∧ answered u op qa 1 ∧ opened u qa kind
     (k ≤ 64 → done 0x0101 (.identity q)) ∧
     ((entryLen w).isSome = true → done 0x0102 (.configRead q)) ∧
     (par q 0 4 = 0xFFFFFFFF → done 0x0301 (.faultLogRead q)) ∧
     (k ≤ 31 → done 0x0302 (.historyRead q)) ∧
     (k < 64 → done 0x0303 (.trioStatusRead q)) ∧
     (w < 256 → done 0x0305 (.hullStatusRead q)) ∧
     ((classRow k).isSome = true → done 0x0306 (.classRead q)) ∧
     done 0x0402 (.powerRead q) ∧
     (w < 320 → done 0x0403 (.sensorRead q)) ∧
     (w < 512 → (group s w).opened = true → r ≤ (group s w).chans.length → done 0x0507 (.pgStatus q)) ∧
     (k < 4 → par q 1 1 < 2 → done 0x0604 (.engStatus q)) ∧
     done 0x0701 (.pipStatusRead q) ∧
     (k < 64 → par q 1 1 < 32 → done 0x0703 (.trioDump q)) ∧
     done 0x0707 (.huskStatus q) ∧
     (k ≤ 63 → done 0x0708 (.privLogRead q)) ∧
     (w < 4096 → done 0x020B (.sliceStatus q)) ∧
     (k < 16 → done 0x020C (.partStatus q)) ∧
     ((keyE s w).isSome = true → done 0x0804 (.keyInfo q)) ∧
     (k < 8 → done 0x0806 (.measurementRead q)) ∧
     done 0x0807 (.imageStatus q) ∧
     (k < 16 → ((part s k).state = .running ∨ (part s k).state = .quiesced ∨ (part s k).state = .held) →
       begun 0x0203 (.partStop q) q (.partStop k) ∧ begun 0x0206 (.partRestart q) q (.partRestart k)) ∧
     (k < 16 → rangeOk (par q 8 8) (par q 16 8) = true → rangeTaken s (par q 8 8) (par q 16 8) = false → (freeRange s k).isSome = true →
       begun 0x0204 (.partRangeAdd q) q (.rangeAdd k (par q 8 8) (par q 16 8))) ∧
     (w < 4096 → (sliceE s w).state = .active → begun 0x0209 (.sliceReset q) q (.sliceReset w)) ∧
     (w < 4096 → (sliceE s w).logOn = true →
       (par (withAction q 1) 0 2 = w → begun 0x020A (.sliceLogSwitch q) (withAction q 1) (.logSwitch w false)) ∧
       (par (withAction q 2) 0 2 = w → begun 0x020A (.sliceLogStop q) (withAction q 2) (.logSwitch w true))) ∧
     ((s.mode.mode = 5 ∨ s.mode.mode = 6) → s.mode.parkReq = false → s.mode.parkCond = false → s.mode.quiesceReq = 0#16 →
       begun 0x0405 (.park q) q .park) ∧
     (s.mode.parkCond = true → s.mode.unparkReq = false → begun 0x0406 (.unpark q) q .unpark) ∧
     (w < 512 → (group s w).opened = true →
       ((group s w).closing = false → begun 0x0502 (.pgClose q) q (.pgClose w)) ∧
       ((group s w).query = none → 1 ≤ par q 8 1 → par q 8 1 ≤ 4 → begun 0x0508 (.resumeQuery q) q (.resumeQuery w)) ∧
       ((group s w).keyValue.isSome = true → (group s w).rekey = none → begun 0x0805 (.rekey q) q (.rekey w))) ∧
     (w < 4096 → r < 2 →
       ((ring s (pairKey w r)).active = true → (ring s (pairKey w r)).tearing = false →
         begun 0x0506 (.ringTeardown q) q (.ringTeardown w r)) ∧
       ((eqq s (pairKey w r)).active = true → (eqq s (pairKey w r)).tearing = false →
         begun 0x0602 (.engqTeardown q) q (.engqTeardown w r)) ∧
       ((eqq s (pairKey w r)).active = true → begun 0x0603 (.engqAbort q) q (.engqAbort w r))) ∧
     (par q 0 8 % 1024 = 0 → par q 8 8 % 1024 = 0 → 0 < par q 8 8 → par q 0 8 + par q 8 8 ≤ hbmTop →
       begun 0x0702 (.demandScrub q) q (.scrub (par q 0 8) (par q 8 8))) ∧
     ((s.mode.mode = 5 ∨ s.mode.mode = 6) → s.mode.parkReq = false → s.mode.parkCond = false →
       (∃ p, p < 16 ∧ (BitVec.ofNat 16 w).getLsbD p = true ∧ (part s p).state = .running) →
       begun 0x0705 (.quiesce q) q (.quiesce w)) ∧
     ((∃ p, p < 16 ∧ (BitVec.ofNat 16 w).getLsbD p = true ∧ (part s p).state = .quiesced) →
       begun 0x0706 (.quiesceEnd q) q (.quiesceEnd w)) ∧
     (k < 6 → dieLost s k = true → k ∉ s.mode.rejoining → begun 0x0709 (.unitRejoin q) q (.unitRejoin k)))) ∧
  (∀ (s : State) (opcode : Half) (q : Request) (o : LongOp), let qp := { q with flags := q.flags ||| 2#8 }
     taking s qp = true → privileged s opcode.toNat qp = true → malformed qp = false →
     opOf s opcode.toNat qp = some o →
     (o.done = false → ∃ u, exec (.commandPoll opcode q) s = .next u ∧ replied s u opcode.toNat qp 0x02 o.result ∧
       u.husks.longOps = s.husks.longOps ∧ u = { s with husks := u.husks, free := u.free }) ∧
     (o.done = true → ∃ u, exec (.commandPoll opcode q) s = .next u ∧ replied s u opcode.toNat qp o.status o.result ∧
       u.husks.longOps = s.husks.longOps ∧ u = { s with husks := u.husks, free := u.free }))

/-- The commands that read: each that is granted with parameters in range is done with the whole result that the register, record or table
gives, and changes nothing but the reply. IDENTITY and HUSK_STATUS answer any sender, the latter with IGNORED_COUNT 0 for one that is not
privileged (R156, R236, R336, R384, R405, R408, R448, R452, R468, R476, R482, R522). Where the spec places no parameter or result bytes,
their places are the model's own (LOG 31, LOG 12 for the dump of shadow state, LOG 33). -/
def Obligations.ReadCommands : Prop :=
  ∀ (s : State) (q : Request),
    let k := par q 0 1
    let w := par q 0 2
    let quiet := fun (u : State) => u = { s with husks := u.husks, free := s.free + 1 }
    let gives := fun (op : Nat) (row : Instr) (result : List Byte) => granted s op q = true →
      ∃ u, exec row s = .next u ∧ replied s u op q 0 result ∧ quiet u
    let toAll := fun (op : Nat) (row : Instr) (result : List Byte) => taking s q = true → fresh s q = true → privileged s op q = false →
      isPoll q = false → precheck s op q = none → ∃ u, exec row s = .next u ∧ replied s u op q 0 result ∧ quiet u
    let page := (List.range 8).flatMap (fun i => leBytes 6 (Config.channelAddress (8 * k - 8 + i)).toNat)
    let huskBytes := fun (n : Nat) => leBytes 8 (seedWord s).toNat ++ leBytes 4 n ++ leBytes 4 0 ++
      leBytes 8 (match s.husks.lastSwap with | some x => x.toNat | none => 0)
    (k = 0 → gives 0x0101 (.identity q) (identityPage0 s) ∧ toAll 0x0101 (.identity q) (identityPage0 s)) ∧
    (1 ≤ k → k ≤ 64 → gives 0x0101 (.identity q) page ∧ toAll 0x0101 (.identity q) page) ∧
    (∀ v, entryValue s w = some v → gives 0x0102 (.configRead q) v) ∧
    (par q 0 4 = 0xFFFFFFFF →
      gives 0x0301 (.faultLogRead q) (leBytes 8 (fcStatusWord s).toNat ++ leBytes 8 s.faults.safeCause.toNat)) ∧
    (∀ i : W32, i.toNat = par q 0 4 → i ≠ 0xFFFFFFFF#32 → (s.faults.head - 1#32 - i).toNat < s.faults.kept →
      gives 0x0301 (.faultLogRead q) (tget (List.replicate 48 0#8) s.faults.log (i.toNat % 4096))) ∧
    (k ≤ 31 → gives 0x0302 (.historyRead q) ((List.range 4).flatMap (fun i =>
      match s.faults.history[k + i]? with | some e => historyBytes e | none => List.replicate 12 0#8))) ∧
    (k < 64 → gives 0x0303 (.trioStatusRead q) (leBytes 8 (trioStatusWord s k).toNat)) ∧
    (w < 256 → gives 0x0305 (.hullStatusRead q) (leBytes 8 (hullStatusWord (hull s w)).toNat)) ∧
    (∀ r, classRow k = some r → gives 0x0306 (.classRead q) (leBytes 1 (classCfg s k).n ++ leBytes 1 r.action ++
      leBytes 1 (if r.wholeClass then 1 else 0) ++ leBytes 1 (if r.locked then 1 else 0) ++ leBytes 4 (classCfg s k).w)) ∧
    gives 0x0402 (.powerRead q) (leBytes 2 (s.power.vinA + s.power.vinB + s.power.standby) ++ leBytes 2 s.power.vinA ++
      leBytes 2 s.power.vinB ++ leBytes 2 s.power.standby ++ leBytes 2 s.power.ivrLoss ++ leBytes 2 (s.power.newCap.getD s.power.cap) ++
      leBytes 2 (meanPower s) ++ [0#8, 0#8] ++ leBytes 8 (modeStatusWord s).toNat) ∧
    (w < 320 → gives 0x0403 (.sensorRead q) ((List.range 24).flatMap (fun i =>
      if w + i < 320 then leBytes 2 ((sensorAt s (w + i) / 8) % 65536).toNat else [0#8, 0#8]))) ∧
    gives 0x0701 (.pipStatusRead q) (leBytes 8 (pipStatusWord s).toNat) ∧
    (k < 64 → par q 1 1 < (if (trio s k).state = .split then 64 else 32) → gives 0x0703 (.trioDump q) ((List.range 40).map (fun i =>
      dumpByte (shadowBytes (par q 1 1 % 32) (taskSet s (2 * k + par q 1 1 / 32) (par q 1 1 % 32))) (par q 2 2 + i)))) ∧
    gives 0x0707 (.huskStatus q) (huskBytes (sat 32 s.husks.ignored)) ∧ toAll 0x0707 (.huskStatus q) (huskBytes 0) ∧
    (k ≤ 63 → gives 0x0708 (.privLogRead q) (match s.husks.privLog[k]? with
      | some e => leBytes 8 e.stamp.toNat ++ e.sender ++ leBytes 2 e.opcode ++ leBytes 1 e.reason
      | none => List.replicate 19 0#8)) ∧
    (k < 16 → gives 0x020C (.partStatus q) (
      leBytes 1 (match (part s k).state with | .stopped => 0 | .running => 1 | .quiesced => 2 | .held => 3 | .resetting => 4) ++
      leBytes 1 (part s k).homeHalf ++ leBytes 1 (if (part s k).autostart then 1 else 0) ++ leBytes 1 (rangesOf s k).length ++
      leBytes 4 (sat 32 (part s k).dropped) ++ leBytes 8 (part s k).start.toNat ++ leBytes 16 (part s k).lcores.toNat ++
      leBytes 8 (partBytes s k))) ∧
    (w < 4096 → gives 0x020B (.sliceStatus q) (leBytes 8 (sliceStatusWord (sliceE s w)).toNat)) ∧
    (w < 512 → (group s w).opened = true → let g := group s w
      (par q 2 1 = 0 → gives 0x0507 (.pgStatus q) (leBytes 4 (sat 32 g.lateDiscards) ++ leBytes 4 (sat 32 g.staleDiscards) ++
        leBytes 4 (sat 32 g.abortUnconfirmed) ++ leBytes 4 (chan s (g.chans.headD 0)).peerRetain ++ leBytes 4 (g.farIncarnation.getD 0) ++
        leBytes 1 g.chans.length ++ leBytes 1 (if g.isProtected then 1 else 0) ++ leBytes 1 (if g.closing then 1 else 0) ++
        leBytes 1 (chanDie (g.chans.headD 0) / 2) ++ leBytes 8 g.remote.toNat)) ∧
      (0 < par q 2 1 → par q 2 1 ≤ g.chans.length → let n := g.chans.getD (par q 2 1 - 1) 0
        gives 0x0507 (.pgStatus q) (leBytes 8 (pathStatusWord s n).toNat ++ leBytes 2 (chan s n).weight ++ leBytes 2 n ++
          leBytes 4 (chan s n).rtt ++ leBytes 4 (sat 32 (chan s n).discards) ++ leBytes 1 (chan s n).epoch ++
          leBytes 2 (chan s n).peerMaxOpen))) ∧
    (k < 4 → par q 1 1 < 2 → gives 0x0604 (.engStatus q)
      ((List.range 4).flatMap (fun i => leBytes 8 (engStatusWord s (8 * k + 4 * par q 1 1 + i)).toNat))) ∧
    (∀ x, keyE s w = some x → gives 0x0804 (.keyInfo q) (leBytes 1 x.kind ++ leBytes 1 x.dirs ++ leBytes 2 x.mask.toNat)) ∧
    (k < 8 → gives 0x0806 (.measurementRead q) (measOf s k)) ∧
    gives 0x0807 (.imageStatus q) (leBytes 1 s.boot.used ++ leBytes 1 s.boot.result0 ++ leBytes 1 s.boot.result1 ++ [0#8] ++
      leBytes 4 s.boot.version0 ++ leBytes 4 s.boot.version1 ++ leBytes 1 s.boot.svnFused ++ leBytes 1 s.boot.revoked.toNat ++
      leBytes 2 s.boot.keys.length ++ List.replicate 32 0#8)

/-- The commands that set: each that is granted with parameters in range is done, with its effect (R200, R210, R244, R287, R288, R330,
R331, R335, R337, R338, R347, R359, R383, R392, R405, R446, R468, R473, R475, R483, R485). Where the spec places no parameter bytes, their
places are the model's own (LOG 31). -/
def Obligations.SettingCommands : Prop :=
  ∀ (s : State) (q : Request),
    let k := par q 0 1
    let w := par q 0 2
    let gives := fun (op : Nat) (row : Instr) (qa : Request) (result : List Byte) (effect : State → Prop) => granted s op qa = true →
      ∃ u, exec row s = .next u ∧ replied s u op qa 0 result ∧ effect u
    (∀ len, entryLen w = some len → runTimeEntry w = true → entryInRange w (slice (params48 q) 8 len) = true →
      gives 0x0103 (.configWrite q) q [] (fun u => cfg u w = some (slice (params48 q) 8 len) ∧ ∀ m, m ≠ w → cfg u m = cfg s m)) ∧
    (k < 8 → par q 1 1 ≤ 8 → (par q 1 1 ≠ 0 ∨ ∃ i ∈ (rangeStacks (memAll8 s) (if k < 4 then 0 else halfTop)).1, i ≠ k ∧ nextWeight s i ≠ 0) →
      gives 0x0104 (.stackWeightSet q) q [] (fun u => (stack u k).pendingWeight = some (par q 1 1) ∧ (stack u k).weight = (stack s k).weight)) ∧
    (k < 64 → gives 0x0304 (.counterClear q) q [] (fun u =>
      trio u k = { trio s k with ckCount := 0, retryCount := 0, dissentCount := 0 } ∧ ∀ n, n ≠ k → trio u n = trio s n)) ∧
    (k = 255 → gives 0x0304 (.counterClear q) q [] (fun u =>
      ∀ n, n < 64 → trio u n = { trio s n with ckCount := 0, retryCount := 0, dissentCount := 0 })) ∧
    (classSettable k = true → classValueOk (par q 1 1) (par q 4 4) = true → gives 0x0307 (.classSet q) q [] (fun u =>
      u.faults.newClasses = s.faults.newClasses ++ [(k, { n := par q 1 1, w := par q 4 4 })] ∧ u.faults.classes = s.faults.classes)) ∧
    (1000 ≤ w → w ≤ 2500 → gives 0x0401 (.capSet q) q [] (fun u => u.power.newCap = some w ∧ u.power.cap = s.power.cap)) ∧
    (k < 64 → 1200 ≤ par q 2 2 → par q 2 2 ≤ 4800 → par q 2 2 % 25 = 0 →
      gives 0x0404 (.trioClockLimit q) q [] (fun u => trio u k = { trio s k with ceil := par q 2 2 })) ∧
    (k < 16 → par q 1 1 ≤ 1 → par q 8 8 % 2 = 0 → (part s k).state = .stopped →
      (∀ c, c < 128 → (BitVec.ofNat 128 (par q 16 16)).getLsbD c = true → lcoreExists s c = true) →
      (∀ o, o < 16 → o ≠ k → (part s o).lcores &&& BitVec.ofNat 128 (par q 16 16) = 0#128) →
      gives 0x0201 (.partDefine q) q [] (fun u => (part u k).lcores = BitVec.ofNat 128 (par q 16 16) ∧ (part u k).defined = true ∧
        (part u k).homeHalf = par q 1 1 ∧ (part u k).start = BitVec.ofNat 64 (par q 8 8) ∧ (part u k).state = .stopped ∧
        ∀ c : LC, (BitVec.ofNat 128 (par q 16 16)).getLsbD c = true → (part s k).lcores.getLsbD c = false →
          ∀ j, (taskSet u c j).tstat.state = .empty)) ∧
    (k < 16 → (part s k).state = .stopped → startable s k = true → startingCores s k ≠ [] →
      gives 0x0202 (.partStart q) q [] (fun u => (part u k).state = .running ∧ ∀ c ∈ startingCores s k, (lcore u c).started = true ∧
        (lcore u c).cur = 0 ∧ curSet u c = startSet (part s k).start (BitVec.ofNat 64 (range0 s k).1) k ∧
        ∀ j, j ≠ 0 → (taskSet u c j).tstat.state = .empty)) ∧
    (k < 16 → par q 1 1 < 16 → (tget (0, 0) (part s k).ranges (par q 1 1)).2 ≠ 0 → (part s k).state = .stopped →
      gives 0x0205 (.partRangeRemove q) q [] (fun u => tget (0, 0) (part u k).ranges (par q 1 1) = (0, 0) ∧ u.mem = s.mem)) ∧
    (∀ n, k < 16 → par q 1 1 ≤ 1 → par q 4 4 < 2 ^ 20 → (∀ m ∈ slicesOf s k, (sliceE s m).pid ≠ par q 4 4) → freeSlice s = some n →
      gives 0x0207 (.sliceCreate q) q (leBytes 2 n) (fun u => (sliceE u n).part = k ∧ (sliceE u n).pid = par q 4 4 ∧
        (sliceE u n).state = (if (part s k).state = .held ∨ (part s k).state = .quiesced then .held else .active) ∧
        (∀ g, tfind s.lastGen n = some g → (sliceE u n).gen = (g + 1) % 256) ∧ (tfind s.lastGen n = none → (sliceE u n).gen = 0))) ∧
    (w < 4096 → (sliceE s w).state ≠ .free → (sliceE s w).state ≠ .resetting → hasRings s w = false →
      gives 0x0208 (.sliceDestroy q) q [] (fun u => (sliceE u w).state = .free ∧ ∀ d, ∀ l ∈ leavesOf u d, l.slice ≠ w)) ∧
    (let qa := withAction q 0
     par qa 0 2 < 4096 → par qa 8 8 % 4096 = 0 → par qa 8 8 < 2 ^ 48 → 0 < par qa 16 8 → par qa 16 8 ≤ 2 ^ 28 →
      par qa 24 8 % 128 = 0 → par qa 32 8 % 128 = 0 →
      inRanges s (sliceE s (par qa 0 2)).part (par qa 24 8) (4 * logAreaBytes (par qa 16 8)) = true →
      inRanges s (sliceE s (par qa 0 2)).part (par qa 32 8) (4 * logAreaBytes (par qa 16 8)) = true →
      (sliceE s (par qa 0 2)).state ≠ .free → (sliceE s (par qa 0 2)).logOn = false →
      gives 0x020A (.sliceLogStart q) qa [] (fun u => let e := sliceE u (par qa 0 2)
        e.logOn = true ∧ e.logBuffer = false ∧ e.logOutside = false ∧ e.logIova = par qa 8 8 ∧ e.logPages = par qa 16 8 ∧
        e.buf0 = par qa 24 8 ∧ e.buf1 = par qa 32 8)) ∧
    (∀ g, 1 ≤ k → k ≤ 8 → isExpert q = false → BitVec.ofNat 16 (par q 28 2) ≠ 0#16 → listOk s (channelList q) = true →
      (par q 30 2 = 0 ∨ linkKeyOk s (par q 30 2) (BitVec.ofNat 16 (par q 28 2)) = true) →
      bothDies ({ chans := channelList q : Group }) = true → freeGroup s = some g →
      gives 0x0501 (.pgOpen q) q (leBytes 2 g) (fun u => (group u g).opened = true ∧ (group u g).chans = channelList q ∧
        (group u g).remote = BitVec.ofNat 64 (par q 20 8) ∧ (group u g).mask = BitVec.ofNat 16 (par q 28 2) ∧ (group u g).dPips = 20 ∧
        (group u g).exchTimeout = 1000000 ∧ (group u g).noPathWait = 1000000 ∧ (group u g).attemptMax = 7 ∧
        ((group u g).keyValue.isSome = true ↔ par q 30 2 ≠ 0) ∧ ∀ n ∈ channelList q, (chan u n).group = some g)) ∧
    (∀ g, 1 ≤ k → k ≤ 8 → isExpert q = true → par q 1 1 = 1 → (par q 2 2 = 0 ∨ (5 ≤ par q 2 2 ∧ par q 2 2 ≤ 1000)) →
      BitVec.ofNat 16 (par q 28 2) ≠ 0#16 → listOk s (channelList q) = true → par q 30 2 = 0 →
      bothDies ({ chans := channelList q : Group }) = false → freeGroup s = some g →
      gives 0x0501 (.pgOpen q) q (leBytes 2 g) (fun u => (group u g).opened = true ∧ (group u g).chans = channelList q ∧
        (group u g).isProtected = false ∧ (group u g).dPips = (if par q 2 2 = 0 then 20 else par q 2 2))) ∧
    (k = 0 ∨ isExpert q = false → (k = 0 ∨ bothDies ({ chans := channelList q : Group }) = false) → granted s 0x0501 q = true →
      ∃ u st, exec (.pgOpen q) s = .next u ∧ replied s u 0x0501 q st [] ∧ (st = 0x12 ∨ st = 0x20) ∧ u.groups = s.groups ∧ u.chans = s.chans) ∧
    (∀ x, w < 512 → (group s w).opened = true → setGroupParam (group s w) (par q 2 1) (par q 8 8) = some x →
      gives 0x0503 (.pgSet q) q [] (fun u => group u w = x)) ∧
    (∀ c, w < 512 → setChanParam (chan s w) (par q 2 1) (par q 8 8) = some c →
      gives 0x0504 (.chSet q) q [] (fun u => (chan u w).slots = c.slots ∧ (chan u w).weight = c.weight ∧ (chan u w).window = c.window ∧
        (chan u w).vlan = c.vlan ∧ ((chan s w).group.isSome = true → (chan u w).state ≠ .live))) ∧
    (w < 4096 → par q 2 1 < 2 → isExpert q = false → 6 ≤ par q 3 1 → par q 3 1 ≤ 16 → 6 ≤ par q 4 1 → par q 4 1 ≤ 16 →
      par q 8 8 % 4096 = 0 → par q 16 8 % 4096 = 0 → (sliceE s w).state ≠ .free → (ring s (pairKey w (par q 2 1))).active = false →
      sourceOk s w (par q 24 2) = true → ioLost s (2 * par q 2 1 + w % 2) = false →
      gives 0x0505 (.ringSetup q) q [] (fun u => let r := ring u (pairKey w (par q 2 1))
        r.active = true ∧ r.serve = w % 2 ∧ r.sqK = par q 3 1 ∧ r.cqK = par q 4 1 ∧ r.sqBase = par q 8 8 ∧ r.cqBase = par q 16 8 ∧
        r.source = par q 24 2 ∧ r.sqTail = 0#32 ∧ r.sqHead = 0#32 ∧ r.cqHead = 0#32 ∧ r.cqTail = 0#32)) ∧
    (w < 4096 → par q 2 1 < 2 → isExpert q = false → 4 ≤ par q 3 1 → par q 3 1 ≤ 12 → par q 8 8 % 4096 = 0 → (sliceE s w).state ≠ .free →
      (eqq s (pairKey w (par q 2 1))).active = false → sourceOk s w (par q 16 2) = true →
      gives 0x0601 (.engqSetup q) q [] (fun u => let x := eqq u (pairKey w (par q 2 1))
        x.active = true ∧ x.k = par q 3 1 ∧ x.base = par q 8 8 ∧ x.source = par q 16 2 ∧ x.eqTail = 0#32 ∧ x.eqHead = 0#32)) ∧
    (k < 32 → par q 1 1 ≤ 1 → par q 2 1 ≤ 1 → gives 0x0605 (.engSet q) q [] (fun u =>
      eng u k = { eng s k with inlineOnly := par q 1 1 == 1, maySleep := par q 2 1 == 1 })) ∧
    (∀ h, holderId s = some h → (s.mode.mode = 5 ∨ s.mode.mode = 6) → (huskOf s (otherHusk h)).stat = .ready →
      100 ≤ (huskOf s (otherHusk h)).matchPips → rebuilding s = false → s.husks.swapReq = none →
      gives 0x0704 (.swap q) q [BitVec.ofNat 8 (huskCode (otherHusk h)), BitVec.ofNat 8 (s.husks.seed.epoch + 1)]
        (fun u => u.husks.swapReq = some { opcode := 0x0704, q := q } ∧ u.husks.seed = s.husks.seed)) ∧
    (∀ h, holderId s = some h → ((s.mode.mode ≠ 5 ∧ s.mode.mode ≠ 6) ∨ (huskOf s (otherHusk h)).stat ≠ .ready ∨ (huskOf s (otherHusk h)).matchPips < 100 ∨ rebuilding s = true) →
      granted s 0x0704 q = true → ∃ u, exec (.swap q) s = .next u ∧ replied s u 0x0704 q 0x15 [] ∧ u.husks.swapReq = s.husks.swapReq) ∧
    (∀ h, 1 ≤ k → k ≤ 4 → par q 1 1 ≤ 3 → freeHandle s = some h →
      gives 0x0801 (.keyGenerate q) q (leBytes 2 h) (fun u => ∃ x, keyE u h = some x ∧ x.kind = k ∧ x.dirs = par q 1 1 ∧
        x.mask = BitVec.ofNat 16 (par q 2 2) ∧ x.stored = true ∧ ∀ n, n ≠ h → keyE u n = keyE s n)) ∧
    (∀ h x v, (par q 2 1 = 2 ∨ par q 2 1 = 3 ∨ par q 2 1 = 4) → keyE s w = some x → x.kind = 4 → x.dirs.testBit 1 = true →
      unwrapKey ((keyBytes x).take 32) (slice (params48 q) 8 40) = some v → freeHandle s = some h →
      gives 0x0802 (.keyImport q) q (leBytes 2 h) (fun u => ∃ y, keyE u h = some y ∧ y.kind = par q 2 1 ∧
        y.value = BitVec.ofNat 512 (ofBE (padTo 64 v)) ∧ y.stored = true)) ∧
    (∀ x, keyE s w = some x → (∀ e ∈ s.groups, e.2.opened = true → e.2.key ≠ some w) →
      gives 0x0803 (.keyDestroy q) q [] (fun u => keyE u w = none ∧ ∀ n, n ≠ w → keyE u n = keyE s n))

/-- The long operations: each that is granted is accepted, opened, and begun with the effect named (R204, R239, R277, R287, R323, R326,
R336, R338, R349, R382, R395, R396, R401, R489, R490, R491, R492). -/
def Obligations.LongCommands : Prop :=
  ∀ (s : State) (q : Request),
    let k := par q 0 1
    let w := par q 0 2
    let r := par q 2 1
    let begins := fun (op : Nat) (row : Instr) (qa : Request) (kind : LongKind) (effect : State → Prop) => granted s op qa = true →
      ∃ u, exec row s = .next u ∧ replied s u op qa 1 [] ∧ opened u qa kind ∧ effect u
    (k < 16 → (part s k).state ≠ .stopped → (part s k).state ≠ .resetting →
      begins 0x0203 (.partStop q) q (.partStop k) (fun u => (part u k).state = .resetting ∧ (part u k).after = .stopped ∧
        ∀ n ∈ slicesOf s k, (sliceE u n).state = .resetting)) ∧
    (k < 16 → rangeOk (par q 8 8) (par q 16 8) = true → rangeTaken s (par q 8 8) (par q 16 8) = false → (freeRange s k).isSome = true →
      begins 0x0204 (.partRangeAdd q) q (.rangeAdd k (par q 8 8) (par q 16 8)) (fun u => u.mem = s.mem ∧ part u k = part s k)) ∧
    (k < 16 → ((part s k).state = .running ∨ (part s k).state = .quiesced) →
      begins 0x0206 (.partRestart q) q (.partRestart k) (fun u => (part u k).state = .resetting ∧ (part u k).after = .running ∧
        ∀ c ∈ coresOf s k, (lcore u c).held = true)) ∧
    (k < 16 → (part s k).state = .held → partBytesIn s k (part s k).homeHalf + freeHbm s (part s k).homeHalf < partBytes s k →
      begins 0x0206 (.partRestart q) q (.partRestart k) (fun u => (part u k).state = .held)) ∧
    (w < 4096 → (sliceE s w).state ≠ .free → (sliceE s w).state ≠ .resetting →
      begins 0x0209 (.sliceReset q) q (.sliceReset w) (fun u => (sliceE u w).state = .resetting ∧ (sliceE u w).gen = (sliceE s w).gen ∧
        (∀ p : PairNo, (ring s (pairKey w p)).active = true → (ring u (pairKey w p)).sqTail = (ring s (pairKey w p)).sqHead) ∧
        (∀ e ∈ u.exchs, e.id.slice.val = w → isAccepted e = true ∧ (exRank e.st < 9 → e.terminating = true)))) ∧
    (let qa := withAction q 1
     par qa 0 2 < 4096 → (sliceE s (par qa 0 2)).logOn = true →
      begins 0x020A (.sliceLogSwitch q) qa (.logSwitch (par qa 0 2) false) (fun u =>
        sliceE u (par qa 0 2) = { sliceE s (par qa 0 2) with logBuffer := !(sliceE s (par qa 0 2)).logBuffer })) ∧
    (let qa := withAction q 2
     par qa 0 2 < 4096 → (sliceE s (par qa 0 2)).logOn = true →
      begins 0x020A (.sliceLogStop q) qa (.logSwitch (par qa 0 2) true) (fun u =>
        sliceE u (par qa 0 2) = { sliceE s (par qa 0 2) with logBuffer := !(sliceE s (par qa 0 2)).logBuffer })) ∧
    (s.mode.parkReq = false → s.mode.parkCond = false → s.mode.quiesceReq = 0#16 → (s.mode.mode = 5 ∨ s.mode.mode = 6) →
      begins 0x0405 (.park q) q .park (fun u => u.mode = { s.mode with parkReq := true })) ∧
    (s.mode.parkCond = true → s.mode.unparkReq = false →
      begins 0x0406 (.unpark q) q .unpark (fun u => u.mode = { s.mode with unparkReq := true })) ∧
    (w < 512 → (group s w).opened = true → (group s w).closing = false →
      begins 0x0502 (.pgClose q) q (.pgClose w) (fun u => group u w = { group s w with closing := true } ∧ u.exchs = s.exchs)) ∧
    (w < 4096 → r < 2 → (ring s (pairKey w r)).active = true → (ring s (pairKey w r)).tearing = false →
      begins 0x0506 (.ringTeardown q) q (.ringTeardown w r) (fun u => ring u (pairKey w r) = { ring s (pairKey w r) with tearing := true })) ∧
    (w < 512 → 1 ≤ par q 8 1 → par q 8 1 ≤ 4 → (group s w).opened = true → (group s w).query = none →
      begins 0x0508 (.resumeQuery q) q (.resumeQuery w) (fun u => ∃ x, (group u w).query = some x ∧ x.incarnation = par q 4 4 ∧
        x.tags = (List.range (par q 8 1)).map (fun i => BitVec.ofNat 64 (par q (16 + 8 * i) 8)) ∧
        x.sent = (livePaths s w).any (fun n => windowRoom (chan s n)))) ∧
    (w < 4096 → r < 2 → (eqq s (pairKey w r)).active = true → (eqq s (pairKey w r)).tearing = false →
      begins 0x0602 (.engqTeardown q) q (.engqTeardown w r) (fun u => eqq u (pairKey w r) = { eqq s (pairKey w r) with tearing := true })) ∧
    (w < 4096 → r < 2 → (eqq s (pairKey w r)).active = true →
      begins 0x0603 (.engqAbort q) q (.engqAbort w r) (fun u => (eqq u (pairKey w r)).eqTail = (eqq u (pairKey w r)).eqHead ∧
        (eqq u (pairKey w r)).fetchStopped = true ∧ activeJobs u w r = 0)) ∧
    (par q 0 8 % 1024 = 0 → par q 8 8 % 1024 = 0 → 0 < par q 8 8 → par q 0 8 + par q 8 8 ≤ hbmTop →
      begins 0x0702 (.demandScrub q) q (.scrub (par q 0 8) (par q 8 8)) (fun u => u.mem = s.mem ∧
        ∀ j : StackNo, rangeOnStack s (par q 0 8, par q 8 8) j = true → (stack u j).demandActive = true ∧ (stack u j).demandProgress = 0)) ∧
    ((s.mode.mode = 5 ∨ s.mode.mode = 6) → s.mode.parkReq = false → s.mode.parkCond = false →
      (∃ p, p < 16 ∧ (BitVec.ofNat 16 w).getLsbD p = true ∧ (part s p).state = .running) →
      begins 0x0705 (.quiesce q) q (.quiesce w) (fun u => u.mode = { s.mode with quiesceReq := s.mode.quiesceReq ||| BitVec.ofNat 16 w })) ∧
    ((∃ p, p < 16 ∧ (BitVec.ofNat 16 w).getLsbD p = true ∧ (part s p).state = .quiesced) →
      begins 0x0706 (.quiesceEnd q) q (.quiesceEnd w) (fun u =>
        u.mode = { s.mode with quiesceEndReq := s.mode.quiesceEndReq ||| BitVec.ofNat 16 w })) ∧
    (k < 6 → dieLost s k = true → k ∉ s.mode.rejoining →
      begins 0x0709 (.unitRejoin q) q (.unitRejoin k) (fun u => u.mode.rejoining = s.mode.rejoining ++ [k] ∧
        (s.mode.mode ≠ 11 → s.mode.base = 5 → s.mode.split = false → u.mode.mode = 10))) ∧
    (6 ≤ k → k < 8 → ((huskOf s (huskOfUnit k)).stat = .ready ∨ (huskOf s (huskOfUnit k)).stat = .idle) →
      begins 0x0709 (.unitRejoin q) q (.unitRejoin k) (fun u => (huskOf u (huskOfUnit k)).stat = .selfTest ∧
        (huskOf u (huskOfUnit k)).testSince = pip s)) ∧
    (w < 512 → (group s w).opened = true → (group s w).keyValue.isSome = true → (group s w).rekey = none →
      begins 0x0805 (.rekey q) q (.rekey w) (fun u => (group u w).rekey = some { since := pip s, nextEpoch := (group s w).keyEpoch + 1 }))

/-! ## Husks, the seed, events and mailboxes -/

/-- The seed: placed with husk A if it passed, else with B (R386); renewed with every die that the renewal reaches seeing it (R240, R387);
taken over by a READY standby 2,100 pips after the last renewal, with EPOCH counted (R389). A husk that fails a self-check is reported and
counted, the holder's writes are refused, and it goes into its self-test, or OUT at the third (R388, R396); a passed self-test leads to
the rejoin, a good copy to READY, a failed one to OUT (R396). -/
def Obligations.SeedAndHusks : Prop :=
  ∀ (s : State) (h : HuskId), let sd := s.husks.seed
    let unit := match h with | .a => 6 | .b => 7
    let fails := fun (u : State) => match h with | .a => u.husks.seed.failsA | .b => u.husks.seed.failsB
    timeRuns s = true →
    (s.mode.base = 1 → sd.epoch = 0 → s.husks.a.stat = .idle → s.husks.b.stat = .idle →
      (∀ bp, ∃ u, exec (.seedPlacement true bp) s = .next u ∧ u.husks.seed.holder = 1 ∧ u.husks.seed.epoch = 1 ∧ u.husks.a.stat = .holder ∧
        u.husks.b.stat = (if bp then .ready else .out)) ∧
      (∃ u, exec (.seedPlacement false true) s = .next u ∧ u.husks.seed.holder = 2 ∧ u.husks.seed.epoch = 1 ∧ u.husks.b.stat = .holder ∧
        u.husks.a.stat = .out) ∧
      (∃ u, exec (.seedPlacement false false) s = .next u ∧ u.husks.seed.holder = sd.holder ∧ u.mode.base = 1 ∧ reported u 1828)) ∧
    ((actingHusk s).isSome = true → sd.due ≤ pip s → overran s 4 = false → s.time.grain ≤ 767 →
      ∃ u, exec .seedRenewal s = .next u ∧ u.husks.seed.lastRenew = pip s ∧ pip s < u.husks.seed.due ∧
        u.husks.seed.due ≤ pip s + 400 ∧ u.husks.seed.holder = sd.holder ∧ u.husks.seed.epoch = sd.epoch ∧
        (∀ d, d < 6 → tget 0 u.net.renewSeen d = (if s.net.mgmt.getLsbD d then pip s else tget 0 s.net.renewSeen d))) ∧
    (holderId s = some h → (huskOf s (otherHusk h)).stat = .ready →
      (sd.lastRenew + 2100 ≤ pip s →
        ∃ u, exec .seedTakeover s = .next u ∧ holderId u = some (otherHusk h) ∧ (huskOf u (otherHusk h)).stat = .holder ∧
          u.husks.seed.epoch = (sd.epoch + 1) % 256 ∧ u.husks.seed.lastChange = 1 ∧ u.mem = s.mem ∧ u.husks.privLog = [] ∧
          ((huskOf s h).stat = .holder → reported u (1826 + (match h with | .a => 0 | .b => 1)) ∧ (huskOf u h).stat ≠ .holder)) ∧
      (pip s < sd.lastRenew + 2100 → exec .seedTakeover s = .next s)) ∧
    (∀ k : Fin 6, checkRuns s h k = true →
      (∃ u, exec (.huskSelfCheckFail h k) s = .next u ∧ reported u (1826 + (match h with | .a => 0 | .b => 1)) ∧ fails u = fails s + 1 ∧
        (huskOf u h).failures = (huskOf s h).failures + 1 ∧
        ((huskOf s h).failures < 2 → (huskOf u h).stat = .selfTest ∧ (huskOf u h).testSince = pip s) ∧
        (2 ≤ (huskOf s h).failures → (huskOf u h).stat = .out ∧ reported u 1829) ∧
        (holdsSeed s h = true → (huskOf u h).refused = true ∧ u.husks.seed.released = true ∧ actingHusk u = none))) ∧
    ((huskOf s h).stat = .selfTest →
      (∃ u, exec (.huskSelfTestEnd h true) s = .next u ∧ (huskOf u h).stat = .rejoin ∧ unit ∈ u.mode.rejoining ∧
        (s.mode.base = 5 → s.mode.split = false → s.mode.mode ≠ 11 → u.mode.mode = 10)) ∧
      (∃ u, exec (.huskSelfTestEnd h false) s = .next u ∧ (huskOf u h).stat = .out ∧ reported u 1829 ∧ unit ∉ u.mode.rejoining)) ∧
    ((huskOf s h).stat = .rejoin → actingHusk s = some (otherHusk h) →
      (∃ u, exec (.huskRejoinCopyDone h true) s = .next u ∧ (huskOf u h).stat = .ready ∧ (huskOf u h).refused = false ∧
        unit ∉ u.mode.rejoining) ∧
      exec (.huskRejoinCopyDone h false) s = .next s)

/-- Requests by the management buses and by a partition's mailbox: a whole block write, with a good PEC in SMBus mode, is queued up to 8
on each bus with SOURCE, address and stamp written by the hardware (R397, R506, R507); a block read returns the sender's reply (R400);
CMD_GO captures the request area, and is lost with GO_LOST while a request waits (R435, R436). R506, R507: a stuck line starts the
recovery of its bus, a line still low after it fails the bus with a report, and 100 ms high return it with another; a dynamic address
moves a bus to I3C. -/
def Obligations.RequestArrival : Prop :=
  (∀ (s : State) (b : Bus) (addr : Byte), let n := match b with | .mbA => 1 | .mbB => 2
     (timeRuns s = true → (mbus s b).failed = false →
       (∀ bytes ok, bytes.length = 64 → ((mbus s b).i3c.isSome = true ∨ ok = true) → (mbus s b).queue.length < 8 →
         ∃ u r, exec (.mbRequest b addr bytes ok) s = .next u ∧ (mbus u b).queue = (mbus s b).queue ++ [r] ∧
           r.opcode = ofLE (bytes.take 2) ∧ r.q.source = BitVec.ofNat 8 n ∧ r.q.addr = addr ∧ r.q.seq.toNat = ofLE ((bytes.drop 2).take 2) ∧
           r.q.paramLength.toNat = ofLE ((bytes.drop 4).take 2) ∧ r.q.params = bytes.drop 16 ∧ r.q.arrival = now s) ∧
       (∀ bytes, (mbus s b).i3c = none → exec (.mbRequest b addr bytes false) s = .next s) ∧
       (∀ bytes ok, bytes.length ≠ 64 → exec (.mbRequest b addr bytes ok) s = .next s) ∧
       (∃ u, exec (.mbReplyRead b addr) s = .next u ∧ (mbus u b).readOut = replyBytes s (n * 256 + addr.toNat) ∧ u.mem = s.mem)) ∧
     (∀ p : PartNo, ∀ v : W64, inService s = true → v.getLsbD 0 = true →
       ((cmdMbx s p).queued = none → (cmdMbx s p).area.length = 64 →
         ∃ u r, exec (.cmdGo p v) s = .next u ∧ (cmdMbx u p).queued = some r ∧ (cmdMbx u p).goLost = (cmdMbx s p).goLost ∧
           r.opcode = ofLE ((cmdMbx s p).area.take 2) ∧ r.q.source = BitVec.ofNat 8 (16 + p.val) ∧ r.q.params = (cmdMbx s p).area.drop 16 ∧
           r.q.arrival = now s) ∧
       ((cmdMbx s p).queued.isSome = true →
         ∃ u, exec (.cmdGo p v) s = .next u ∧ (cmdMbx u p).goLost = true ∧ (cmdMbx u p).queued = (cmdMbx s p).queued))) ∧
  (∀ (s : State) (b : Bus), timeRuns s = true →
     ((mbus s b).failed = false → ∃ u, exec (.mbBusStuck b) s = .next u ∧ (mbus u b).recovering = true ∧ (mbus u b).failed = false ∧
       (mbus u b).queue = (mbus s b).queue) ∧
     ((mbus s b).recovering = true → ∃ u, exec (.mbBusFail b) s = .next u ∧ (mbus u b).failed = true ∧
       reported u (match b with | .mbA => 1837 | .mbB => 1838) ∧ (mbus u b).queue = (mbus s b).queue) ∧
     ((mbus s b).failed = true → ∃ u, exec (.mbBusReturn b) s = .next u ∧ (mbus u b).failed = false ∧
       reported u (match b with | .mbA => 1837 | .mbB => 1838)) ∧
     ((mbus s b).failed = true → ∀ a, exec (.i3cAddressAssign b a) s = .next s) ∧
     ((mbus s b).failed = false → ∀ a, ∃ u, exec (.i3cAddressAssign b a) s = .next u ∧ (mbus u b).i3c = some a.toNat))

/-- Parking: PARK takes effect once no rebuild runs and no trio is in CHECKSTOP (R490); an idle or unowned trio is parked in M5 and M6
(R491). The rejoin of a die ends with the die in service and its hulls gone, or still fenced (R236, R492, R493). -/
def Obligations.ParkingAndRejoin : Prop :=
  ∀ (s : State),
    (inService s = true → s.mode.parkReq = true → rebuilding s = false → (∀ e ∈ s.trios, e.2.state ≠ .checkstop) →
      ∃ u, exec .parkEntry s = .next u ∧ u.mode.parkCond = true ∧ u.mode.parkReq = false ∧ u.mem = s.mem ∧
        (s.mode.split = false → s.mode.rejoining = [] → u.mode.mode = 9)) ∧
    ((s.mode.parkReq = false ∨ rebuilding s = true) → exec .parkEntry s = .next s) ∧
    (∀ t : TrioNo, timeRuns s = true → (s.mode.mode = 5 ∨ s.mode.mode = 6) → coldDie s (t.val / 32) = false → (trio s t).parked = false →
      (votes (trio s t) = true ∨ (trio s t).state = .split) → (trioUnowned s t = true ∨ 1000 ≤ (trio s t).idlePips) →
      ∃ u, exec (.trioAutoPark t) s = .next u ∧ (trio u t).parked = true ∧ wakeOf u (.trio t) = .asleep ∧ u.lcores = s.lcores ∧
        ∀ n, n ≠ t.val → trio u n = trio s n) ∧
    (∀ d : IoDie, timeRuns s = true → (2 + d.val) ∈ s.mode.rejoining →
      (∃ u, exec (.unitRejoinEnd (.io d) true) s = .next u ∧ dieLost u (2 + d.val) = false ∧ (2 + d.val) ∉ u.mode.rejoining ∧
        (hull u (HullAt.die (2 + d.val))).active = false ∧ (∀ h e : Fin 2, (link u (linkNo (.io d h e))).up = true)) ∧
      (∃ u, exec (.unitRejoinEnd (.io d) false) s = .next u ∧ dieLost u (2 + d.val) = dieLost s (2 + d.val) ∧
        (2 + d.val) ∉ u.mode.rejoining ∧ u.net = s.net)) ∧
    (∀ h : Fin 2, timeRuns s = true → h.val ∈ s.mode.rejoining →
      ∃ u, exec (.unitRejoinEnd (.half h) true) s = .next u ∧ dieLost u h = false ∧ h.val ∉ u.mode.rejoining ∧
        (hull u (HullAt.die h)).active = false ∧ (∀ q : Fin 4, (stack u (4 * h.val + q.val)).state = .active)) ∧
    (∀ h : HuskId, timeRuns s = true →
      ((huskOf s h).stat = .rejoin → actingHusk s = some (otherHusk h) →
        ∃ u, exec (.unitRejoinEnd (.husk h) true) s = .next u ∧ (huskOf u h).stat = .ready) ∧
      ((huskOf s h).stat = .selfTest → ∃ u, exec (.unitRejoinEnd (.husk h) false) s = .next u ∧ (huskOf u h).stat = .out))

/-- Event sources: EV_PENDING sets causes of a software source, EV_TAKE returns and clears PENDING in one step, EV_BIND binds to a vector,
task and logical core of the owner, and a cause that becomes enabled while pending makes a delivery due (R416, R417, R418, R423); a source
that the partition does not own is not written, which is counted, and reads as zero (R415). Mailboxes: MBX_SEND captures the staged
message with its stamp and sender, or sets REJECTED where the mailbox is not open to the sender's partition (R425, R426, R427);
MBX_DB_TAKE returns and clears MBX_DB (R429); RELEASE frees the slot only under the current SEQ (R431); a reset clears slot, SENDER,
STAMP, DB, FULL and COLLISION and keeps SEQ and COLLISIONS (R432). -/
def Obligations.EventsAndMailboxes : Prop :=
  (∀ (s : State) (p : PartNo) (e : SrcNo) (v : W64), inService s = true →
     (srcOwner s e = some p.val →
       (1296 ≤ e.val →
         ∃ u, exec (.evPendingWrite p e v) s = .next u ∧ (evSource u e).pending = (evSource s e).pending ||| v.setWidth 32 ∧
           (∀ n, n ≠ e.val → evSource u n = evSource s n)) ∧
       (e.val < 1296 → exec (.evPendingWrite p e v) s = .next s) ∧
       (∃ u, exec (.evTake p e) s = .next u ∧ u.readOut = (evSource s e).pending.setWidth 64 ∧ (evSource u e).pending = 0#32 ∧
         (∀ n, n ≠ e.val → evSource u n = evSource s n)) ∧
       (partOf s (v.extractLsb' 32 7).toNat = some p.val → (v.getLsbD 62 = true → v.extractLsb' 48 8 ≠ 0#8) →
         ∃ u, exec (.evBindWrite p e v) s = .next u ∧ (evSource u e).on = v.getLsbD 62 ∧ (evSource u e).vector = (v.extractLsb' 48 8).toNat ∧
           (evSource u e).task = (v.extractLsb' 40 5).toNat ∧ (evSource u e).lcore = (v.extractLsb' 32 7).toNat ∧
           (evSource u e).enable = v.setWidth 32 ∧ (evSource u e).undeliv = ((evSource s e).undeliv && !v.getLsbD 63) ∧
           (evSource u e).pending = (evSource s e).pending ∧
           (v.setWidth 32 &&& ~~~(evSource s e).enable &&& (evSource s e).pending ≠ 0#32 → (evSource s e).due = none →
             (evSource u e).due = some (pip s))) ∧
       ((partOf s (v.extractLsb' 32 7).toNat ≠ some p.val ∨ (v.getLsbD 62 = true ∧ v.extractLsb' 48 8 = 0#8)) →
         exec (.evBindWrite p e v) s = .next s)) ∧
     (srcOwner s e ≠ some p.val →
       (∃ u, exec (.evPendingWrite p e v) s = .next u ∧ u.events = s.events ∧ (part u p).dropped = (part s p).dropped + 1) ∧
       (∃ u, exec (.evBindWrite p e v) s = .next u ∧ u.events = s.events ∧ (part u p).dropped = (part s p).dropped + 1) ∧
       (∃ u, exec (.evTake p e) s = .next u ∧ u.events = s.events ∧ u.readOut = 0#64))) ∧
  (∀ (s : State), inService s = true →
     (∀ (c : LC) (k : SetNo) (v : W64) (p : Nat), partOf s c = some p →
       (mbxOpenTo s (v.extractLsb' 0 7).toNat p = true → s.events.sendQ.length < 512 →
         ∃ u x, exec (.mbxSend c k v) s = .next u ∧ u.events.sendQ = s.events.sendQ ++ [x] ∧ x.stamp = now s ∧ x.pip = pip s ∧
           x.mbx = (v.extractLsb' 0 7).toNat ∧ x.nomsg = v.getLsbD 7 ∧ x.db = v.extractLsb' 32 32 ∧ x.msg = (sendBlock s c k).stage ∧
           x.sender.part = p ∧ x.sender.lcore = c.val ∧ x.sender.task = k.val ∧ x.sender.priv = (taskSet s c k).tstat.priv) ∧
       (mbxOpenTo s (v.extractLsb' 0 7).toNat p = false →
         ∃ u, exec (.mbxSend c k v) s = .next u ∧ sendBlock u c k = { sendBlock s c k with rejected := true } ∧
           u.events.sendQ = s.events.sendQ)) ∧
     (∀ (p : PartNo) (m : MbxNo) (v : W64), let x := mailbox s m
       (mbxOwner s m = p.val →
         (∃ u, exec (.mbxDbTake p m) s = .next u ∧ u.readOut = x.db.setWidth 64 ∧ mailbox u m = { x with db := 0#32 }) ∧
         (∃ u, exec (.mbxRelease p m v) s = .next u ∧ mailbox u m = { x with full := x.full && !(v.extractLsb' 32 32 == x.seq) }) ∧
         (∃ u, exec (.mbxReset p m v) s = .next u ∧ mailbox u m = { x with
             msg := List.replicate 64 0#8, sender := {}, stamp := 0#64, db := 0#32, full := false, collision := false } ∧
           (evSource u (1024 + m.val)).pending = 0#32 ∧ (∀ q ∈ u.events.sendQ, q.mbx ≠ m.val) ∧
           (∀ n, n ≠ m.val → mailbox u n = mailbox s n))) ∧
       (mbxOwner s m ≠ p.val →
         (∃ u, exec (.mbxDbTake p m) s = .next u ∧ u.readOut = 0#64 ∧ u.events = s.events) ∧
         exec (.mbxRelease p m v) s = .next (dropWrite s p) ∧ exec (.mbxReset p m v) s = .next (dropWrite s p))))

/-! ## Faults, time, power and the boot -/

/-- R439, R454, R455: the first occurrence of a point in a pip is the event, stamped by its die, with its DETAIL, and a later one only
counts; a collector self-fault clears SELF_OK and forces M11 with CAUSE 0x02, unless a cause is held, and the pip's close then takes no
action. R450, R451: a pip writes at most 16 of the waiting records, in the order in which they wait, each at its INDEX mod 4,096 and INDEX
then one higher; a collector whose SELF_OK is 0 writes none (R454). R441, R443, R446, R448: the close at the edge takes every event of the
pip once; a count that has reached N events in its window makes one record, and with the class action SAFE it forces M11 and keeps the
point in SAFE_CAUSE. R448: a late occurrence of an event that was closed before changes no entry and is not classified. -/
def Obligations.FaultCollection : Prop :=
  (∀ (s : State), timeRuns s = true →
     (∀ (pt : PointNo) (d : Half), pt.val < 1839 →
       (∀ e ∈ s.faults.inbox, ¬(e.point = pt.val ∧ pipOf e.stamp = pipOf (stampAt s (ptDie pt)))) →
       ∃ u, exec (.faultPointReport pt d) s = .next u ∧
         u.faults.inbox = s.faults.inbox ++ [{ stamp := stampAt s (ptDie pt), point := pt.val, detail := d }]) ∧
     (∀ (pt : PointNo) (d : Half) (e : FEvent), pt.val < 1839 → s.faults.inbox = [e] → e.point = pt.val → pipOf e.stamp = pipOf (stampAt s (ptDie pt)) →
       ∃ u, exec (.faultPointReport pt d) s = .next u ∧ u.faults.inbox = [{ e with rep := e.rep + 1 }]) ∧
     (∀ (k : Fin 3), s.faults.selfOk = true → s.mode.mode ≠ 11 → field s.faults.safeCause 23 16 = 0 → pip s < 2 ^ 32 →
       ∃ u, exec (.collectorSelfFault k) s = .next u ∧ u.faults.selfOk = false ∧ u.mode.mode = 11 ∧ u.mode.prev = s.mode.mode ∧
         u.faults.waiting = s.faults.waiting ∧ u.faults.log = s.faults.log ∧ field u.faults.safeCause 23 16 = 2 ∧
         field u.faults.safeCause 10 0 = 0 ∧ field u.faults.safeCause 63 32 = pip s)) ∧
  ((∀ (s : State), timeRuns s = true → s.faults.selfOk = true → s.faults.wrotePip ≠ pip s →
     ∃ u, exec .faultRecordWrite s = .next u ∧ u.faults.waiting = s.faults.waiting.drop 16 ∧
       u.faults.head = s.faults.head + BitVec.ofNat 32 (min 16 s.faults.waiting.length) ∧ u.faults.wrotePip = pip s ∧
       u.faults.wrote = min 16 s.faults.waiting.length) ∧
   (∀ (s : State) (r : FRecord), timeRuns s = true → s.faults.selfOk = true → s.faults.wrotePip ≠ pip s → s.faults.waiting = [r] →
     ∃ u, exec .faultRecordWrite s = .next u ∧
       u.faults.log = tset s.faults.log (s.faults.head.toNat % 4096) (faultRecordBytes s r) ∧ (faultRecordBytes s r).length = 48) ∧
   (∀ (s : State), timeRuns s = true → s.faults.wrotePip = pip s → s.faults.wrote = 16 →
     ∃ u, exec .faultRecordWrite s = .next u ∧ u.faults.log = s.faults.log ∧ u.faults.waiting = s.faults.waiting ∧
       u.faults.head = s.faults.head) ∧
   (∀ (s : State), s.faults.selfOk = false → exec .faultRecordWrite s = .next s)) ∧
  ((∀ (s : State) (e : FEvent), s.faults.selfOk = true → s.faults.inbox = [e] → isTaken s.faults e = true → s.faults.counts = [] →
     (closePip s (pip s)).faults.history = s.faults.history ∧ (closePip s (pip s)).faults.waiting = s.faults.waiting ∧
       (closePip s (pip s)).faults.inbox = [] ∧ (closePip s (pip s)).mode = s.mode) ∧
   ∀ (s : State) (e : FEvent), s.faults.selfOk = true → s.faults.inbox = [e] → isTaken s.faults e = false → s.faults.counts = [] →
     pipOf e.stamp = pip s → e.point < 2048 →
     (1 < (classCfg s (classOf e.point)).n → (closePip s (pip s)).faults.waiting = s.faults.waiting ∧
       (closePip s (pip s)).mode = s.mode ∧ (closePip s (pip s)).faults.inbox = [] ∧
       (closePip s (pip s)).faults.history = (e :: s.faults.history).take 32) ∧
     ((classCfg s (classOf e.point)).n ≤ 1 → 0 < (classCfg s (classOf e.point)).w →
       (closePip s (pip s)).faults.waiting.map (fun r => (r.sealStamp, r.cls, r.point, r.detail, r.count, r.last)) =
         s.faults.waiting.map (fun r => (r.sealStamp, r.cls, r.point, r.detail, r.count, r.last)) ++
           [(e.stamp, classOf e.point, e.point, e.detail, 1, e.stamp)]) ∧
     ((classCfg s (classOf e.point)).n ≤ 1 → 0 < (classCfg s (classOf e.point)).w →
       (classRow (classOf e.point)).map (·.action) = some 6 → s.mode.mode ≠ 11 → field s.faults.safeCause 23 16 = 0 →
       (closePip s (pip s)).mode.mode = 11 ∧ field (closePip s (pip s)).faults.safeCause 23 16 = 1 ∧
       field (closePip s (pip s)).faults.safeCause 10 0 = e.point))

/-- R12: writing 1 to an RS bit clears it and writing 0 leaves it, and a write to a read-only register is ignored. That the status
registers of no window can be written is LOG 42. -/
def Obligations.RegisterWrites : Prop :=
  ∀ (s : State) (v : W64), timeRuns s = true →
    (∃ u, exec (.registerWrite .pipStatus v) s = .next u ∧ u.time.overrun = (s.time.overrun && !v.getLsbD 2) ∧
      u.time.refLost = (s.time.refLost && !v.getLsbD 1) ∧ u.time.holdover = s.time.holdover ∧ u.time.overrunCount = s.time.overrunCount) ∧
    (∀ (j : Fin 8), ∃ u, exec (.registerWrite (.stackStatus j) v) s = .next u ∧
      (stack u j).slow = ((stack s j).slow && !v.getLsbD 3) ∧ (stack u j).state = (stack s j).state) ∧
    (∀ h, ∃ u, exec (.registerWrite (.hullStatus h) v) s = .next u ∧ (hull u h).ever = ((hull s h).ever && !v.getLsbD 1) ∧
      (hull u h).active = (hull s h).active) ∧
    (∃ u, exec (.registerWrite .modeStatus v) s = .next u ∧ u.power.capUnmet = (s.power.capUnmet && !v.getLsbD 19) ∧ u.mode = s.mode) ∧
    (∃ u, exec (.registerWrite .seed v) s = .next u ∧
      u.husks.seed.released = (s.husks.seed.released && !v.getLsbD 7) ∧ u.husks.seed.epoch = s.husks.seed.epoch) ∧
    (∀ sl, ∃ u, exec (.registerWrite (.sliceStatus sl) v) s = .next u ∧
      (sliceE u sl).logOutside = ((sliceE s sl).logOutside && !v.getLsbD 5)) ∧
    exec (.registerWrite .readOnly v) s = .next s ∧
    (∀ p, inService s = true → ∃ u, exec (.registerWrite (.cmdStatus p) v) s = .next u ∧
      u.mem = s.mem ∧ u.lcores = s.lcores)

/-- R33, R34, R40, R41: the pip's edge takes the pip count one up and the grain to 0, the shadow staged in the pip becomes what the bus
returns, what the commit armed is in force from the edge on (cap, cooling demand, and a trio's clock and voltage), the snapshot holds what
the management links reach, and the new pip has no overrun yet; nothing happens while the time base is held. R40, R41, R42, R48: a window
of the pip runs once, and not before its first grain; the loop begins on the snapshot, which grain 15 ends. The commit arms the cap and
the pump's demand (R483, R505) for the next edge and stages what the bus then returns; an overrun of activity 2 leaves every output as it
is, one of activity 8 abandons the commit whole; what a holder whose writes are refused would commit is discarded and counted (R385, R388;
LOG 136). -/
def Obligations.PipAndWindows : Prop :=
  ((∀ (s : State) (i : PipInputs), timeRuns s = true →
     ∃ u, exec (.pipEdge i) s = .next u ∧ pip u = pip s + 1 ∧ u.time.grain = 0 ∧ u.time.realign = false ∧ u.time.overruns = [] ∧
       u.shadow = s.stagedShadow.getD s.shadow ∧ u.stagedShadow = none ∧ u.power.vinA = i.vinA ∧ u.power.vinB = i.vinB ∧
       u.power.prev = s.power.sensors ∧ u.pins.limitA = false ∧ u.pins.limitB = false ∧ u.net.mgmt = i.mgmt ∧ u.net.healthy = i.healthy ∧ u.power.armed = none ∧
       (s.power.armed = none → u.power.cap = s.power.cap ∧ u.power.pump = s.power.pump ∧ u.power.fan = s.power.fan) ∧
       (∀ a, s.power.armed = some a → u.power.cap = a.cap ∧ u.power.pump = a.pump ∧ u.power.fan = a.fan ∧
         (∀ n f, a.clocks = [(n, f)] → (trio u n).f = f ∧ (trio u n).volt = max f (trio s n).clk ∧
           (trio u n).clk = (if f ≤ (trio s n).clk then f else max (trio s n).clk (min f (trio s n).volt))))) ∧
   (∀ (s : State) (i : PipInputs), timeRuns s = false → exec (.pipEdge i) s = .next s)) ∧
  ((∀ (s : State), timeRuns s = true → s.time.eventPip ≠ some (pip s) → s.time.grain ≤ 895 →
     ∃ u, exec .eventDeliveryWindow s = .next u ∧ u.time.eventPip = some (pip s) ∧ 768 ≤ u.time.grain) ∧
   (∀ (s : State), (timeRuns s = false ∨ s.time.eventPip = some (pip s) ∨ 895 < s.time.grain) →
     ∃ u, exec .eventDeliveryWindow s = .next u ∧ u.time = s.time ∧ u.events = s.events) ∧
   (∀ (s : State) (i : HuskInputs), timeRuns s = true → (actingHusk s).isSome = true → s.time.loopPip ≠ some (pip s) → s.time.grain ≤ 15 →
     ∃ u, exec (.huskLoop i) s = .next u ∧ u.time.loopPip = some (pip s) ∧ 16 ≤ u.time.grain) ∧
   (∀ (s : State) (i : HuskInputs), (s.time.loopPip = some (pip s) ∨ 15 < s.time.grain ∨ actingHusk s = none ∨ timeRuns s = false) →
     exec (.huskLoop i) s = .next s) ∧
   (∀ (s : State), timeRuns s = true → (actingHusk s).isSome = true → s.time.commitPip ≠ some (pip s) → s.time.grain ≤ 1007 →
     ∃ u, exec .commitWindow s = .next u ∧ u.time.commitPip = some (pip s) ∧ 896 ≤ u.time.grain ∧
       (s.time.overruns.contains 8 = true → u.power = s.power ∧ u.trios = s.trios ∧ u.stagedShadow = s.stagedShadow ∧ u.mode = s.mode) ∧
       (s.time.overruns.contains 8 = false → u.power.cap = s.power.cap ∧ u.power.pump = s.power.pump ∧ u.stagedShadow.isSome = true ∧
         (s.time.overruns.contains 2 = true → u.power.armed = s.power.armed ∧ u.power.newCap = s.power.newCap) ∧
         (s.time.overruns.contains 2 = false → u.power.newCap = none ∧ ∃ a, u.power.armed = some a ∧
           a.cap = s.power.newCap.getD s.power.cap ∧ a.pump = (if s.mode.mode = 4 then 10 else 100)))) ∧
   (∀ (s : State), timeRuns s = true → (holderId s).isSome = true → actingHusk s = none →
     exec .commitWindow s = .next { s with husks := { s.husks with discarded := s.husks.discarded + 1 } }) ∧
   (∀ (s : State), (actingHusk s).isSome = true → (timeRuns s = false ∨ s.time.commitPip = some (pip s) ∨ 1007 < s.time.grain) →
     exec .commitWindow s = .next s))

/-- R32, R33, R42, R43, R456: an overrun is reported, counted and held; a lost REFCLK is reported and starts holdover without a change of
mode, which ends at its return; activity 9 can overrun on several channels in a pip; ALIVE changes level at each edge of a pip that is a
nonzero multiple of 500, while all is well. R481, R486, R488, R499: what the power and heat events leave. Each row of the time base, of
RESET_N and of standby power has its effect: the edge begins the next pip, the windows run once in it, RESET_N and standby power start and
end M1 and M0 (R34, R40, R478, R500, R521). -/
def Obligations.ClockAndPowerPins : Prop :=
  (∀ (s : State), timeRuns s = true →
     (∀ (a : Fin 10), a ≠ 0 → a ≠ 1 → a ≠ 8 → s.time.overruns.contains a.val = false →
       ∃ u, exec (.pipOverrun a) s = .next u ∧ reported u 1825 ∧ u.time.overrun = true ∧ u.time.overrunCount = s.time.overrunCount + 1 ∧
         u.time.lastOverrun = a.val ∧ u.mode = s.mode) ∧
     (exec (.pipOverrun 0) s = .next s ∧ ∀ (a : Fin 10), a ≠ 9 → s.time.overruns.contains a.val = true → exec (.pipOverrun a) s = .next s) ∧
     (∃ u, exec (.pipOverrun 9) s = .next u ∧ u.time.overrunCount = s.time.overrunCount + 1) ∧
     (∀ (a : Fin 10) (h : HuskId), a = 1 ∨ a = 8 → s.time.overruns.contains a.val = false → actingHusk s = some h →
       ∃ u, exec (.pipOverrun a) s = .next u ∧ reported u (1826 + (match h with | .a => 0 | .b => 1))) ∧
     (s.time.holdover = false → ∃ u, exec .refclkLost s = .next u ∧ reported u 1824 ∧ u.time.holdover = true ∧ u.time.refLost = true ∧ u.mode = s.mode ∧
       u.time.pip = s.time.pip ∧ u.time.grain = s.time.grain) ∧
     (s.time.holdover = true → ∃ u, exec .holdoverExit s = .next u ∧ u.time.holdover = false ∧ u.time.realign = true ∧
       u.time.pip = s.time.pip) ∧
     (s.time.grain = 0 → pip s ≠ 0 → s.pins.aliveAt ≠ pip s → 1 ≤ s.mode.mode → s.mode.mode ≤ 10 →
       s.faults.selfOk = true → s.faults.huskNone = false → s.pins.aliveStopped = false → pip s % 500 = 0 →
       ∃ u, exec .aliveToggle s = .next u ∧ u.pins.alive = !s.pins.alive ∧ exec .aliveToggle u = .next u) ∧
     (pip s % 500 ≠ 0 ∨ s.faults.selfOk = false ∨ s.faults.huskNone = true ∨ s.mode.mode = 11 → exec .aliveToggle s = .next s)) ∧
  ((∀ (s : State), timeRuns s = true →
     (∀ i, ∃ u, exec (.pipEdge i) s = .next u ∧ pip u = pip s + 1 ∧ u.time.grain = 0) ∧
     (s.time.eventPip ≠ some (pip s) → s.time.grain ≤ 895 →
       ∃ u, exec .eventDeliveryWindow s = .next u ∧ u.time.eventPip = some (pip s)) ∧
     ((actingHusk s).isSome = true → s.time.loopPip ≠ some (pip s) → s.time.grain ≤ 15 →
       ∀ i, ∃ u, exec (.huskLoop i) s = .next u ∧ u.time.loopPip = some (pip s)) ∧
     ((actingHusk s).isSome = true → s.time.commitPip ≠ some (pip s) → s.time.grain ≤ 1007 →
       ∃ u, exec .commitWindow s = .next u ∧ u.time.commitPip = some (pip s))) ∧
   (∀ (s : State),
     (s.pins.resetN = false → ∀ m, ∃ u, exec (.resetNRelease m) s = .next u ∧ u.pins.resetN = true ∧ u.pins.mbaddr = m) ∧
     (s.pins.resetN = true → ∃ u, exec .resetNAssert s = .next u ∧ u.pins.resetN = false) ∧
     (s.pins.standbyGood = true → ∃ u, exec .standbyPowerLoss s = .next u ∧ u.pins.standbyGood = false ∧ u.mode.mode = 0) ∧
     (s.pins.standbyGood = false → ∃ u, exec .standbyPowerGood s = .next u ∧ u.pins.standbyGood = true ∧ u.mode.mode = 1)) ∧
   ∀ (s : State), timeRuns s = true →
     (s.pins.pwrOk = true → 2 ≤ s.mode.mode → s.mode.mode ≤ 10 →
       ∃ u, exec .pwrOkFall s = .next u ∧ u.pins.pwrOk = false ∧ reported u 1831 ∧ reported u 1832 ∧ u.mode = s.mode) ∧
     (s.mode.mode ≤ 1 → ∃ u, exec .pwrOkFall s = .next u ∧ u.pins.pwrOk = false ∧ u.mode = s.mode ∧ u.faults = s.faults) ∧
     (s.mode.mode = 1 → s.mode.base = 1 → (holderId s).isSome = true →
       ∃ u, exec .pwrOkRise s = .next u ∧ u.pins.pwrOk = true ∧ u.mode.mode = 2 ∧ u.mode.prev = 1) ∧
     (s.mode.mode = 1 → holderId s = none → ∃ u, exec .pwrOkRise s = .next u ∧ u.mode = s.mode) ∧
     (∀ high, 2 ≤ s.mode.mode →
       (∃ u, exec (.inputLoss 0 high) s = .next u ∧ reported u 1831 ∧ u.pins.inA = false ∧ u.pins.inB = s.pins.inB ∧ u.mode = s.mode) ∧
       (∃ u, exec (.inputLoss 1 high) s = .next u ∧ reported u 1832 ∧ u.pins.inB = false ∧ u.pins.inA = s.pins.inA ∧ u.mode = s.mode)) ∧
     (2 ≤ s.mode.base →
       (∃ u, exec (.ivrCurrentLimit 0) s = .next u ∧ u.pins.limitA = true ∧ u.pins.limitB = s.pins.limitB) ∧
       (∃ u, exec (.ivrCurrentLimit 1) s = .next u ∧ u.pins.limitB = true ∧ u.pins.limitA = s.pins.limitA)) ∧
     (∀ (i : Fin 320), 312 ≤ i.val ∨ 2 ≤ s.mode.base →
       ∃ u, exec (.thermalTrip i) s = .next u ∧ reported u 1830 ∧ u.pins.thermtripN = false ∧ u.mode = s.mode) ∧
     (∀ (v : State) (i : Fin 320), v.pins.standbyGood = true → v.pins.resetN = false → 312 ≤ i.val →
       ∃ u, exec (.thermalTrip i) v = .next u ∧ u.pins.thermtripN = false ∧ u.faults = v.faults))

/-- R34, R452, R469, R473, R478, R500, R506, R521: a RESET_N assertion takes the module to M1 at pip 0, grain 0 with nothing running: it
writes the records that wait, each at its place in the log, and keeps the log, its head, OVERFLOW, SAFE_CAUSE, the pending weights, the
stored keys, the fuses and, until its release, the measurement registers. A release samples MBADDR and starts the boot with the count of
boots one higher and the ROM measured. A loss of standby power is M0, and loses the log; its return with RESET_N high starts the module at
once, the model's own choice (LOG 49). -/
def Obligations.ResetAndPower : Prop :=
  let kept := fun (s u : State) => u.boot.svnFused = s.boot.svnFused ∧ u.boot.revoked = s.boot.revoked ∧
    (∀ h k, keyE s h = some k → k.stored = true → ∃ x, keyE u h = some x ∧ x.stored = true ∧ x.value = k.value ∧ x.kind = k.kind ∧
      x.dirs = k.dirs ∧ x.mask = k.mask ∧ x.inst = k.inst) ∧
    (∀ h k, keyE u h = some k → k.stored = true)
  let still := fun (u : State) => u.lcores = [] ∧ u.parts = [] ∧ u.groups = [] ∧ u.exchs = [] ∧ u.jobs = [] ∧ u.husks = {} ∧ u.mem = {} ∧
    u.time.pip = 0 ∧ u.time.grain = 0 ∧ u.pins.alive = false ∧ u.pins.thermtripN = true
  let started := fun (s u : State) => u.ident.boot = (s.ident.boot + 1) % 65536 ∧ u.boot.stages = 1 ∧ u.boot.keys = s.boot.keys ∧
    measOf u 0 = sha384 (Config.romBytes 0) ∧ (∀ i, 1 ≤ i → i ≤ 6 → measOf u i = List.replicate 48 0#8) ∧
    measOf u 7 = sha384 (List.replicate 48 0#8 ++ sha384 (Config.romBytes 0))
  (∀ (s : State), s.pins.resetN = true → s.pins.standbyGood = true →
    ∃ u, exec .resetNAssert s = .next u ∧ u.pins.resetN = false ∧ u.pins.standbyGood = true ∧ u.mode.mode = 1 ∧ still u ∧ kept s u ∧
      u.boot.meas = s.boot.meas ∧ u.faults.selfOk = true ∧ u.faults.history = [] ∧ u.faults.counts = [] ∧ u.faults.inbox = [] ∧
      u.faults.waiting = [] ∧ u.faults.overflow = s.faults.overflow ∧ u.faults.safeCause = s.faults.safeCause ∧
      (s.faults.waiting = [] ∨ s.faults.selfOk = false → u.faults.log = s.faults.log ∧ u.faults.head = s.faults.head) ∧
      (s.faults.selfOk = true → u.faults.head = s.faults.head + BitVec.ofNat 32 s.faults.waiting.length ∧
        ∀ r, s.faults.waiting = [r] → u.faults.log = tset s.faults.log (s.faults.head.toNat % 4096) (faultRecordBytes s r)) ∧
      (∀ j, (stack u j).pendingWeight = (stack s j).pendingWeight)) ∧
  (∀ (s : State), (s.pins.resetN = false → exec .resetNAssert s = .next s) ∧
    (s.pins.resetN = true → s.pins.standbyGood = false →
      exec .resetNAssert s = .next { s with pins := { s.pins with resetN := false } })) ∧
  (∀ (s : State) (m : BitVec 3),
    (s.pins.resetN = false → s.pins.standbyGood = true →
      ∃ u, exec (.resetNRelease m) s = .next u ∧ u.pins.resetN = true ∧ u.pins.mbaddr = m ∧ u.faults = s.faults ∧ u.mode = s.mode ∧
        u.time = s.time ∧ started s u) ∧
    (s.pins.resetN = false → s.pins.standbyGood = false →
      exec (.resetNRelease m) s = .next { s with pins := { s.pins with resetN := true, mbaddr := m } }) ∧
    (s.pins.resetN = true → exec (.resetNRelease m) s = .next s)) ∧
  (∀ (s : State), (s.pins.standbyGood = true →
      ∃ u, exec .standbyPowerLoss s = .next u ∧ u.mode.mode = 0 ∧ u.pins.standbyGood = false ∧ u.pins.resetN = s.pins.resetN ∧
        u.faults = {} ∧ still u ∧ kept s u ∧ u.boot.meas = [] ∧ u.ident.boot = 0 ∧ ∀ j, (stack u j).pendingWeight = none) ∧
    (s.pins.standbyGood = false → exec .standbyPowerLoss s = .next s)) ∧
  (∀ (s : State), (s.pins.standbyGood = true → exec .standbyPowerGood s = .next s) ∧
    (s.pins.standbyGood = false →
      ∃ u, exec .standbyPowerGood s = .next u ∧ u.pins.standbyGood = true ∧ u.pins.resetN = s.pins.resetN ∧ u.mode.mode = 1 ∧
        (s.pins.resetN = true → started s u) ∧
        (s.pins.resetN = false → u.ident = s.ident ∧ u.boot = s.boot)))

/-- R464-R466, R469, R478: M2 ends in M3 with the copy of the higher VERSION of those that pass, or copy 0, or the factory defaults with
DEFAULTED and its report. R30, R36: the built-in test trims each time base, and SKEW_MAX takes the largest difference between two of the
seven. R478, R482: it leaves M4 while a valid sensor reads below 0 °C, with the cores at 1.2 GHz, and M11 with SAFE_REASON 3 when it
leaves no usable half. -/
def Obligations.Boot : Prop :=
  (∀ (s : State) (c0 c1 : CopyIn), timeRuns s = true → s.mode.base = 2 → s.mode.mode = 2 → s.mode.rejoining = [] →
     ∃ u, exec (.imageCheckEnd c0 c1) s = .next u ∧ u.mode.mode = 3 ∧ u.mode.prev = 2 ∧
       (checkCopy s c0 = 0 → checkCopy s c1 = 0 → versionOf c1 ≤ versionOf c0 → u.boot.used = 0 ∧ u.boot.result1 = 0x0B) ∧
       (checkCopy s c0 = 0 → checkCopy s c1 = 0 → versionOf c0 < versionOf c1 → u.boot.used = 1 ∧ u.boot.result0 = 0x0B) ∧
       (checkCopy s c0 = 0 → checkCopy s c1 ≠ 0 → u.boot.used = 0 ∧ u.boot.result1 = checkCopy s c1) ∧
       (checkCopy s c0 ≠ 0 → checkCopy s c1 = 0 → u.boot.used = 1 ∧ u.boot.result0 = checkCopy s c0) ∧
       (checkCopy s c0 ≠ 0 → checkCopy s c1 ≠ 0 → u.boot.used = 0xFF ∧ u.boot.defaulted = true ∧ u.boot.entries = [] ∧
         reported u 1833 ∧ ∀ p, p < 16 → (part u p).defined = false) ∧
       u.boot.stages = 4 ∧ u.boot.svnFused = s.boot.svnFused ∧ u.boot.revoked = s.boot.revoked) ∧
  (∀ (s : State) (r : BistIn), timeRuns s = true → s.mode.base = 3 → s.mode.mode = 3 → s.mode.rejoining = [] → s.mode.split = false →
     ∃ u, exec (.builtInTestEnd r) s = .next u ∧ (let base := fun (d : Nat) => (tget 1 u.time.trims d).val
         (∀ a b, a < 7 → b < 7 → base a - base b ≤ u.time.skewMax) ∧ (∃ a, a < 7 ∧ ∃ b, b < 7 ∧ u.time.skewMax = base a - base b) ∧
         (∀ d x, r.trims = [(d, x)] → base d.val = x.val ∧ ∀ n, n ≠ d.val → base n = 1)) ∧
       ((∃ i ∈ r.failedDies, i.val = 0) → (∃ i ∈ r.failedDies, i.val = 1) → u.mode.mode = 11 ∧ u.mode.safeReason = 3) ∧
       (r.failedDies = [] → r.failedCores = [] → r.failedStacks = [] → s.net.lost = [] → s.power.sensors = [(5, -8)] →
         s.power.invalid = [] → s.trios = [] → s.cores = [] → s.boot.entries = [] → u.mode.mode = 4 ∧ u.mode.base = 4 ∧ ∀ n, n < 64 → (trio u n).clk = 1200))

/-- R470: at the lock point the fused SVN count becomes SVN if ADVANCE_SVN is set and SVN is higher, and every slot named in REVOKE is
fused; a boot from the factory defaults changes no fuse, and a loss of power before the lock point leaves the fuses as they are. M4 ends
in that entry into service after 100 pips at 0 °C or above (R469, R478, R487). R470, R521: no step clears a revoked key slot or lowers the
fused SVN count, resets and losses of power among them. -/
def Obligations.FusesAtLockPoint : Prop :=
  ((∀ (s : State), let u := enterService s
     u.boot.locked = true ∧ u.mode.base = 5 ∧ u.boot.stages = 7 ∧
     (s.boot.defaulted = true → u.boot.svnFused = s.boot.svnFused ∧ u.boot.revoked = s.boot.revoked) ∧
     (s.boot.defaulted = false → u.boot.revoked = s.boot.revoked ||| s.boot.revoke ∧
       (s.boot.advance = true → s.boot.svnFused < s.boot.svn → u.boot.svnFused = s.boot.svn) ∧
       (s.boot.advance = false ∨ s.boot.svn ≤ s.boot.svnFused → u.boot.svnFused = s.boot.svnFused))) ∧
   (∀ (s : State), timeRuns s = true → s.mode.base = 4 → s.mode.mode ≠ 11 → 100 ≤ s.power.warmPips →
     exec .coldStartEnd s = .next (enterService s)) ∧
   (∀ (s : State), s.power.warmPips < 100 → exec .coldStartEnd s = .next s) ∧
   (∀ (s : State), s.boot.locked = false →
     ∃ u, exec .standbyPowerLoss s = .next u ∧ u.boot.svnFused = s.boot.svnFused ∧ u.boot.revoked = s.boot.revoked)) ∧
  (∀ (s t : State), step s = .next t →
     s.boot.svnFused ≤ t.boot.svnFused ∧ ∀ i, s.boot.revoked.getLsbD i = true → t.boot.revoked.getLsbD i = true)

/-! ## What every step keeps -/

/-- R26, R41, R479: whatever command a step takes, the mode word afterwards shows the highest of the modes whose conditions hold then, and
it is one of the twelve. -/
def Obligations.ModeFollowsConditions : Prop :=
  ∀ (s t : State), modeOk s = true → modeShown s = true → step s = .next t → modeOk t = true ∧ modeShown t = true

/-- Every step keeps main memory in its canonical form and the rings in the order of their keys. -/
def Obligations.MemoryStaysCanonical : Prop :=
  ∀ (s t : State), memOk s = true → ringsOk s = true → step s = .next t → memOk t = true ∧ ringsOk t = true

/-- R488: a module in M11 stays in M11, whatever the step, until RESET_N is asserted or standby power is lost. -/
def Obligations.SafeStateHolds : Prop :=
  ∀ (s t : State), s.mode.mode = 11 → (∀ c ∈ s.pending.head?, leavesSafe c = false) → step s = .next t → t.mode.mode = 11

/-- No command touches the commands that wait behind it, or what the part was made as: its ordering code and module ID (R5, R7, R10). -/
def Obligations.QueueAndIdentityKept : Prop :=
  ∀ (c : Instr) (s t : State), exec c s = .next t →
    t.pending = s.pending ∧ t.ident.code = s.ident.code ∧ t.ident.moduleId = s.ident.moduleId
end

