-- ==== Sys2Proof/Laws/Table.lean ====
section
/-! SUPPORT. What a sparse table answers after a write, and the canonical form of the memory lists. -/

namespace Sys2Proof.Machine

set_option Elab.async false

variable {α : Type}

@[simp] theorem tget_nil (d : α) (n : Nat) : tget d [] n = d := rfl

theorem tget_tset (d : α) (l : List (Nat × α)) (n m : Nat) (a : α) :
    tget d (tset l n a) m = if m = n then a else tget d l m := by
  induction l with
  | nil => simp [tset, tget]
  | cons e t ih =>
    obtain ⟨k, v⟩ := e
    unfold tset
    by_cases h1 : n = k
    · subst h1; by_cases hm : m = n <;> simp [tget, hm]
    · by_cases h2 : n < k
      · by_cases hm : m = n
        · subst hm; simp [h1, h2, tget]
        · simp only [h1, h2, if_true, if_false, hm]
          by_cases h3 : m < n
          · have h4 : m ≠ k := by omega
            have h5 : m < k := by omega
            simp [tget, h3, h4, h5, hm]
          · simp [tget, hm, h3]
      · simp only [h1, h2, if_false, tget]
        by_cases hk : m = k
        · subst hk; have : m ≠ n := fun h => h1 h.symm
          simp [this]
        · by_cases hl : m < k
          · have : m ≠ n := by omega
            simp [hk, hl, this]
          · simp [hk, hl, ih]

@[simp] theorem tget_tset_same (d : α) (l : List (Nat × α)) (n : Nat) (a : α) : tget d (tset l n a) n = a := by
  simp [tget_tset]

theorem tget_tset_other (d : α) (l : List (Nat × α)) {n m : Nat} (a : α) (h : m ≠ n) :
    tget d (tset l n a) m = tget d l m := by simp [tget_tset, h]

theorem tget_tmod (d : α) (l : List (Nat × α)) (n m : Nat) (f : α → α) :
    tget d (tmod d l n f) m = if m = n then f (tget d l n) else tget d l m := by simp [tmod, tget_tset]

@[simp] theorem tget_tmod_same (d : α) (l : List (Nat × α)) (n : Nat) (f : α → α) :
    tget d (tmod d l n f) n = f (tget d l n) := by simp [tmod]

theorem tget_tmod_other (d : α) (l : List (Nat × α)) {n m : Nat} (f : α → α) (h : m ≠ n) :
    tget d (tmod d l n f) m = tget d l m := by simp [tget_tmod, h]

/-! ## Rising keys and the canonical form -/

/-- Every key of a list lies above `n`. -/
def above (n : Nat) (l : List (Nat × α)) : Prop := ∀ e ∈ l, n < e.1

theorem tsorted_cons {e : Nat × α} {l : List (Nat × α)} : tsorted (e :: l) = true ↔ above e.1 l ∧ tsorted l = true := by
  induction l generalizing e with
  | nil => simp [tsorted, above]
  | cons b t ih =>
    simp only [tsorted, Bool.and_eq_true, decide_eq_true_eq, ih, above, List.mem_cons]
    constructor
    · rintro ⟨h1, h2⟩
      refine ⟨?_, h2⟩
      rintro x (rfl | hx)
      · exact h1
      · exact Nat.lt_trans h1 (h2.1 x hx)
    · rintro ⟨h1, h2⟩
      exact ⟨h1 b (.inl rfl), h2⟩

theorem tget_above (d : α) {l : List (Nat × α)} {n : Nat} (h : above n l) : tget d l n = d := by
  cases l with
  | nil => rfl
  | cons e t =>
    have h1 := h e (by simp)
    simp [tget, Nat.ne_of_lt h1, h1]

variable [DecidableEq α]

/-- The keys of a written list are the old ones and the one written. -/
theorem cset_key (d : α) (l : List (Nat × α)) (n : Nat) (a : α) : ∀ e ∈ cset d l n a, e.1 = n ∨ e ∈ l := by
  induction l with
  | nil => intro e he; simp only [cset] at he; split at he <;> simp_all
  | cons x t ih =>
    obtain ⟨k, v⟩ := x
    intro e he
    simp only [cset] at he
    split at he
    · rename_i h1
      split at he
      · exact .inr (by simp [he])
      · rcases List.mem_cons.1 he with rfl | h2
        · exact .inl h1.symm
        · exact .inr (by simp [h2])
    · split at he
      · split at he
        · exact .inr he
        · rcases List.mem_cons.1 he with rfl | h2
          · exact .inl rfl
          · exact .inr h2
      · rcases List.mem_cons.1 he with rfl | h2
        · exact .inr (by simp)
        · rcases ih e h2 with h3 | h3
          · exact .inl h3
          · exact .inr (by simp [h3])

theorem cset_sorted (d : α) (l : List (Nat × α)) (n : Nat) (a : α) (h : tsorted l = true) :
    tsorted (cset d l n a) = true := by
  induction l with
  | nil => simp only [cset]; split <;> rfl
  | cons x t ih =>
    obtain ⟨k, v⟩ := x
    have hx := tsorted_cons.1 h
    simp only [cset]
    split
    · split
      · exact hx.2
      · exact tsorted_cons.2 hx
    · split
      · rename_i h1 h2
        split
        · exact h
        · refine tsorted_cons.2 ⟨?_, h⟩
          intro e he
          rcases List.mem_cons.1 he with rfl | h3
          · exact h2
          · exact Nat.lt_trans h2 (hx.1 e h3)
      · rename_i h1 h2
        refine tsorted_cons.2 ⟨?_, ih hx.2⟩
        intro e he
        rcases cset_key d t n a e he with h3 | h3
        · simp only [h3]; omega
        · exact hx.1 e h3

theorem cset_clean (d : α) (l : List (Nat × α)) (n : Nat) (a : α) (h : ∀ e ∈ l, e.2 ≠ d) :
    ∀ e ∈ cset d l n a, e.2 ≠ d := by
  induction l with
  | nil => intro e he; simp only [cset] at he; split at he <;> simp_all
  | cons x t ih =>
    obtain ⟨k, v⟩ := x
    have ht : ∀ e ∈ t, e.2 ≠ d := fun e he => h e (by simp [he])
    have hv : v ≠ d := h (k, v) (by simp)
    intro e he
    simp only [cset] at he
    split at he
    · split at he
      · exact ht e he
      · rcases List.mem_cons.1 he with rfl | h2
        · assumption
        · exact ht e h2
    · split at he
      · split at he
        · exact h e he
        · rcases List.mem_cons.1 he with rfl | h2
          · assumption
          · exact h e h2
      · rcases List.mem_cons.1 he with rfl | h2
        · exact hv
        · exact ih ht e h2

theorem cwf_iff (d : α) (l : List (Nat × α)) : cwf d l = true ↔ tsorted l = true ∧ ∀ e ∈ l, e.2 ≠ d := by
  simp [cwf, List.all_eq_true]

/-- A write keeps the canonical form. -/
theorem cset_wf (d : α) (l : List (Nat × α)) (n : Nat) (a : α) (h : cwf d l = true) : cwf d (cset d l n a) = true := by
  rw [cwf_iff] at h ⊢
  exact ⟨cset_sorted d l n a h.1, cset_clean d l n a h.2⟩

omit [DecidableEq α] in
theorem tsorted_filter (p : Nat × α → Bool) (l : List (Nat × α)) (h : tsorted l = true) : tsorted (l.filter p) = true := by
  induction l with
  | nil => rfl
  | cons x t ih =>
    have hx := tsorted_cons.1 h
    simp only [List.filter_cons]
    split
    · refine tsorted_cons.2 ⟨fun e he => hx.1 e (List.mem_filter.1 he).1, ih hx.2⟩
    · exact ih hx.2

/-- Clearing a range keeps the canonical form. -/
theorem cclear_wf (d : α) (l : List (Nat × α)) (lo hi : Nat) (h : cwf d l = true) : cwf d (cclear l lo hi) = true := by
  rw [cwf_iff] at h ⊢
  exact ⟨tsorted_filter _ l h.1, fun e he => h.2 e (List.mem_filter.1 he).1⟩

/-- The value read after a write to a list with rising keys. -/
theorem tget_cset (d : α) (l : List (Nat × α)) (n m : Nat) (a : α) (h : tsorted l = true) :
    tget d (cset d l n a) m = if m = n then a else tget d l m := by
  induction l with
  | nil => by_cases ha : a = d <;> by_cases hm : m = n <;> simp [cset, tget, ha, hm]
  | cons x t ih =>
    obtain ⟨k, v⟩ := x
    have hx := tsorted_cons.1 h
    have ht : tget d t k = d := tget_above d hx.1
    simp only [cset]
    by_cases h1 : n = k
    · subst h1
      by_cases ha : a = d
      · subst ha
        by_cases hm : m = n
        · subst hm; simp [ht]
        · simp only [if_true, tget, hm, if_false]
          by_cases hl : m < n
          · simp only [hl, if_true]
            exact tget_above a (fun e he => Nat.lt_trans hl (hx.1 e he))
          · simp [hl]
      · by_cases hm : m = n <;> simp [tget, ha, hm]
    · by_cases h2 : n < k
      · by_cases ha : a = d
        · subst ha
          by_cases hm : m = n
          · subst hm; simp [tget, h1, h2]
          · simp [h1, h2, hm]
        · by_cases hm : m = n
          · subst hm; simp [h1, h2, tget, ha]
          · simp only [h1, h2, if_true, if_false, hm, ha, tget]
            by_cases h3 : m < n
            · have h4 : m ≠ k := by omega
              have h5 : m < k := by omega
              simp [h3, h4, h5]
            · simp [h3]
      · simp only [h1, h2, if_false, tget]
        by_cases hk : m = k
        · subst hk; have : m ≠ n := fun h => h1 h.symm
          simp [this]
        · by_cases hl : m < k
          · have : m ≠ n := by omega
            simp [hk, hl, this]
          · simp [hk, hl, ih hx.2]

end Sys2Proof.Machine
end

