-- ==== Sys2Proof/Laws/Memory.lean ====
section
/-! SUPPORT. Every operation on main memory keeps its canonical form, and a byte reads back as it was written. -/

namespace Sys2Proof.Machine

set_option Elab.async false

theorem Memory.wf_iff (m : Mem) :
    Memory.wf m = true ↔ cwf memDefault m.bytes = true ∧ cwf Tag.raw m.tags = true ∧ cwf false m.poison = true := by
  simp [Memory.wf, and_assoc]

theorem Memory.setByte_wf (m : Mem) (a : Nat) (b : Byte) (h : Memory.wf m = true) : Memory.wf (Memory.setByte m a b) = true := by
  rw [Memory.wf_iff] at h ⊢
  exact ⟨cset_wf _ _ _ _ h.1, h.2.1, h.2.2⟩

theorem Memory.setTag_wf (m : Mem) (w : Nat) (t : Tag) (h : Memory.wf m = true) : Memory.wf (Memory.setTag m w t) = true := by
  rw [Memory.wf_iff] at h ⊢
  exact ⟨h.1, cset_wf _ _ _ _ h.2.1, h.2.2⟩

theorem Memory.setPoison_wf (m : Mem) (w : Nat) (b : Bool) (h : Memory.wf m = true) :
    Memory.wf (Memory.setPoison m w b) = true := by
  rw [Memory.wf_iff] at h ⊢
  exact ⟨h.1, h.2.1, cset_wf _ _ _ _ h.2.2⟩

theorem Memory.setBytes_wf (m : Mem) (a : Nat) (bs : List Byte) (h : Memory.wf m = true) :
    Memory.wf (Memory.setBytes m a bs) = true := by
  induction bs generalizing m a with
  | nil => exact h
  | cons b bs ih => exact ih _ _ (Memory.setByte_wf m a b h)

theorem Memory.setWord_wf (m : Mem) (w : Nat) (c : CWord) (h : Memory.wf m = true) :
    Memory.wf (Memory.setWord m w c) = true :=
  Memory.setPoison_wf _ _ _ (Memory.setTag_wf _ _ _ (Memory.setBytes_wf _ _ _ h))

theorem Memory.setWords_wf (m : Mem) (w : Nat) (l : Line) (h : Memory.wf m = true) :
    Memory.wf (Memory.setWords m w l) = true := by
  induction l generalizing m w with
  | nil => exact h
  | cons c cs ih => exact ih _ _ (Memory.setWord_wf m w c h)

theorem Memory.setLine_wf (m : Mem) (ln : Nat) (l : Line) (h : Memory.wf m = true) :
    Memory.wf (Memory.setLine m ln l) = true := Memory.setWords_wf m _ l h

theorem Memory.zeroRange_wf (m : Mem) (base size : Nat) (h : Memory.wf m = true) :
    Memory.wf (Memory.zeroRange m base size) = true := by
  rw [Memory.wf_iff] at h ⊢
  exact ⟨cclear_wf _ _ _ _ h.1, cclear_wf _ _ _ _ h.2.1, cclear_wf _ _ _ _ h.2.2⟩

/-- Memory at reset has the canonical form. -/
theorem Memory.wf_reset : Memory.wf State.reset.mem = true := rfl

/-! ## Reads after writes -/

@[simp] theorem Memory.setByte_tags (m : Mem) (a : Nat) (b : Byte) : (Memory.setByte m a b).tags = m.tags := rfl
@[simp] theorem Memory.setByte_poison (m : Mem) (a : Nat) (b : Byte) : (Memory.setByte m a b).poison = m.poison := rfl

theorem Memory.byte_setByte (m : Mem) (a x : Nat) (b : Byte) (h : Memory.wf m = true) :
    Memory.byte (Memory.setByte m a b) x = if x = a then b else Memory.byte m x :=
  tget_cset _ _ _ _ _ ((cwf_iff _ _).1 ((Memory.wf_iff m).1 h).1).1

theorem Memory.tag_setTag (m : Mem) (w x : Nat) (t : Tag) (h : Memory.wf m = true) :
    Memory.tag (Memory.setTag m w t) x = if x = w then t else Memory.tag m x :=
  tget_cset _ _ _ _ _ ((cwf_iff _ _).1 ((Memory.wf_iff m).1 h).2.1).1

theorem Memory.poisoned_setPoison (m : Mem) (w x : Nat) (b : Bool) (h : Memory.wf m = true) :
    Memory.poisoned (Memory.setPoison m w b) x = if x = w then b else Memory.poisoned m x :=
  tget_cset _ _ _ _ _ ((cwf_iff _ _).1 ((Memory.wf_iff m).1 h).2.2).1

/-- A byte outside the bytes written reads as before. -/
theorem Memory.byte_setBytes_other (m : Mem) (a x : Nat) (bs : List Byte) (h : Memory.wf m = true)
    (hx : x < a ∨ a + bs.length ≤ x) : Memory.byte (Memory.setBytes m a bs) x = Memory.byte m x := by
  induction bs generalizing m a with
  | nil => rfl
  | cons b bs ih =>
    simp only [List.length_cons] at hx
    have h1 : x ≠ a := by omega
    simp only [Memory.setBytes]
    rw [ih _ _ (Memory.setByte_wf m a b h) (by omega), Memory.byte_setByte _ _ _ _ h, if_neg h1]

/-- A byte written reads back. -/
theorem Memory.byte_setBytes (m : Mem) (a i : Nat) (bs : List Byte) (h : Memory.wf m = true) (hi : i < bs.length) :
    Memory.byte (Memory.setBytes m a bs) (a + i) = bs[i] := by
  induction bs generalizing m a i with
  | nil => simp at hi
  | cons b bs ih =>
    simp only [Memory.setBytes]
    cases i with
    | zero =>
      rw [Memory.byte_setBytes_other _ _ _ _ (Memory.setByte_wf m a b h) (by omega), Memory.byte_setByte _ _ _ _ h]
      simp
    | succ i =>
      have := ih (Memory.setByte m a b) (a + 1) i (Memory.setByte_wf m a b h) (by simpa using hi)
      simpa [Nat.add_assoc, Nat.add_comm 1 i] using this

end Sys2Proof.Machine
end

