-- ==== Sys2Proof/Laws/Ops.lean ====
section
/-! SUPPORT. What the shared operations on events, faults, modes and replies can do, said once: the fields each may change, the value it
leaves, and when it does nothing. A proof about a command cites these and unfolds none of the operations. -/

set_option Elab.async false

namespace Sys2Proof.Machine

/-! ## Events that occur at certain times -/

theorem whenServing_on {s x : State} (h : inService s = true) : whenServing s x = x := by simp [whenServing, h]
theorem whenServing_off {s x : State} (h : inService s = false) : whenServing s x = s := by simp [whenServing, h]
theorem whenPowered_on {s x : State} (h : diesPowered s = true) : whenPowered s x = x := by simp [whenPowered, h]
theorem whenPowered_off {s x : State} (h : diesPowered s = false) : whenPowered s x = s := by simp [whenPowered, h]

theorem inService_runs {s : State} (h : inService s = true) : timeRuns s = true ∧ s.mode.base = 5 ∧ s.mode.mode ≠ 11 := by
  simpa [inService] using h
theorem diesPowered_runs {s : State} (h : diesPowered s = true) : timeRuns s = true ∧ 2 ≤ s.mode.base := by simpa [diesPowered] using h

/-! ## Modes -/

/-- A mode change writes the mode word and, on the way into a predictor mode, the predictor; nothing else. -/
theorem setMode_frame (s : State) (m : Nat) : ∃ md pr, setMode s m = { s with mode := md, coh := { s.coh with pred := pr } } := by
  unfold setMode
  split
  · exact ⟨s.mode, s.coh.pred, rfl⟩
  · split
    · exact ⟨_, [], rfl⟩
    · exact ⟨_, s.coh.pred, rfl⟩

@[simp] theorem setMode_mode (s : State) (m : Nat) : (setMode s m).mode.mode = m := by
  unfold setMode; split
  · simp_all
  · split <;> rfl

@[simp] theorem setMode_base (s : State) (m : Nat) : (setMode s m).mode.base = s.mode.base := by
  unfold setMode; split
  · rfl
  · split <;> rfl

theorem setMode_same (s : State) : setMode s s.mode.mode = s := by simp [setMode]

@[simp] theorem settle_mode (s : State) : (settle s).mode.mode = modeFor s := setMode_mode _ _

/-- The mode shown has no part in the mode that R26 gives, but that M11 stays. -/
theorem modeFor_setMode (s : State) (m : Nat) (h : s.mode.mode ≠ 11) (hm : m ≠ 11) : modeFor (setMode s m) = modeFor s := by
  unfold setMode; split
  · rfl
  · have e : ∀ u : State, u.mode.mode ≠ 11 → u.mode.base = s.mode.base → u.mode.split = s.mode.split → u.mode.rejoining = s.mode.rejoining →
        u.mode.parkCond = s.mode.parkCond → u.parts = s.parts → u.trios = s.trios → u.net = s.net → modeFor u = modeFor s := by
      intro u h0 h1 h2 h3 h4 h5 h6 h7
      unfold modeFor
      rw [if_neg h0, if_neg h, h1, h2, h3, h4, quiescedAny, h5, degraded, h6, h7]
      rfl
    split <;> exact e _ hm rfl rfl rfl rfl rfl rfl rfl

theorem modeFor_le (s : State) (h : s.mode.base ≤ 5) : modeFor s ≤ 11 := by
  unfold modeFor; repeat' split
  all_goals omega

theorem modeFor_safe (s : State) (h : s.mode.mode = 11) : modeFor s = 11 := by simp [modeFor, h]

/-! ## Fault reports -/

/-- A report writes the collector's inbox and its mark for ALIVE, and nothing else. -/
theorem report_frame (s : State) (pt d : Nat) : ∃ f, report s pt d = { s with faults := f } ∧ f.waiting = s.faults.waiting ∧
    f.log = s.faults.log ∧ f.head = s.faults.head ∧ f.counts = s.faults.counts ∧ f.selfOk = s.faults.selfOk ∧
    f.safeCause = s.faults.safeCause ∧ f.history = s.faults.history := by
  unfold report; split
  · exact ⟨_, rfl, rfl, rfl, rfl, rfl, rfl, rfl, rfl⟩
  · exact ⟨s.faults, rfl, rfl, rfl, rfl, rfl, rfl, rfl, rfl⟩

theorem addEvent_mem (l : List FEvent) (e : FEvent) : ∃ x ∈ addEvent l e, x.point = e.point := by
  unfold addEvent; split
  · rename_i h
    rw [List.any_eq_true] at h
    obtain ⟨x, hx, hp⟩ := h
    have hp' := hp
    simp only [Bool.and_eq_true, beq_iff_eq] at hp'
    exact ⟨{ x with rep := x.rep + 1 }, List.mem_map.mpr ⟨x, hx, by simp [hp]⟩, hp'.1⟩
  · exact ⟨e, by simp, rfl⟩

/-- Points already in the inbox stay there. -/
theorem addEvent_keeps (l : List FEvent) (e : FEvent) (pt : Nat) (h : ∃ x ∈ l, x.point = pt) : ∃ x ∈ addEvent l e, x.point = pt := by
  obtain ⟨x, hx, hp⟩ := h
  unfold addEvent; split
  · refine ⟨_, List.mem_map.mpr ⟨x, hx, rfl⟩, ?_⟩
    split <;> exact hp
  · exact ⟨x, by simp [hx], hp⟩

theorem report_reports (s : State) (pt d : Nat) (ht : timeRuns s = true) (hp : pt < Pt.reserved) :
    ∃ e ∈ (report s pt d).faults.inbox, e.point = pt := by
  unfold report
  simp only [ht, hp, decide_true, Bool.and_true, if_true]
  exact addEvent_mem s.faults.inbox _

theorem report_keeps (s : State) (pt d k : Nat) (h : ∃ e ∈ s.faults.inbox, e.point = k) : ∃ e ∈ (report s pt d).faults.inbox, e.point = k := by
  unfold report; split
  · exact addEvent_keeps _ _ k h
  · exact h

theorem report_off {s : State} (pt d : Nat) (h : timeRuns s = false) : report s pt d = s := by simp [report, h]
theorem report_reserved {s : State} {pt : Nat} (d : Nat) (h : Pt.reserved ≤ pt) : report s pt d = s := by
  have : ¬ pt < Pt.reserved := by omega
  simp [report, this]

/-! ## Causes and notices -/

/-- Raising a cause writes PENDING and the due delivery of its source alone. -/
theorem raise_frame (s : State) (src cause : Nat) : ∃ x, raise s src cause = modSource s src (fun _ => x) ∧
    x.pending = (evSource s src).pending ||| 1#32 <<< cause ∧ x.vector = (evSource s src).vector ∧ x.enable = (evSource s src).enable ∧
    x.undeliv = (evSource s src).undeliv ∧ x.on = (evSource s src).on ∧ x.task = (evSource s src).task ∧ x.lcore = (evSource s src).lcore :=
  ⟨_, rfl, rfl, rfl, rfl, rfl, rfl, rfl, rfl⟩

theorem evSource_modSource (s : State) (n m : Nat) (f : EvSource → EvSource) :
    evSource (modSource s n f) m = if m = n then f (evSource s n) else evSource s m :=
  tget_tmod _ _ _ _ _

theorem evSource_raise_other (s : State) (src cause : Nat) {n : Nat} (h : n ≠ src) : evSource (raise s src cause) n = evSource s n := by
  unfold raise raiseFrom raiseMaskAt
  rw [evSource_modSource, if_neg h]

/-- The cause stands after it is raised, with every cause that stood before. -/
theorem raise_pending (s : State) (src cause : Nat) : (evSource (raise s src cause) src).pending = (evSource s src).pending ||| 1#32 <<< cause := by
  unfold raise raiseFrom raiseMaskAt
  rw [evSource_modSource]; simp

theorem raise_caused (s : State) (src cause : Nat) (h : cause < 32) : (evSource (raise s src cause) src).pending.getLsbD cause = true := by
  rw [raise_pending]; simp [h]

/-- A notice writes the event block alone. -/
theorem notice_frame (s : State) (p cause object : Nat) : ∃ ev, notice s p cause object = { s with events := ev } := ⟨_, rfl⟩

theorem notice_noticed (s : State) (p cause object : Nat) (h : cause < 32) :
    (evSource (notice s p cause object) (Src.notice p)).pending.getLsbD cause = true := raise_caused s _ _ h

/-- The entry of a notice goes to the next place of its log. -/
theorem notice_log (s : State) (p cause object : Nat) :
    (tget {} (notice s p cause object).events.notices p).count = (tget {} s.events.notices p).count + 1 := by
  unfold notice
  simp only [modEvents, tget_tmod]
  rfl

/-! ## Replies -/

/-- A reply writes the kept and shown replies and takes one free value; nothing else. -/
theorem reply_frame (s : State) (op : Nat) (q : Request) (st pr : Nat) (r : List Byte) : ∃ sh kp,
    reply s op q st pr r = { s with free := s.free + 1, husks := { s.husks with shown := sh, kept := kp, mirrorDirty := true } } :=
  ⟨_, _, rfl⟩

theorem replyDelay_bounds (s : State) : 1 ≤ replyDelay s ∧ replyDelay s ≤ 3 := by unfold replyDelay; omega

theorem serve_waits {s : State} {op : Nat} {q : Request} {h : Handler} (ht : timeRuns s = true) (hn : taking s q = false) :
    serve s op q h = enqueue s { opcode := op, q := q } := by simp [serve, ht, hn]

theorem serve_takes {s : State} {op : Nat} {q : Request} {h : Handler} (hn : taking s q = true) :
    serve s op q h = takeRequest s op q h := by simp [serve, hn]

theorem serve_off {s : State} {op : Nat} {q : Request} {h : Handler} (ht : timeRuns s = false) : serve s op q h = s := by
  simp [serve, taking, ht]

/-- Checks read nothing that forgetting a finished operation changes but the operations themselves. -/
theorem dropFinished_frame (s : State) (q : Request) : ∃ l, dropFinished s q = { s with husks := { s.husks with longOps := l } } := ⟨_, rfl⟩

end Sys2Proof.Machine
end

