-- ==== Sys2Proof/Laws/PerInstr.lean ====
section
/-! SUPPORT. The per-command family OperandBound: the list operands of a well-formed command hold a bounded number of items. -/

set_option Elab.async false

open Sys2Proof

/-- Two image copies are the longest operands. -/
def Sys2Proof.Laws.OperandBound.Statement (i : Instr) : Prop := i.wellFormed = true → i.items ≤ 2 * listBound

theorem Sys2Proof.Laws.OperandBound.resetNRelease (x0 : BitVec 3) : Sys2Proof.Laws.OperandBound.Statement (Instr.resetNRelease x0) := fun _ => Nat.zero_le _
theorem Sys2Proof.Laws.OperandBound.resetNAssert : Sys2Proof.Laws.OperandBound.Statement (Instr.resetNAssert) := fun _ => Nat.zero_le _
theorem Sys2Proof.Laws.OperandBound.standbyPowerLoss : Sys2Proof.Laws.OperandBound.Statement (Instr.standbyPowerLoss) := fun _ => Nat.zero_le _
theorem Sys2Proof.Laws.OperandBound.pwrOkRise : Sys2Proof.Laws.OperandBound.Statement (Instr.pwrOkRise) := fun _ => Nat.zero_le _
theorem Sys2Proof.Laws.OperandBound.pwrOkFall : Sys2Proof.Laws.OperandBound.Statement (Instr.pwrOkFall) := fun _ => Nat.zero_le _
theorem Sys2Proof.Laws.OperandBound.inputLoss (x0 : Fin 2) (x1 : Bool) : Sys2Proof.Laws.OperandBound.Statement (Instr.inputLoss x0 x1) := fun _ => Nat.zero_le _
theorem Sys2Proof.Laws.OperandBound.ivrCurrentLimit (x0 : Fin 2) : Sys2Proof.Laws.OperandBound.Statement (Instr.ivrCurrentLimit x0) := fun _ => Nat.zero_le _
theorem Sys2Proof.Laws.OperandBound.thermalTrip (x0 : Fin 320) : Sys2Proof.Laws.OperandBound.Statement (Instr.thermalTrip x0) := fun _ => Nat.zero_le _
theorem Sys2Proof.Laws.OperandBound.pipEdge (x0 : PipInputs) : Sys2Proof.Laws.OperandBound.Statement (Instr.pipEdge x0) := by
  intro h
  simp [Instr.wellFormed, Instr.items, pipInputsOk, listBound] at *
  omega
theorem Sys2Proof.Laws.OperandBound.huskLoop (x0 : HuskInputs) : Sys2Proof.Laws.OperandBound.Statement (Instr.huskLoop x0) := by
  intro h
  simp [Instr.wellFormed, Instr.items, huskInputsOk, listBound] at *
  omega
theorem Sys2Proof.Laws.OperandBound.eventDeliveryWindow : Sys2Proof.Laws.OperandBound.Statement (Instr.eventDeliveryWindow) := fun _ => Nat.zero_le _
theorem Sys2Proof.Laws.OperandBound.commitWindow : Sys2Proof.Laws.OperandBound.Statement (Instr.commitWindow) := fun _ => Nat.zero_le _
theorem Sys2Proof.Laws.OperandBound.pipOverrun (x0 : Fin 10) : Sys2Proof.Laws.OperandBound.Statement (Instr.pipOverrun x0) := fun _ => Nat.zero_le _
theorem Sys2Proof.Laws.OperandBound.refclkLost : Sys2Proof.Laws.OperandBound.Statement (Instr.refclkLost) := fun _ => Nat.zero_le _
theorem Sys2Proof.Laws.OperandBound.holdoverExit : Sys2Proof.Laws.OperandBound.Statement (Instr.holdoverExit) := fun _ => Nat.zero_le _
theorem Sys2Proof.Laws.OperandBound.aliveToggle : Sys2Proof.Laws.OperandBound.Statement (Instr.aliveToggle) := fun _ => Nat.zero_le _
theorem Sys2Proof.Laws.OperandBound.mov (x0 : LC) (x1 : Reg) (x2 : Reg) : Sys2Proof.Laws.OperandBound.Statement (Instr.mov x0 x1 x2) := fun _ => Nat.zero_le _
theorem Sys2Proof.Laws.OperandBound.add (x0 : LC) (x1 : RForm) : Sys2Proof.Laws.OperandBound.Statement (Instr.add x0 x1) := fun _ => Nat.zero_le _
theorem Sys2Proof.Laws.OperandBound.sub (x0 : LC) (x1 : RForm) : Sys2Proof.Laws.OperandBound.Statement (Instr.sub x0 x1) := fun _ => Nat.zero_le _
theorem Sys2Proof.Laws.OperandBound.and (x0 : LC) (x1 : RForm) : Sys2Proof.Laws.OperandBound.Statement (Instr.and x0 x1) := fun _ => Nat.zero_le _
theorem Sys2Proof.Laws.OperandBound.or (x0 : LC) (x1 : RForm) : Sys2Proof.Laws.OperandBound.Statement (Instr.or x0 x1) := fun _ => Nat.zero_le _
theorem Sys2Proof.Laws.OperandBound.xor (x0 : LC) (x1 : RForm) : Sys2Proof.Laws.OperandBound.Statement (Instr.xor x0 x1) := fun _ => Nat.zero_le _
theorem Sys2Proof.Laws.OperandBound.not (x0 : LC) (x1 : Reg) (x2 : Reg) : Sys2Proof.Laws.OperandBound.Statement (Instr.not x0 x1 x2) := fun _ => Nat.zero_le _
theorem Sys2Proof.Laws.OperandBound.neg (x0 : LC) (x1 : Reg) (x2 : Reg) : Sys2Proof.Laws.OperandBound.Statement (Instr.neg x0 x1 x2) := fun _ => Nat.zero_le _
theorem Sys2Proof.Laws.OperandBound.tget (x0 : LC) (x1 : UForm) : Sys2Proof.Laws.OperandBound.Statement (Instr.tget x0 x1) := fun _ => Nat.zero_le _
theorem Sys2Proof.Laws.OperandBound.jr (x0 : LC) (x1 : Reg) (x2 : Reg) : Sys2Proof.Laws.OperandBound.Statement (Instr.jr x0 x1 x2) := fun _ => Nat.zero_le _
theorem Sys2Proof.Laws.OperandBound.ret (x0 : LC) (x1 : Reg) : Sys2Proof.Laws.OperandBound.Statement (Instr.ret x0 x1) := fun _ => Nat.zero_le _
theorem Sys2Proof.Laws.OperandBound.movi (x0 : LC) (x1 : Reg) (x2 : BitVec 7) : Sys2Proof.Laws.OperandBound.Statement (Instr.movi x0 x1 x2) := fun _ => Nat.zero_le _
theorem Sys2Proof.Laws.OperandBound.addi (x0 : LC) (x1 : IForm) : Sys2Proof.Laws.OperandBound.Statement (Instr.addi x0 x1) := fun _ => Nat.zero_le _
theorem Sys2Proof.Laws.OperandBound.andi (x0 : LC) (x1 : Reg) (x2 : Reg) (x3 : BitVec 14) : Sys2Proof.Laws.OperandBound.Statement (Instr.andi x0 x1 x2 x3) := fun _ => Nat.zero_le _
theorem Sys2Proof.Laws.OperandBound.ori (x0 : LC) (x1 : Reg) (x2 : Reg) (x3 : BitVec 14) : Sys2Proof.Laws.OperandBound.Statement (Instr.ori x0 x1 x2 x3) := fun _ => Nat.zero_le _
theorem Sys2Proof.Laws.OperandBound.xori (x0 : LC) (x1 : Reg) (x2 : Reg) (x3 : BitVec 14) : Sys2Proof.Laws.OperandBound.Statement (Instr.xori x0 x1 x2 x3) := fun _ => Nat.zero_le _
theorem Sys2Proof.Laws.OperandBound.shl (x0 : LC) (x1 : ShForm) : Sys2Proof.Laws.OperandBound.Statement (Instr.shl x0 x1) := fun _ => Nat.zero_le _
theorem Sys2Proof.Laws.OperandBound.shr (x0 : LC) (x1 : ShForm) : Sys2Proof.Laws.OperandBound.Statement (Instr.shr x0 x1) := fun _ => Nat.zero_le _
theorem Sys2Proof.Laws.OperandBound.sar (x0 : LC) (x1 : ShForm) : Sys2Proof.Laws.OperandBound.Statement (Instr.sar x0 x1) := fun _ => Nat.zero_le _
theorem Sys2Proof.Laws.OperandBound.shifti (x0 : LC) (x1 : Reg) (x2 : Reg) (x3 : ShKind) (x4 : BitVec 6) : Sys2Proof.Laws.OperandBound.Statement (Instr.shifti x0 x1 x2 x3 x4) := fun _ => Nat.zero_le _
theorem Sys2Proof.Laws.OperandBound.lui (x0 : LC) (x1 : Reg) (x2 : BitVec 19) : Sys2Proof.Laws.OperandBound.Statement (Instr.lui x0 x1 x2) := fun _ => Nat.zero_le _
theorem Sys2Proof.Laws.OperandBound.mul (x0 : LC) (x1 : Reg) (x2 : Reg) (x3 : Reg) : Sys2Proof.Laws.OperandBound.Statement (Instr.mul x0 x1 x2 x3) := fun _ => Nat.zero_le _
theorem Sys2Proof.Laws.OperandBound.mulh (x0 : LC) (x1 : Reg) (x2 : Reg) (x3 : Reg) : Sys2Proof.Laws.OperandBound.Statement (Instr.mulh x0 x1 x2 x3) := fun _ => Nat.zero_le _
theorem Sys2Proof.Laws.OperandBound.div (x0 : LC) (x1 : Reg) (x2 : Reg) (x3 : Reg) : Sys2Proof.Laws.OperandBound.Statement (Instr.div x0 x1 x2 x3) := fun _ => Nat.zero_le _
theorem Sys2Proof.Laws.OperandBound.rem (x0 : LC) (x1 : Reg) (x2 : Reg) (x3 : Reg) : Sys2Proof.Laws.OperandBound.Statement (Instr.rem x0 x1 x2 x3) := fun _ => Nat.zero_le _
theorem Sys2Proof.Laws.OperandBound.addc (x0 : LC) (x1 : Reg) (x2 : Reg) (x3 : Reg) (x4 : Reg) : Sys2Proof.Laws.OperandBound.Statement (Instr.addc x0 x1 x2 x3 x4) := fun _ => Nat.zero_le _
theorem Sys2Proof.Laws.OperandBound.subc (x0 : LC) (x1 : Reg) (x2 : Reg) (x3 : Reg) (x4 : Reg) : Sys2Proof.Laws.OperandBound.Statement (Instr.subc x0 x1 x2 x3 x4) := fun _ => Nat.zero_le _
theorem Sys2Proof.Laws.OperandBound.mulw (x0 : LC) (x1 : Reg) (x2 : Reg) (x3 : Reg) (x4 : Reg) : Sys2Proof.Laws.OperandBound.Statement (Instr.mulw x0 x1 x2 x3 x4) := fun _ => Nat.zero_le _
theorem Sys2Proof.Laws.OperandBound.leai (x0 : LC) (x1 : Reg) (x2 : BitVec 7) : Sys2Proof.Laws.OperandBound.Statement (Instr.leai x0 x1 x2) := fun _ => Nat.zero_le _
theorem Sys2Proof.Laws.OperandBound.lea (x0 : LC) (x1 : Reg) (x2 : Reg) (x3 : BitVec 14) : Sys2Proof.Laws.OperandBound.Statement (Instr.lea x0 x1 x2 x3) := fun _ => Nat.zero_le _
theorem Sys2Proof.Laws.OperandBound.adda (x0 : LC) (x1 : Reg) (x2 : Reg) (x3 : Reg) (x4 : BitVec 2) : Sys2Proof.Laws.OperandBound.Statement (Instr.adda x0 x1 x2 x3 x4) := fun _ => Nat.zero_le _
theorem Sys2Proof.Laws.OperandBound.leap (x0 : LC) (x1 : Reg) (x2 : BitVec 19) : Sys2Proof.Laws.OperandBound.Statement (Instr.leap x0 x1 x2) := fun _ => Nat.zero_le _
theorem Sys2Proof.Laws.OperandBound.leac (x0 : LC) (x1 : Reg) (x2 : BitVec 19) : Sys2Proof.Laws.OperandBound.Statement (Instr.leac x0 x1 x2) := fun _ => Nat.zero_le _
theorem Sys2Proof.Laws.OperandBound.ldt (x0 : LC) (x1 : MForm) : Sys2Proof.Laws.OperandBound.Statement (Instr.ldt x0 x1) := fun _ => Nat.zero_le _
theorem Sys2Proof.Laws.OperandBound.ldw (x0 : LC) (x1 : Reg) (x2 : Reg) (x3 : BitVec 14) : Sys2Proof.Laws.OperandBound.Statement (Instr.ldw x0 x1 x2 x3) := fun _ => Nat.zero_le _
theorem Sys2Proof.Laws.OperandBound.ldwu (x0 : LC) (x1 : Reg) (x2 : Reg) (x3 : BitVec 14) : Sys2Proof.Laws.OperandBound.Statement (Instr.ldwu x0 x1 x2 x3) := fun _ => Nat.zero_le _
theorem Sys2Proof.Laws.OperandBound.ldh (x0 : LC) (x1 : Reg) (x2 : Reg) (x3 : BitVec 14) : Sys2Proof.Laws.OperandBound.Statement (Instr.ldh x0 x1 x2 x3) := fun _ => Nat.zero_le _
theorem Sys2Proof.Laws.OperandBound.ldhu (x0 : LC) (x1 : Reg) (x2 : Reg) (x3 : BitVec 14) : Sys2Proof.Laws.OperandBound.Statement (Instr.ldhu x0 x1 x2 x3) := fun _ => Nat.zero_le _
theorem Sys2Proof.Laws.OperandBound.ldb (x0 : LC) (x1 : Reg) (x2 : Reg) (x3 : BitVec 14) : Sys2Proof.Laws.OperandBound.Statement (Instr.ldb x0 x1 x2 x3) := fun _ => Nat.zero_le _
theorem Sys2Proof.Laws.OperandBound.ldbu (x0 : LC) (x1 : Reg) (x2 : Reg) (x3 : BitVec 14) : Sys2Proof.Laws.OperandBound.Statement (Instr.ldbu x0 x1 x2 x3) := fun _ => Nat.zero_le _
theorem Sys2Proof.Laws.OperandBound.ldc (x0 : LC) (x1 : Reg) (x2 : Reg) (x3 : BitVec 14) : Sys2Proof.Laws.OperandBound.Statement (Instr.ldc x0 x1 x2 x3) := fun _ => Nat.zero_le _
theorem Sys2Proof.Laws.OperandBound.ldtp (x0 : LC) (x1 : Reg) (x2 : BitVec 19) : Sys2Proof.Laws.OperandBound.Statement (Instr.ldtp x0 x1 x2) := fun _ => Nat.zero_le _
theorem Sys2Proof.Laws.OperandBound.stt (x0 : LC) (x1 : MForm) : Sys2Proof.Laws.OperandBound.Statement (Instr.stt x0 x1) := fun _ => Nat.zero_le _
theorem Sys2Proof.Laws.OperandBound.stw (x0 : LC) (x1 : Reg) (x2 : Reg) (x3 : BitVec 14) : Sys2Proof.Laws.OperandBound.Statement (Instr.stw x0 x1 x2 x3) := fun _ => Nat.zero_le _
theorem Sys2Proof.Laws.OperandBound.sth (x0 : LC) (x1 : Reg) (x2 : Reg) (x3 : BitVec 14) : Sys2Proof.Laws.OperandBound.Statement (Instr.sth x0 x1 x2 x3) := fun _ => Nat.zero_le _
theorem Sys2Proof.Laws.OperandBound.stb (x0 : LC) (x1 : Reg) (x2 : Reg) (x3 : BitVec 14) : Sys2Proof.Laws.OperandBound.Statement (Instr.stb x0 x1 x2 x3) := fun _ => Nat.zero_le _
theorem Sys2Proof.Laws.OperandBound.bcmp (x0 : LC) (x1 : Reg) (x2 : BCond) (x3 : BitVec 11) : Sys2Proof.Laws.OperandBound.Statement (Instr.bcmp x0 x1 x2 x3) := fun _ => Nat.zero_le _
theorem Sys2Proof.Laws.OperandBound.bz (x0 : LC) (x1 : Reg) (x2 : BitVec 7) : Sys2Proof.Laws.OperandBound.Statement (Instr.bz x0 x1 x2) := fun _ => Nat.zero_le _
theorem Sys2Proof.Laws.OperandBound.bnz (x0 : LC) (x1 : Reg) (x2 : BitVec 7) : Sys2Proof.Laws.OperandBound.Statement (Instr.bnz x0 x1 x2) := fun _ => Nat.zero_le _
theorem Sys2Proof.Laws.OperandBound.jmp (x0 : LC) (x1 : BitVec 24) : Sys2Proof.Laws.OperandBound.Statement (Instr.jmp x0 x1) := fun _ => Nat.zero_le _
theorem Sys2Proof.Laws.OperandBound.call (x0 : LC) (x1 : BitVec 24) : Sys2Proof.Laws.OperandBound.Statement (Instr.call x0 x1) := fun _ => Nat.zero_le _
theorem Sys2Proof.Laws.OperandBound.jalr (x0 : LC) (x1 : Reg) (x2 : Reg) (x3 : BitVec 14) : Sys2Proof.Laws.OperandBound.Statement (Instr.jalr x0 x1 x2 x3) := fun _ => Nat.zero_le _
theorem Sys2Proof.Laws.OperandBound.nop (x0 : LC) : Sys2Proof.Laws.OperandBound.Statement (Instr.nop x0) := fun _ => Nat.zero_le _
theorem Sys2Proof.Laws.OperandBound.dadd (x0 : LC) (x1 : Reg) (x2 : Reg) (x3 : Reg) : Sys2Proof.Laws.OperandBound.Statement (Instr.dadd x0 x1 x2 x3) := fun _ => Nat.zero_le _
theorem Sys2Proof.Laws.OperandBound.dsub (x0 : LC) (x1 : Reg) (x2 : Reg) (x3 : Reg) : Sys2Proof.Laws.OperandBound.Statement (Instr.dsub x0 x1 x2 x3) := fun _ => Nat.zero_le _
theorem Sys2Proof.Laws.OperandBound.dcmp (x0 : LC) (x1 : Reg) (x2 : Reg) (x3 : Reg) : Sys2Proof.Laws.OperandBound.Statement (Instr.dcmp x0 x1 x2 x3) := fun _ => Nat.zero_le _
theorem Sys2Proof.Laws.OperandBound.dchk (x0 : LC) (x1 : Reg) (x2 : Reg) : Sys2Proof.Laws.OperandBound.Statement (Instr.dchk x0 x1 x2) := fun _ => Nat.zero_le _
theorem Sys2Proof.Laws.OperandBound.dtoi (x0 : LC) (x1 : Reg) (x2 : Reg) : Sys2Proof.Laws.OperandBound.Statement (Instr.dtoi x0 x1 x2) := fun _ => Nat.zero_le _
theorem Sys2Proof.Laws.OperandBound.itod (x0 : LC) (x1 : Reg) (x2 : Reg) : Sys2Proof.Laws.OperandBound.Statement (Instr.itod x0 x1 x2) := fun _ => Nat.zero_le _
theorem Sys2Proof.Laws.OperandBound.vdadd (x0 : LC) (x1 : VReg) (x2 : VReg) (x3 : VReg) : Sys2Proof.Laws.OperandBound.Statement (Instr.vdadd x0 x1 x2 x3) := fun _ => Nat.zero_le _
theorem Sys2Proof.Laws.OperandBound.vld (x0 : LC) (x1 : VReg) (x2 : Reg) (x3 : BitVec 14) : Sys2Proof.Laws.OperandBound.Statement (Instr.vld x0 x1 x2 x3) := fun _ => Nat.zero_le _
theorem Sys2Proof.Laws.OperandBound.vst (x0 : LC) (x1 : VReg) (x2 : Reg) (x3 : BitVec 14) : Sys2Proof.Laws.OperandBound.Statement (Instr.vst x0 x1 x2 x3) := fun _ => Nat.zero_le _
theorem Sys2Proof.Laws.OperandBound.vstd (x0 : LC) (x1 : VReg) (x2 : Reg) (x3 : BitVec 14) : Sys2Proof.Laws.OperandBound.Statement (Instr.vstd x0 x1 x2 x3) := fun _ => Nat.zero_le _
theorem Sys2Proof.Laws.OperandBound.fadd (x0 : LC) (x1 : Reg) (x2 : Reg) (x3 : Reg) : Sys2Proof.Laws.OperandBound.Statement (Instr.fadd x0 x1 x2 x3) := fun _ => Nat.zero_le _
theorem Sys2Proof.Laws.OperandBound.fsub (x0 : LC) (x1 : Reg) (x2 : Reg) (x3 : Reg) : Sys2Proof.Laws.OperandBound.Statement (Instr.fsub x0 x1 x2 x3) := fun _ => Nat.zero_le _
theorem Sys2Proof.Laws.OperandBound.fmul (x0 : LC) (x1 : Reg) (x2 : Reg) (x3 : Reg) : Sys2Proof.Laws.OperandBound.Statement (Instr.fmul x0 x1 x2 x3) := fun _ => Nat.zero_le _
theorem Sys2Proof.Laws.OperandBound.fdiv (x0 : LC) (x1 : Reg) (x2 : Reg) (x3 : Reg) : Sys2Proof.Laws.OperandBound.Statement (Instr.fdiv x0 x1 x2 x3) := fun _ => Nat.zero_le _
theorem Sys2Proof.Laws.OperandBound.fsqrt (x0 : LC) (x1 : Reg) (x2 : Reg) : Sys2Proof.Laws.OperandBound.Statement (Instr.fsqrt x0 x1 x2) := fun _ => Nat.zero_le _
theorem Sys2Proof.Laws.OperandBound.fma (x0 : LC) (x1 : Reg) (x2 : Reg) (x3 : Reg) (x4 : Reg) : Sys2Proof.Laws.OperandBound.Statement (Instr.fma x0 x1 x2 x3 x4) := fun _ => Nat.zero_le _
theorem Sys2Proof.Laws.OperandBound.fmin (x0 : LC) (x1 : Reg) (x2 : Reg) (x3 : Reg) : Sys2Proof.Laws.OperandBound.Statement (Instr.fmin x0 x1 x2 x3) := fun _ => Nat.zero_le _
theorem Sys2Proof.Laws.OperandBound.fmax (x0 : LC) (x1 : Reg) (x2 : Reg) (x3 : Reg) : Sys2Proof.Laws.OperandBound.Statement (Instr.fmax x0 x1 x2 x3) := fun _ => Nat.zero_le _
theorem Sys2Proof.Laws.OperandBound.fcmp (x0 : LC) (x1 : Reg) (x2 : Reg) (x3 : Reg) : Sys2Proof.Laws.OperandBound.Statement (Instr.fcmp x0 x1 x2 x3) := fun _ => Nat.zero_le _
theorem Sys2Proof.Laws.OperandBound.fcvtif (x0 : LC) (x1 : Reg) (x2 : Reg) : Sys2Proof.Laws.OperandBound.Statement (Instr.fcvtif x0 x1 x2) := fun _ => Nat.zero_le _
theorem Sys2Proof.Laws.OperandBound.fcvtfi (x0 : LC) (x1 : Reg) (x2 : Reg) : Sys2Proof.Laws.OperandBound.Statement (Instr.fcvtfi x0 x1 x2) := fun _ => Nat.zero_le _
theorem Sys2Proof.Laws.OperandBound.fneg (x0 : LC) (x1 : Reg) (x2 : Reg) : Sys2Proof.Laws.OperandBound.Statement (Instr.fneg x0 x1 x2) := fun _ => Nat.zero_le _
theorem Sys2Proof.Laws.OperandBound.fabs (x0 : LC) (x1 : Reg) (x2 : Reg) : Sys2Proof.Laws.OperandBound.Statement (Instr.fabs x0 x1 x2) := fun _ => Nat.zero_le _
theorem Sys2Proof.Laws.OperandBound.fbar (x0 : LC) (x1 : Size) : Sys2Proof.Laws.OperandBound.Statement (Instr.fbar x0 x1) := fun _ => Nat.zero_le _
theorem Sys2Proof.Laws.OperandBound.fpTrap (x0 : LC) : Sys2Proof.Laws.OperandBound.Statement (Instr.fpTrap x0) := fun _ => Nat.zero_le _
theorem Sys2Proof.Laws.OperandBound.amoadd (x0 : LC) (x1 : Reg) (x2 : Reg) (x3 : Reg) (x4 : AmoOrder) : Sys2Proof.Laws.OperandBound.Statement (Instr.amoadd x0 x1 x2 x3 x4) := fun _ => Nat.zero_le _
theorem Sys2Proof.Laws.OperandBound.amoswap (x0 : LC) (x1 : Reg) (x2 : Reg) (x3 : Reg) (x4 : AmoOrder) : Sys2Proof.Laws.OperandBound.Statement (Instr.amoswap x0 x1 x2 x3 x4) := fun _ => Nat.zero_le _
theorem Sys2Proof.Laws.OperandBound.amocas (x0 : LC) (x1 : Reg) (x2 : Reg) (x3 : Reg) (x4 : AmoOrder) : Sys2Proof.Laws.OperandBound.Statement (Instr.amocas x0 x1 x2 x3 x4) := fun _ => Nat.zero_le _
theorem Sys2Proof.Laws.OperandBound.damoadd (x0 : LC) (x1 : Reg) (x2 : Reg) (x3 : Reg) (x4 : AmoOrder) : Sys2Proof.Laws.OperandBound.Statement (Instr.damoadd x0 x1 x2 x3 x4) := fun _ => Nat.zero_le _
theorem Sys2Proof.Laws.OperandBound.fence (x0 : LC) : Sys2Proof.Laws.OperandBound.Statement (Instr.fence x0) := fun _ => Nat.zero_le _
theorem Sys2Proof.Laws.OperandBound.ifence (x0 : LC) : Sys2Proof.Laws.OperandBound.Statement (Instr.ifence x0) := fun _ => Nat.zero_le _
theorem Sys2Proof.Laws.OperandBound.zline (x0 : LC) (x1 : Reg) (x2 : BitVec 14) : Sys2Proof.Laws.OperandBound.Statement (Instr.zline x0 x1 x2) := fun _ => Nat.zero_le _
theorem Sys2Proof.Laws.OperandBound.cclean (x0 : LC) (x1 : Reg) (x2 : BitVec 14) : Sys2Proof.Laws.OperandBound.Statement (Instr.cclean x0 x1 x2) := fun _ => Nat.zero_le _
theorem Sys2Proof.Laws.OperandBound.cflush (x0 : LC) (x1 : Reg) (x2 : BitVec 14) : Sys2Proof.Laws.OperandBound.Statement (Instr.cflush x0 x1 x2) := fun _ => Nat.zero_le _
theorem Sys2Proof.Laws.OperandBound.cinv (x0 : LC) (x1 : Reg) (x2 : BitVec 14) : Sys2Proof.Laws.OperandBound.Statement (Instr.cinv x0 x1 x2) := fun _ => Nat.zero_le _
theorem Sys2Proof.Laws.OperandBound.l2wb (x0 : LC) (x1 : Reg) (x2 : BitVec 14) : Sys2Proof.Laws.OperandBound.Statement (Instr.l2wb x0 x1 x2) := fun _ => Nat.zero_le _
theorem Sys2Proof.Laws.OperandBound.tset (x0 : LC) (x1 : Reg) (x2 : Reg) (x3 : Tag) : Sys2Proof.Laws.OperandBound.Statement (Instr.tset x0 x1 x2 x3) := fun _ => Nat.zero_le _
theorem Sys2Proof.Laws.OperandBound.tchk (x0 : LC) (x1 : Reg) (x2 : Half) : Sys2Proof.Laws.OperandBound.Statement (Instr.tchk x0 x1 x2) := fun _ => Nat.zero_le _
theorem Sys2Proof.Laws.OperandBound.trapi (x0 : LC) (x1 : Byte) : Sys2Proof.Laws.OperandBound.Statement (Instr.trapi x0 x1) := fun _ => Nat.zero_le _
theorem Sys2Proof.Laws.OperandBound.rdtime (x0 : LC) (x1 : Reg) : Sys2Proof.Laws.OperandBound.Statement (Instr.rdtime x0 x1) := fun _ => Nat.zero_le _
theorem Sys2Proof.Laws.OperandBound.break (x0 : LC) : Sys2Proof.Laws.OperandBound.Statement (Instr.break x0) := fun _ => Nat.zero_le _
theorem Sys2Proof.Laws.OperandBound.tswitch (x0 : LC) (x1 : SwForm) : Sys2Proof.Laws.OperandBound.Statement (Instr.tswitch x0 x1) := fun _ => Nat.zero_le _
theorem Sys2Proof.Laws.OperandBound.tsave (x0 : LC) (x1 : Reg) (x2 : Reg) : Sys2Proof.Laws.OperandBound.Statement (Instr.tsave x0 x1 x2) := fun _ => Nat.zero_le _
theorem Sys2Proof.Laws.OperandBound.tload (x0 : LC) (x1 : Reg) (x2 : Reg) (x3 : Reg) : Sys2Proof.Laws.OperandBound.Statement (Instr.tload x0 x1 x2 x3) := fun _ => Nat.zero_le _
theorem Sys2Proof.Laws.OperandBound.wread (x0 : LC) (x1 : Reg) : Sys2Proof.Laws.OperandBound.Statement (Instr.wread x0 x1) := fun _ => Nat.zero_le _
theorem Sys2Proof.Laws.OperandBound.wwrite (x0 : LC) (x1 : Reg) : Sys2Proof.Laws.OperandBound.Statement (Instr.wwrite x0 x1) := fun _ => Nat.zero_le _
theorem Sys2Proof.Laws.OperandBound.rett (x0 : LC) : Sys2Proof.Laws.OperandBound.Statement (Instr.rett x0) := fun _ => Nat.zero_le _
theorem Sys2Proof.Laws.OperandBound.mfsr (x0 : LC) (x1 : Reg) (x2 : Reg) : Sys2Proof.Laws.OperandBound.Statement (Instr.mfsr x0 x1 x2) := fun _ => Nat.zero_le _
theorem Sys2Proof.Laws.OperandBound.mtsr (x0 : LC) (x1 : Reg) (x2 : Reg) : Sys2Proof.Laws.OperandBound.Statement (Instr.mtsr x0 x1 x2) := fun _ => Nat.zero_le _
theorem Sys2Proof.Laws.OperandBound.event (x0 : LC) : Sys2Proof.Laws.OperandBound.Statement (Instr.event x0) := fun _ => Nat.zero_le _
theorem Sys2Proof.Laws.OperandBound.machineCheck (x0 : LC) : Sys2Proof.Laws.OperandBound.Statement (Instr.machineCheck x0) := fun _ => Nat.zero_le _
theorem Sys2Proof.Laws.OperandBound.voterDissent (x0 : TrioNo) (x1 : Pos) (x2 : Fin 4) : Sys2Proof.Laws.OperandBound.Statement (Instr.voterDissent x0 x1 x2) := fun _ => Nat.zero_le _
theorem Sys2Proof.Laws.OperandBound.l1ParityError (x0 : CoreNo) : Sys2Proof.Laws.OperandBound.Statement (Instr.l1ParityError x0) := fun _ => Nat.zero_le _
theorem Sys2Proof.Laws.OperandBound.voterNoMajority (x0 : TrioNo) : Sys2Proof.Laws.OperandBound.Statement (Instr.voterNoMajority x0) := fun _ => Nat.zero_le _
theorem Sys2Proof.Laws.OperandBound.checkstopRecoveryPip (x0 : TrioNo) (x1 : CheckObs) : Sys2Proof.Laws.OperandBound.Statement (Instr.checkstopRecoveryPip x0 x1) := fun _ => Nat.zero_le _
theorem Sys2Proof.Laws.OperandBound.checkstopResume (x0 : TrioNo) : Sys2Proof.Laws.OperandBound.Statement (Instr.checkstopResume x0) := fun _ => Nat.zero_le _
theorem Sys2Proof.Laws.OperandBound.rebuildLimit (x0 : TrioNo) (x1 : Pos) : Sys2Proof.Laws.OperandBound.Statement (Instr.rebuildLimit x0 x1) := fun _ => Nat.zero_le _
theorem Sys2Proof.Laws.OperandBound.splitCoreError (x0 : LC) : Sys2Proof.Laws.OperandBound.Statement (Instr.splitCoreError x0) := fun _ => Nat.zero_le _
theorem Sys2Proof.Laws.OperandBound.splitCoreResume (x0 : LC) (x1 : Option (BitVec 4)) (x2 : Bool) : Sys2Proof.Laws.OperandBound.Statement (Instr.splitCoreResume x0 x1 x2) := fun _ => Nat.zero_le _
theorem Sys2Proof.Laws.OperandBound.rdshared (x0 : Agent) (x1 : LineNo) (x2 : Bool) : Sys2Proof.Laws.OperandBound.Statement (Instr.rdshared x0 x1 x2) := fun _ => Nat.zero_le _
theorem Sys2Proof.Laws.OperandBound.rdown (x0 : Agent) (x1 : LineNo) (x2 : Bool) (x3 : Maint) : Sys2Proof.Laws.OperandBound.Statement (Instr.rdown x0 x1 x2 x3) := fun _ => Nat.zero_le _
theorem Sys2Proof.Laws.OperandBound.upgrade (x0 : Agent) (x1 : LineNo) (x2 : Bool) : Sys2Proof.Laws.OperandBound.Statement (Instr.upgrade x0 x1 x2) := fun _ => Nat.zero_le _
theorem Sys2Proof.Laws.OperandBound.amoreq (x0 : Agent) (x1 : PAddr) (x2 : AmoArgs) : Sys2Proof.Laws.OperandBound.Statement (Instr.amoreq x0 x1 x2) := fun _ => Nat.zero_le _
theorem Sys2Proof.Laws.OperandBound.wrline (x0 : IoDie) (x1 : LineNo) (x2 : List Byte) (x3 : BitVec 128) (x4 : Bool) : Sys2Proof.Laws.OperandBound.Statement (Instr.wrline x0 x1 x2 x3 x4) := by
  intro h
  simp [Instr.wellFormed, Instr.items, listBound] at *
  omega
theorem Sys2Proof.Laws.OperandBound.wbdirty (x0 : Agent) (x1 : LineNo) : Sys2Proof.Laws.OperandBound.Statement (Instr.wbdirty x0 x1) := fun _ => Nat.zero_le _
theorem Sys2Proof.Laws.OperandBound.wbclean (x0 : Agent) (x1 : LineNo) : Sys2Proof.Laws.OperandBound.Statement (Instr.wbclean x0 x1) := fun _ => Nat.zero_le _
theorem Sys2Proof.Laws.OperandBound.evictnote (x0 : Agent) (x1 : LineNo) : Sys2Proof.Laws.OperandBound.Statement (Instr.evictnote x0 x1) := fun _ => Nat.zero_le _
theorem Sys2Proof.Laws.OperandBound.invalack (x0 : Agent) (x1 : LineNo) : Sys2Proof.Laws.OperandBound.Statement (Instr.invalack x0 x1) := fun _ => Nat.zero_le _
theorem Sys2Proof.Laws.OperandBound.dataAtHome (x0 : Agent) (x1 : LineNo) (x2 : Line) : Sys2Proof.Laws.OperandBound.Statement (Instr.dataAtHome x0 x1 x2) := by
  intro h
  simp [Instr.wellFormed, Instr.items, listBound] at *
  omega
theorem Sys2Proof.Laws.OperandBound.cmpAtHome (x0 : Agent) (x1 : LineNo) : Sys2Proof.Laws.OperandBound.Statement (Instr.cmpAtHome x0 x1) := fun _ => Nat.zero_le _
theorem Sys2Proof.Laws.OperandBound.data (x0 : Agent) (x1 : LineNo) (x2 : Line) : Sys2Proof.Laws.OperandBound.Statement (Instr.data x0 x1 x2) := by
  intro h
  simp [Instr.wellFormed, Instr.items, listBound] at *
  omega
theorem Sys2Proof.Laws.OperandBound.dataexcl (x0 : Agent) (x1 : LineNo) (x2 : Line) : Sys2Proof.Laws.OperandBound.Statement (Instr.dataexcl x0 x1 x2) := by
  intro h
  simp [Instr.wellFormed, Instr.items, listBound] at *
  omega
theorem Sys2Proof.Laws.OperandBound.cmp (x0 : Agent) (x1 : LineNo) : Sys2Proof.Laws.OperandBound.Statement (Instr.cmp x0 x1) := fun _ => Nat.zero_le _
theorem Sys2Proof.Laws.OperandBound.nack (x0 : Agent) (x1 : LineNo) : Sys2Proof.Laws.OperandBound.Statement (Instr.nack x0 x1) := fun _ => Nat.zero_le _
theorem Sys2Proof.Laws.OperandBound.fwdshared (x0 : Agent) (x1 : LineNo) (x2 : Agent) (x3 : FwdVariant) : Sys2Proof.Laws.OperandBound.Statement (Instr.fwdshared x0 x1 x2 x3) := fun _ => Nat.zero_le _
theorem Sys2Proof.Laws.OperandBound.fwdown (x0 : Agent) (x1 : LineNo) (x2 : Agent) : Sys2Proof.Laws.OperandBound.Statement (Instr.fwdown x0 x1 x2) := fun _ => Nat.zero_le _
theorem Sys2Proof.Laws.OperandBound.inval (x0 : Agent) (x1 : LineNo) : Sys2Proof.Laws.OperandBound.Statement (Instr.inval x0 x1) := fun _ => Nat.zero_le _
theorem Sys2Proof.Laws.OperandBound.amorsp (x0 : Agent) (x1 : PAddr) (x2 : TWord) (x3 : AmoStatus) (x4 : Bool) : Sys2Proof.Laws.OperandBound.Statement (Instr.amorsp x0 x1 x2 x3 x4) := fun _ => Nat.zero_le _
theorem Sys2Proof.Laws.OperandBound.cacheEccError (x0 : EccArray) (x1 : Bool) : Sys2Proof.Laws.OperandBound.Statement (Instr.cacheEccError x0 x1) := by
  intro h
  simp [Instr.wellFormed, Instr.items, eccOk, listBound] at *
  omega
theorem Sys2Proof.Laws.OperandBound.isolatedResponse (x0 : IsoReq) : Sys2Proof.Laws.OperandBound.Statement (Instr.isolatedResponse x0) := fun _ => Nat.zero_le _
theorem Sys2Proof.Laws.OperandBound.patrolScrubStep (x0 : StackNo) (x1 : List (Fin 7)) (x2 : List (Fin 7)) : Sys2Proof.Laws.OperandBound.Statement (Instr.patrolScrubStep x0 x1 x2) := by
  intro h
  simp [Instr.wellFormed, Instr.items, listBound] at *
  omega
theorem Sys2Proof.Laws.OperandBound.hbmCorrectableError (x0 : PAddr) : Sys2Proof.Laws.OperandBound.Statement (Instr.hbmCorrectableError x0) := fun _ => Nat.zero_le _
theorem Sys2Proof.Laws.OperandBound.hbmUncorrectableError (x0 : PAddr) : Sys2Proof.Laws.OperandBound.Statement (Instr.hbmUncorrectableError x0) := fun _ => Nat.zero_le _
theorem Sys2Proof.Laws.OperandBound.hbmCaParityError (x0 : PAddr) (x1 : Bool) : Sys2Proof.Laws.OperandBound.Statement (Instr.hbmCaParityError x0 x1) := fun _ => Nat.zero_le _
theorem Sys2Proof.Laws.OperandBound.hbmPhyFailure (x0 : StackNo) : Sys2Proof.Laws.OperandBound.Statement (Instr.hbmPhyFailure x0) := fun _ => Nat.zero_le _
theorem Sys2Proof.Laws.OperandBound.stackSlow (x0 : StackNo) : Sys2Proof.Laws.OperandBound.Statement (Instr.stackSlow x0) := fun _ => Nat.zero_le _
theorem Sys2Proof.Laws.OperandBound.stackSelfRefreshEntry (x0 : StackNo) : Sys2Proof.Laws.OperandBound.Statement (Instr.stackSelfRefreshEntry x0) := fun _ => Nat.zero_le _
theorem Sys2Proof.Laws.OperandBound.cxlLinkLoss (x0 : PortNo) (x1 : Bool) : Sys2Proof.Laws.OperandBound.Statement (Instr.cxlLinkLoss x0 x1) := fun _ => Nat.zero_le _
theorem Sys2Proof.Laws.OperandBound.flitCrcError (x0 : LinkFlit) : Sys2Proof.Laws.OperandBound.Statement (Instr.flitCrcError x0) := fun _ => Nat.zero_le _
theorem Sys2Proof.Laws.OperandBound.linkTrainingEnd (x0 : LinkId) (x1 : Bool) : Sys2Proof.Laws.OperandBound.Statement (Instr.linkTrainingEnd x0 x1) := fun _ => Nat.zero_le _
theorem Sys2Proof.Laws.OperandBound.domainWake (x0 : Domain) : Sys2Proof.Laws.OperandBound.Statement (Instr.domainWake x0) := fun _ => Nat.zero_le _
theorem Sys2Proof.Laws.OperandBound.domainWakeDone (x0 : Domain) : Sys2Proof.Laws.OperandBound.Statement (Instr.domainWakeDone x0) := fun _ => Nat.zero_le _
theorem Sys2Proof.Laws.OperandBound.wakeOverrun (x0 : Domain) : Sys2Proof.Laws.OperandBound.Statement (Instr.wakeOverrun x0) := fun _ => Nat.zero_le _
theorem Sys2Proof.Laws.OperandBound.netTimeout (x0 : DieNo) (x1 : HullPos) : Sys2Proof.Laws.OperandBound.Statement (Instr.netTimeout x0 x1) := fun _ => Nat.zero_le _
theorem Sys2Proof.Laws.OperandBound.hullPlacement (x0 : HullPos) : Sys2Proof.Laws.OperandBound.Statement (Instr.hullPlacement x0) := fun _ => Nat.zero_le _
theorem Sys2Proof.Laws.OperandBound.hullArrival (x0 : HullPos) (x1 : HullMsg) : Sys2Proof.Laws.OperandBound.Statement (Instr.hullArrival x0 x1) := fun _ => Nat.zero_le _
theorem Sys2Proof.Laws.OperandBound.splitLinkIsolation : Sys2Proof.Laws.OperandBound.Statement Instr.splitLinkIsolation := fun _ => Nat.zero_le _
theorem Sys2Proof.Laws.OperandBound.spanningPartitionEvaluate (x0 : PartNo) : Sys2Proof.Laws.OperandBound.Statement (Instr.spanningPartitionEvaluate x0) := fun _ => Nat.zero_le _
theorem Sys2Proof.Laws.OperandBound.m7Retrain (x0 : BitVec 4) : Sys2Proof.Laws.OperandBound.Statement (Instr.m7Retrain x0) := fun _ => Nat.zero_le _
theorem Sys2Proof.Laws.OperandBound.dieSelfStop (x0 : DieNo) : Sys2Proof.Laws.OperandBound.Statement (Instr.dieSelfStop x0) := fun _ => Nat.zero_le _
theorem Sys2Proof.Laws.OperandBound.sqTailWrite (x0 : SliceNo) (x1 : PairNo) (x2 : W64) : Sys2Proof.Laws.OperandBound.Statement (Instr.sqTailWrite x0 x1 x2) := fun _ => Nat.zero_le _
theorem Sys2Proof.Laws.OperandBound.cqHeadWrite (x0 : SliceNo) (x1 : PairNo) (x2 : W64) : Sys2Proof.Laws.OperandBound.Statement (Instr.cqHeadWrite x0 x1 x2) := fun _ => Nat.zero_le _
theorem Sys2Proof.Laws.OperandBound.wmStatusClear (x0 : SliceNo) (x1 : PairNo) (x2 : WhichWm) (x3 : W64) : Sys2Proof.Laws.OperandBound.Statement (Instr.wmStatusClear x0 x1 x2 x3) := fun _ => Nat.zero_le _
theorem Sys2Proof.Laws.OperandBound.descriptorFetch (x0 : SliceNo) (x1 : PairNo) : Sys2Proof.Laws.OperandBound.Statement (Instr.descriptorFetch x0 x1) := fun _ => Nat.zero_le _
theorem Sys2Proof.Laws.OperandBound.mirrorConfirm (x0 : ExId) : Sys2Proof.Laws.OperandBound.Statement (Instr.mirrorConfirm x0) := fun _ => Nat.zero_le _
theorem Sys2Proof.Laws.OperandBound.read (x0 : ExId) : Sys2Proof.Laws.OperandBound.Statement (Instr.read x0) := fun _ => Nat.zero_le _
theorem Sys2Proof.Laws.OperandBound.write (x0 : ExId) : Sys2Proof.Laws.OperandBound.Statement (Instr.write x0) := fun _ => Nat.zero_le _
theorem Sys2Proof.Laws.OperandBound.control (x0 : ExId) : Sys2Proof.Laws.OperandBound.Statement (Instr.control x0) := fun _ => Nat.zero_le _
theorem Sys2Proof.Laws.OperandBound.sense (x0 : ExId) : Sys2Proof.Laws.OperandBound.Statement (Instr.sense x0) := fun _ => Nat.zero_le _
theorem Sys2Proof.Laws.OperandBound.chain (x0 : ExId) : Sys2Proof.Laws.OperandBound.Statement (Instr.chain x0) := fun _ => Nat.zero_le _
theorem Sys2Proof.Laws.OperandBound.echo (x0 : ExId) : Sys2Proof.Laws.OperandBound.Statement (Instr.echo x0) := fun _ => Nat.zero_le _
theorem Sys2Proof.Laws.OperandBound.cancel (x0 : ExId) : Sys2Proof.Laws.OperandBound.Statement (Instr.cancel x0) := fun _ => Nat.zero_le _
theorem Sys2Proof.Laws.OperandBound.open (x0 : ExId) : Sys2Proof.Laws.OperandBound.Statement (Instr.open x0) := fun _ => Nat.zero_le _
theorem Sys2Proof.Laws.OperandBound.dataSend (x0 : ExId) : Sys2Proof.Laws.OperandBound.Statement (Instr.dataSend x0) := fun _ => Nat.zero_le _
theorem Sys2Proof.Laws.OperandBound.exchangeLogged (x0 : ExId) : Sys2Proof.Laws.OperandBound.Statement (Instr.exchangeLogged x0) := fun _ => Nat.zero_le _
theorem Sys2Proof.Laws.OperandBound.recordComposed (x0 : ExId) : Sys2Proof.Laws.OperandBound.Statement (Instr.recordComposed x0) := fun _ => Nat.zero_le _
theorem Sys2Proof.Laws.OperandBound.recordPosted (x0 : ExId) : Sys2Proof.Laws.OperandBound.Statement (Instr.recordPosted x0) := fun _ => Nat.zero_le _
theorem Sys2Proof.Laws.OperandBound.noPathWaitExpiry (x0 : ExId) : Sys2Proof.Laws.OperandBound.Statement (Instr.noPathWaitExpiry x0) := fun _ => Nat.zero_le _
theorem Sys2Proof.Laws.OperandBound.exchangeTimeout (x0 : ExId) : Sys2Proof.Laws.OperandBound.Statement (Instr.exchangeTimeout x0) := fun _ => Nat.zero_le _
theorem Sys2Proof.Laws.OperandBound.abortWaitExpiry (x0 : ExId) : Sys2Proof.Laws.OperandBound.Statement (Instr.abortWaitExpiry x0) := fun _ => Nat.zero_le _
theorem Sys2Proof.Laws.OperandBound.ioDieTakeover (x0 : IoDie) : Sys2Proof.Laws.OperandBound.Statement (Instr.ioDieTakeover x0) := fun _ => Nat.zero_le _
theorem Sys2Proof.Laws.OperandBound.pairLoss (x0 : PairNo) : Sys2Proof.Laws.OperandBound.Statement (Instr.pairLoss x0) := fun _ => Nat.zero_le _
theorem Sys2Proof.Laws.OperandBound.sliceResetDrainEnd (x0 : SliceNo) : Sys2Proof.Laws.OperandBound.Statement (Instr.sliceResetDrainEnd x0) := fun _ => Nat.zero_le _
theorem Sys2Proof.Laws.OperandBound.dataFrame (x0 : ChanNo) (x1 : FrameHdr) (x2 : DataBody) : Sys2Proof.Laws.OperandBound.Statement (Instr.dataFrame x0 x1 x2) := by
  intro h
  have := x2.dlen.isLt
  simp [Instr.wellFormed, Instr.items, listBound] at *
  omega
theorem Sys2Proof.Laws.OperandBound.ack (x0 : ChanNo) (x1 : FrameHdr) (x2 : Byte) : Sys2Proof.Laws.OperandBound.Statement (Instr.ack x0 x1 x2) := fun _ => Nat.zero_le _
theorem Sys2Proof.Laws.OperandBound.nak (x0 : ChanNo) (x1 : FrameHdr) (x2 : W32) (x3 : Byte) : Sys2Proof.Laws.OperandBound.Statement (Instr.nak x0 x1 x2 x3) := fun _ => Nat.zero_le _
theorem Sys2Proof.Laws.OperandBound.complete (x0 : ChanNo) (x1 : FrameHdr) (x2 : CompleteBody) : Sys2Proof.Laws.OperandBound.Statement (Instr.complete x0 x1 x2) := fun _ => Nat.zero_le _
theorem Sys2Proof.Laws.OperandBound.resumeAnswer (x0 : ChanNo) (x1 : FrameHdr) (x2 : AnswerBody) : Sys2Proof.Laws.OperandBound.Statement (Instr.resumeAnswer x0 x1 x2) := by
  intro h
  simp [Instr.wellFormed, Instr.items, listBound] at *
  omega
theorem Sys2Proof.Laws.OperandBound.pathHello (x0 : ChanNo) (x1 : FrameHdr) (x2 : HelloBody) : Sys2Proof.Laws.OperandBound.Statement (Instr.pathHello x0 x1 x2) := fun _ => Nat.zero_le _
theorem Sys2Proof.Laws.OperandBound.pathGone (x0 : ChanNo) (x1 : FrameHdr) (x2 : GoneBody) : Sys2Proof.Laws.OperandBound.Statement (Instr.pathGone x0 x1 x2) := fun _ => Nat.zero_le _
theorem Sys2Proof.Laws.OperandBound.rtoExpiry (x0 : ChanNo) : Sys2Proof.Laws.OperandBound.Statement (Instr.rtoExpiry x0) := fun _ => Nat.zero_le _
theorem Sys2Proof.Laws.OperandBound.pathHelloSend (x0 : ChanNo) : Sys2Proof.Laws.OperandBound.Statement (Instr.pathHelloSend x0) := fun _ => Nat.zero_le _
theorem Sys2Proof.Laws.OperandBound.pathSilence (x0 : ChanNo) : Sys2Proof.Laws.OperandBound.Statement (Instr.pathSilence x0) := fun _ => Nat.zero_le _
theorem Sys2Proof.Laws.OperandBound.pcsBlockLockLoss (x0 : ChanNo) : Sys2Proof.Laws.OperandBound.Statement (Instr.pcsBlockLockLoss x0) := fun _ => Nat.zero_le _
theorem Sys2Proof.Laws.OperandBound.pcsBlockLock (x0 : ChanNo) : Sys2Proof.Laws.OperandBound.Statement (Instr.pcsBlockLock x0) := fun _ => Nat.zero_le _
theorem Sys2Proof.Laws.OperandBound.rekeyIntervalExpiry (x0 : GroupNo) : Sys2Proof.Laws.OperandBound.Statement (Instr.rekeyIntervalExpiry x0) := fun _ => Nat.zero_le _
theorem Sys2Proof.Laws.OperandBound.rekeyTimeout (x0 : GroupNo) : Sys2Proof.Laws.OperandBound.Statement (Instr.rekeyTimeout x0) := fun _ => Nat.zero_le _
theorem Sys2Proof.Laws.OperandBound.oldKeyErase (x0 : GroupNo) : Sys2Proof.Laws.OperandBound.Statement (Instr.oldKeyErase x0) := fun _ => Nat.zero_le _
theorem Sys2Proof.Laws.OperandBound.invalidate (x0 : PartNo) (x1 : Fin 16) (x2 : W64) : Sys2Proof.Laws.OperandBound.Statement (Instr.invalidate x0 x1 x2) := fun _ => Nat.zero_le _
theorem Sys2Proof.Laws.OperandBound.invalidateDone (x0 : PartNo) (x1 : Fin 16) : Sys2Proof.Laws.OperandBound.Statement (Instr.invalidateDone x0 x1) := fun _ => Nat.zero_le _
theorem Sys2Proof.Laws.OperandBound.eqTailWrite (x0 : SliceNo) (x1 : PairNo) (x2 : W64) : Sys2Proof.Laws.OperandBound.Statement (Instr.eqTailWrite x0 x1 x2) := fun _ => Nat.zero_le _
theorem Sys2Proof.Laws.OperandBound.engineJobFetch (x0 : SliceNo) (x1 : PairNo) : Sys2Proof.Laws.OperandBound.Statement (Instr.engineJobFetch x0 x1) := fun _ => Nat.zero_le _
theorem Sys2Proof.Laws.OperandBound.engineJobAccept (x0 : SliceNo) (x1 : PairNo) : Sys2Proof.Laws.OperandBound.Statement (Instr.engineJobAccept x0 x1) := fun _ => Nat.zero_le _
theorem Sys2Proof.Laws.OperandBound.engineJobStart (x0 : JobId) : Sys2Proof.Laws.OperandBound.Statement (Instr.engineJobStart x0) := fun _ => Nat.zero_le _
theorem Sys2Proof.Laws.OperandBound.engineJobEnd (x0 : JobId) : Sys2Proof.Laws.OperandBound.Statement (Instr.engineJobEnd x0) := fun _ => Nat.zero_le _
theorem Sys2Proof.Laws.OperandBound.engineSelfCheckFail (x0 : JobId) (x1 : Fin 3) : Sys2Proof.Laws.OperandBound.Statement (Instr.engineSelfCheckFail x0 x1) := fun _ => Nat.zero_le _
theorem Sys2Proof.Laws.OperandBound.stagingEnd (x0 : ExId) : Sys2Proof.Laws.OperandBound.Statement (Instr.stagingEnd x0) := fun _ => Nat.zero_le _
theorem Sys2Proof.Laws.OperandBound.seedPlacement (x0 : Bool) (x1 : Bool) : Sys2Proof.Laws.OperandBound.Statement (Instr.seedPlacement x0 x1) := fun _ => Nat.zero_le _
theorem Sys2Proof.Laws.OperandBound.seedRenewal : Sys2Proof.Laws.OperandBound.Statement Instr.seedRenewal := fun _ => Nat.zero_le _
theorem Sys2Proof.Laws.OperandBound.huskSelfCheckFail (x0 : HuskId) (x1 : Fin 6) : Sys2Proof.Laws.OperandBound.Statement (Instr.huskSelfCheckFail x0 x1) := fun _ => Nat.zero_le _
theorem Sys2Proof.Laws.OperandBound.seedTakeover : Sys2Proof.Laws.OperandBound.Statement (Instr.seedTakeover) := fun _ => Nat.zero_le _
theorem Sys2Proof.Laws.OperandBound.huskSelfTestEnd (x0 : HuskId) (x1 : Bool) : Sys2Proof.Laws.OperandBound.Statement (Instr.huskSelfTestEnd x0 x1) := fun _ => Nat.zero_le _
theorem Sys2Proof.Laws.OperandBound.huskRejoinCopyDone (x0 : HuskId) (x1 : Bool) : Sys2Proof.Laws.OperandBound.Statement (Instr.huskRejoinCopyDone x0 x1) := fun _ => Nat.zero_le _
theorem Sys2Proof.Laws.OperandBound.mbRequest (x0 : Bus) (x1 : Byte) (x2 : List Byte) (x3 : Bool) : Sys2Proof.Laws.OperandBound.Statement (Instr.mbRequest x0 x1 x2 x3) := by
  intro h
  simp [Instr.wellFormed, Instr.items, listBound] at *
  omega
theorem Sys2Proof.Laws.OperandBound.mbReplyRead (x0 : Bus) (x1 : Byte) : Sys2Proof.Laws.OperandBound.Statement (Instr.mbReplyRead x0 x1) := fun _ => Nat.zero_le _
theorem Sys2Proof.Laws.OperandBound.cmdGo (x0 : PartNo) (x1 : W64) : Sys2Proof.Laws.OperandBound.Statement (Instr.cmdGo x0 x1) := fun _ => Nat.zero_le _
theorem Sys2Proof.Laws.OperandBound.commandPoll (x0 : Half) (x1 : Request) : Sys2Proof.Laws.OperandBound.Statement (Instr.commandPoll x0 x1) := by
  intro h
  simp [Instr.wellFormed, Instr.items, requestOk, listBound] at *
  omega
theorem Sys2Proof.Laws.OperandBound.unknownCommand (x0 : Half) (x1 : Request) : Sys2Proof.Laws.OperandBound.Statement (Instr.unknownCommand x0 x1) := by
  intro h
  simp [Instr.wellFormed, Instr.items, requestOk, listBound] at *
  omega
theorem Sys2Proof.Laws.OperandBound.identity (x0 : Request) : Sys2Proof.Laws.OperandBound.Statement (Instr.identity x0) := by
  intro h
  simp [Instr.wellFormed, Instr.items, requestOk, listBound] at *
  omega
theorem Sys2Proof.Laws.OperandBound.configRead (x0 : Request) : Sys2Proof.Laws.OperandBound.Statement (Instr.configRead x0) := by
  intro h
  simp [Instr.wellFormed, Instr.items, requestOk, listBound] at *
  omega
theorem Sys2Proof.Laws.OperandBound.configWrite (x0 : Request) : Sys2Proof.Laws.OperandBound.Statement (Instr.configWrite x0) := by
  intro h
  simp [Instr.wellFormed, Instr.items, requestOk, listBound] at *
  omega
theorem Sys2Proof.Laws.OperandBound.stackWeightSet (x0 : Request) : Sys2Proof.Laws.OperandBound.Statement (Instr.stackWeightSet x0) := by
  intro h
  simp [Instr.wellFormed, Instr.items, requestOk, listBound] at *
  omega
theorem Sys2Proof.Laws.OperandBound.partDefine (x0 : Request) : Sys2Proof.Laws.OperandBound.Statement (Instr.partDefine x0) := by
  intro h
  simp [Instr.wellFormed, Instr.items, requestOk, listBound] at *
  omega
theorem Sys2Proof.Laws.OperandBound.partStart (x0 : Request) : Sys2Proof.Laws.OperandBound.Statement (Instr.partStart x0) := by
  intro h
  simp [Instr.wellFormed, Instr.items, requestOk, listBound] at *
  omega
theorem Sys2Proof.Laws.OperandBound.partStop (x0 : Request) : Sys2Proof.Laws.OperandBound.Statement (Instr.partStop x0) := by
  intro h
  simp [Instr.wellFormed, Instr.items, requestOk, listBound] at *
  omega
theorem Sys2Proof.Laws.OperandBound.partRangeAdd (x0 : Request) : Sys2Proof.Laws.OperandBound.Statement (Instr.partRangeAdd x0) := by
  intro h
  simp [Instr.wellFormed, Instr.items, requestOk, listBound] at *
  omega
theorem Sys2Proof.Laws.OperandBound.partRangeRemove (x0 : Request) : Sys2Proof.Laws.OperandBound.Statement (Instr.partRangeRemove x0) := by
  intro h
  simp [Instr.wellFormed, Instr.items, requestOk, listBound] at *
  omega
theorem Sys2Proof.Laws.OperandBound.partRestart (x0 : Request) : Sys2Proof.Laws.OperandBound.Statement (Instr.partRestart x0) := by
  intro h
  simp [Instr.wellFormed, Instr.items, requestOk, listBound] at *
  omega
theorem Sys2Proof.Laws.OperandBound.sliceCreate (x0 : Request) : Sys2Proof.Laws.OperandBound.Statement (Instr.sliceCreate x0) := by
  intro h
  simp [Instr.wellFormed, Instr.items, requestOk, listBound] at *
  omega
theorem Sys2Proof.Laws.OperandBound.sliceDestroy (x0 : Request) : Sys2Proof.Laws.OperandBound.Statement (Instr.sliceDestroy x0) := by
  intro h
  simp [Instr.wellFormed, Instr.items, requestOk, listBound] at *
  omega
theorem Sys2Proof.Laws.OperandBound.sliceReset (x0 : Request) : Sys2Proof.Laws.OperandBound.Statement (Instr.sliceReset x0) := by
  intro h
  simp [Instr.wellFormed, Instr.items, requestOk, listBound] at *
  omega
theorem Sys2Proof.Laws.OperandBound.sliceLogStart (x0 : Request) : Sys2Proof.Laws.OperandBound.Statement (Instr.sliceLogStart x0) := by
  intro h
  simp [Instr.wellFormed, Instr.items, requestOk, listBound] at *
  omega
theorem Sys2Proof.Laws.OperandBound.sliceLogSwitch (x0 : Request) : Sys2Proof.Laws.OperandBound.Statement (Instr.sliceLogSwitch x0) := by
  intro h
  simp [Instr.wellFormed, Instr.items, requestOk, listBound] at *
  omega
theorem Sys2Proof.Laws.OperandBound.sliceLogStop (x0 : Request) : Sys2Proof.Laws.OperandBound.Statement (Instr.sliceLogStop x0) := by
  intro h
  simp [Instr.wellFormed, Instr.items, requestOk, listBound] at *
  omega
theorem Sys2Proof.Laws.OperandBound.sliceStatus (x0 : Request) : Sys2Proof.Laws.OperandBound.Statement (Instr.sliceStatus x0) := by
  intro h
  simp [Instr.wellFormed, Instr.items, requestOk, listBound] at *
  omega
theorem Sys2Proof.Laws.OperandBound.partStatus (x0 : Request) : Sys2Proof.Laws.OperandBound.Statement (Instr.partStatus x0) := by
  intro h
  simp [Instr.wellFormed, Instr.items, requestOk, listBound] at *
  omega
theorem Sys2Proof.Laws.OperandBound.faultLogRead (x0 : Request) : Sys2Proof.Laws.OperandBound.Statement (Instr.faultLogRead x0) := by
  intro h
  simp [Instr.wellFormed, Instr.items, requestOk, listBound] at *
  omega
theorem Sys2Proof.Laws.OperandBound.historyRead (x0 : Request) : Sys2Proof.Laws.OperandBound.Statement (Instr.historyRead x0) := by
  intro h
  simp [Instr.wellFormed, Instr.items, requestOk, listBound] at *
  omega
theorem Sys2Proof.Laws.OperandBound.trioStatusRead (x0 : Request) : Sys2Proof.Laws.OperandBound.Statement (Instr.trioStatusRead x0) := by
  intro h
  simp [Instr.wellFormed, Instr.items, requestOk, listBound] at *
  omega
theorem Sys2Proof.Laws.OperandBound.counterClear (x0 : Request) : Sys2Proof.Laws.OperandBound.Statement (Instr.counterClear x0) := by
  intro h
  simp [Instr.wellFormed, Instr.items, requestOk, listBound] at *
  omega
theorem Sys2Proof.Laws.OperandBound.hullStatusRead (x0 : Request) : Sys2Proof.Laws.OperandBound.Statement (Instr.hullStatusRead x0) := by
  intro h
  simp [Instr.wellFormed, Instr.items, requestOk, listBound] at *
  omega
theorem Sys2Proof.Laws.OperandBound.classRead (x0 : Request) : Sys2Proof.Laws.OperandBound.Statement (Instr.classRead x0) := by
  intro h
  simp [Instr.wellFormed, Instr.items, requestOk, listBound] at *
  omega
theorem Sys2Proof.Laws.OperandBound.classSet (x0 : Request) : Sys2Proof.Laws.OperandBound.Statement (Instr.classSet x0) := by
  intro h
  simp [Instr.wellFormed, Instr.items, requestOk, listBound] at *
  omega
theorem Sys2Proof.Laws.OperandBound.capSet (x0 : Request) : Sys2Proof.Laws.OperandBound.Statement (Instr.capSet x0) := by
  intro h
  simp [Instr.wellFormed, Instr.items, requestOk, listBound] at *
  omega
theorem Sys2Proof.Laws.OperandBound.powerRead (x0 : Request) : Sys2Proof.Laws.OperandBound.Statement (Instr.powerRead x0) := by
  intro h
  simp [Instr.wellFormed, Instr.items, requestOk, listBound] at *
  omega
theorem Sys2Proof.Laws.OperandBound.sensorRead (x0 : Request) : Sys2Proof.Laws.OperandBound.Statement (Instr.sensorRead x0) := by
  intro h
  simp [Instr.wellFormed, Instr.items, requestOk, listBound] at *
  omega
theorem Sys2Proof.Laws.OperandBound.trioClockLimit (x0 : Request) : Sys2Proof.Laws.OperandBound.Statement (Instr.trioClockLimit x0) := by
  intro h
  simp [Instr.wellFormed, Instr.items, requestOk, listBound] at *
  omega
theorem Sys2Proof.Laws.OperandBound.park (x0 : Request) : Sys2Proof.Laws.OperandBound.Statement (Instr.park x0) := by
  intro h
  simp [Instr.wellFormed, Instr.items, requestOk, listBound] at *
  omega
theorem Sys2Proof.Laws.OperandBound.parkEntry : Sys2Proof.Laws.OperandBound.Statement (Instr.parkEntry) := fun _ => Nat.zero_le _
theorem Sys2Proof.Laws.OperandBound.unpark (x0 : Request) : Sys2Proof.Laws.OperandBound.Statement (Instr.unpark x0) := by
  intro h
  simp [Instr.wellFormed, Instr.items, requestOk, listBound] at *
  omega
theorem Sys2Proof.Laws.OperandBound.trioAutoPark (x0 : TrioNo) : Sys2Proof.Laws.OperandBound.Statement (Instr.trioAutoPark x0) := fun _ => Nat.zero_le _
theorem Sys2Proof.Laws.OperandBound.pgOpen (x0 : Request) : Sys2Proof.Laws.OperandBound.Statement (Instr.pgOpen x0) := by
  intro h
  simp [Instr.wellFormed, Instr.items, requestOk, listBound] at *
  omega
theorem Sys2Proof.Laws.OperandBound.pgClose (x0 : Request) : Sys2Proof.Laws.OperandBound.Statement (Instr.pgClose x0) := by
  intro h
  simp [Instr.wellFormed, Instr.items, requestOk, listBound] at *
  omega
theorem Sys2Proof.Laws.OperandBound.pgSet (x0 : Request) : Sys2Proof.Laws.OperandBound.Statement (Instr.pgSet x0) := by
  intro h
  simp [Instr.wellFormed, Instr.items, requestOk, listBound] at *
  omega
theorem Sys2Proof.Laws.OperandBound.chSet (x0 : Request) : Sys2Proof.Laws.OperandBound.Statement (Instr.chSet x0) := by
  intro h
  simp [Instr.wellFormed, Instr.items, requestOk, listBound] at *
  omega
theorem Sys2Proof.Laws.OperandBound.ringSetup (x0 : Request) : Sys2Proof.Laws.OperandBound.Statement (Instr.ringSetup x0) := by
  intro h
  simp [Instr.wellFormed, Instr.items, requestOk, listBound] at *
  omega
theorem Sys2Proof.Laws.OperandBound.ringTeardown (x0 : Request) : Sys2Proof.Laws.OperandBound.Statement (Instr.ringTeardown x0) := by
  intro h
  simp [Instr.wellFormed, Instr.items, requestOk, listBound] at *
  omega
theorem Sys2Proof.Laws.OperandBound.pgStatus (x0 : Request) : Sys2Proof.Laws.OperandBound.Statement (Instr.pgStatus x0) := by
  intro h
  simp [Instr.wellFormed, Instr.items, requestOk, listBound] at *
  omega
theorem Sys2Proof.Laws.OperandBound.resumeQuery (x0 : Request) : Sys2Proof.Laws.OperandBound.Statement (Instr.resumeQuery x0) := by
  intro h
  simp [Instr.wellFormed, Instr.items, requestOk, listBound] at *
  omega
theorem Sys2Proof.Laws.OperandBound.engqSetup (x0 : Request) : Sys2Proof.Laws.OperandBound.Statement (Instr.engqSetup x0) := by
  intro h
  simp [Instr.wellFormed, Instr.items, requestOk, listBound] at *
  omega
theorem Sys2Proof.Laws.OperandBound.engqTeardown (x0 : Request) : Sys2Proof.Laws.OperandBound.Statement (Instr.engqTeardown x0) := by
  intro h
  simp [Instr.wellFormed, Instr.items, requestOk, listBound] at *
  omega
theorem Sys2Proof.Laws.OperandBound.engqAbort (x0 : Request) : Sys2Proof.Laws.OperandBound.Statement (Instr.engqAbort x0) := by
  intro h
  simp [Instr.wellFormed, Instr.items, requestOk, listBound] at *
  omega
theorem Sys2Proof.Laws.OperandBound.engStatus (x0 : Request) : Sys2Proof.Laws.OperandBound.Statement (Instr.engStatus x0) := by
  intro h
  simp [Instr.wellFormed, Instr.items, requestOk, listBound] at *
  omega
theorem Sys2Proof.Laws.OperandBound.engSet (x0 : Request) : Sys2Proof.Laws.OperandBound.Statement (Instr.engSet x0) := by
  intro h
  simp [Instr.wellFormed, Instr.items, requestOk, listBound] at *
  omega
theorem Sys2Proof.Laws.OperandBound.pipStatusRead (x0 : Request) : Sys2Proof.Laws.OperandBound.Statement (Instr.pipStatusRead x0) := by
  intro h
  simp [Instr.wellFormed, Instr.items, requestOk, listBound] at *
  omega
theorem Sys2Proof.Laws.OperandBound.demandScrub (x0 : Request) : Sys2Proof.Laws.OperandBound.Statement (Instr.demandScrub x0) := by
  intro h
  simp [Instr.wellFormed, Instr.items, requestOk, listBound] at *
  omega
theorem Sys2Proof.Laws.OperandBound.trioDump (x0 : Request) : Sys2Proof.Laws.OperandBound.Statement (Instr.trioDump x0) := by
  intro h
  simp [Instr.wellFormed, Instr.items, requestOk, listBound] at *
  omega
theorem Sys2Proof.Laws.OperandBound.swap (x0 : Request) : Sys2Proof.Laws.OperandBound.Statement (Instr.swap x0) := by
  intro h
  simp [Instr.wellFormed, Instr.items, requestOk, listBound] at *
  omega
theorem Sys2Proof.Laws.OperandBound.quiesce (x0 : Request) : Sys2Proof.Laws.OperandBound.Statement (Instr.quiesce x0) := by
  intro h
  simp [Instr.wellFormed, Instr.items, requestOk, listBound] at *
  omega
theorem Sys2Proof.Laws.OperandBound.quiesceEnd (x0 : Request) : Sys2Proof.Laws.OperandBound.Statement (Instr.quiesceEnd x0) := by
  intro h
  simp [Instr.wellFormed, Instr.items, requestOk, listBound] at *
  omega
theorem Sys2Proof.Laws.OperandBound.huskStatus (x0 : Request) : Sys2Proof.Laws.OperandBound.Statement (Instr.huskStatus x0) := by
  intro h
  simp [Instr.wellFormed, Instr.items, requestOk, listBound] at *
  omega
theorem Sys2Proof.Laws.OperandBound.privLogRead (x0 : Request) : Sys2Proof.Laws.OperandBound.Statement (Instr.privLogRead x0) := by
  intro h
  simp [Instr.wellFormed, Instr.items, requestOk, listBound] at *
  omega
theorem Sys2Proof.Laws.OperandBound.unitRejoin (x0 : Request) : Sys2Proof.Laws.OperandBound.Statement (Instr.unitRejoin x0) := by
  intro h
  simp [Instr.wellFormed, Instr.items, requestOk, listBound] at *
  omega
theorem Sys2Proof.Laws.OperandBound.unitRejoinEnd (x0 : Unit') (x1 : Bool) : Sys2Proof.Laws.OperandBound.Statement (Instr.unitRejoinEnd x0 x1) := fun _ => Nat.zero_le _
theorem Sys2Proof.Laws.OperandBound.keyGenerate (x0 : Request) : Sys2Proof.Laws.OperandBound.Statement (Instr.keyGenerate x0) := by
  intro h
  simp [Instr.wellFormed, Instr.items, requestOk, listBound] at *
  omega
theorem Sys2Proof.Laws.OperandBound.keyImport (x0 : Request) : Sys2Proof.Laws.OperandBound.Statement (Instr.keyImport x0) := by
  intro h
  simp [Instr.wellFormed, Instr.items, requestOk, listBound] at *
  omega
theorem Sys2Proof.Laws.OperandBound.keyDestroy (x0 : Request) : Sys2Proof.Laws.OperandBound.Statement (Instr.keyDestroy x0) := by
  intro h
  simp [Instr.wellFormed, Instr.items, requestOk, listBound] at *
  omega
theorem Sys2Proof.Laws.OperandBound.keyInfo (x0 : Request) : Sys2Proof.Laws.OperandBound.Statement (Instr.keyInfo x0) := by
  intro h
  simp [Instr.wellFormed, Instr.items, requestOk, listBound] at *
  omega
theorem Sys2Proof.Laws.OperandBound.rekey (x0 : Request) : Sys2Proof.Laws.OperandBound.Statement (Instr.rekey x0) := by
  intro h
  simp [Instr.wellFormed, Instr.items, requestOk, listBound] at *
  omega
theorem Sys2Proof.Laws.OperandBound.measurementRead (x0 : Request) : Sys2Proof.Laws.OperandBound.Statement (Instr.measurementRead x0) := by
  intro h
  simp [Instr.wellFormed, Instr.items, requestOk, listBound] at *
  omega
theorem Sys2Proof.Laws.OperandBound.imageStatus (x0 : Request) : Sys2Proof.Laws.OperandBound.Statement (Instr.imageStatus x0) := by
  intro h
  simp [Instr.wellFormed, Instr.items, requestOk, listBound] at *
  omega
theorem Sys2Proof.Laws.OperandBound.evPendingWrite (x0 : PartNo) (x1 : SrcNo) (x2 : W64) : Sys2Proof.Laws.OperandBound.Statement (Instr.evPendingWrite x0 x1 x2) := fun _ => Nat.zero_le _
theorem Sys2Proof.Laws.OperandBound.evTake (x0 : PartNo) (x1 : SrcNo) : Sys2Proof.Laws.OperandBound.Statement (Instr.evTake x0 x1) := fun _ => Nat.zero_le _
theorem Sys2Proof.Laws.OperandBound.evBindWrite (x0 : PartNo) (x1 : SrcNo) (x2 : W64) : Sys2Proof.Laws.OperandBound.Statement (Instr.evBindWrite x0 x1 x2) := fun _ => Nat.zero_le _
theorem Sys2Proof.Laws.OperandBound.mbxSend (x0 : LC) (x1 : SetNo) (x2 : W64) : Sys2Proof.Laws.OperandBound.Statement (Instr.mbxSend x0 x1 x2) := fun _ => Nat.zero_le _
theorem Sys2Proof.Laws.OperandBound.mbxDbTake (x0 : PartNo) (x1 : MbxNo) : Sys2Proof.Laws.OperandBound.Statement (Instr.mbxDbTake x0 x1) := fun _ => Nat.zero_le _
theorem Sys2Proof.Laws.OperandBound.mbxRelease (x0 : PartNo) (x1 : MbxNo) (x2 : W64) : Sys2Proof.Laws.OperandBound.Statement (Instr.mbxRelease x0 x1 x2) := fun _ => Nat.zero_le _
theorem Sys2Proof.Laws.OperandBound.mbxReset (x0 : PartNo) (x1 : MbxNo) (x2 : W64) : Sys2Proof.Laws.OperandBound.Statement (Instr.mbxReset x0 x1 x2) := fun _ => Nat.zero_le _
theorem Sys2Proof.Laws.OperandBound.registerWrite (x0 : RegName) (x1 : W64) : Sys2Proof.Laws.OperandBound.Statement (Instr.registerWrite x0 x1) := fun _ => Nat.zero_le _
theorem Sys2Proof.Laws.OperandBound.faultPointReport (x0 : PointNo) (x1 : Half) : Sys2Proof.Laws.OperandBound.Statement (Instr.faultPointReport x0 x1) := fun _ => Nat.zero_le _
theorem Sys2Proof.Laws.OperandBound.faultRecordWrite : Sys2Proof.Laws.OperandBound.Statement (Instr.faultRecordWrite) := fun _ => Nat.zero_le _
theorem Sys2Proof.Laws.OperandBound.collectorSelfFault (x0 : Fin 3) : Sys2Proof.Laws.OperandBound.Statement (Instr.collectorSelfFault x0) := fun _ => Nat.zero_le _
theorem Sys2Proof.Laws.OperandBound.imageCheckEnd (x0 : CopyIn) (x1 : CopyIn) : Sys2Proof.Laws.OperandBound.Statement (Instr.imageCheckEnd x0 x1) := by
  intro h
  simp [Instr.wellFormed, Instr.items] at *
  omega
theorem Sys2Proof.Laws.OperandBound.builtInTestEnd (x0 : BistIn) : Sys2Proof.Laws.OperandBound.Statement (Instr.builtInTestEnd x0) := by
  intro h
  simp [Instr.wellFormed, Instr.items, bistOk, listBound] at *
  omega
theorem Sys2Proof.Laws.OperandBound.coldStartEnd : Sys2Proof.Laws.OperandBound.Statement (Instr.coldStartEnd) := fun _ => Nat.zero_le _
theorem Sys2Proof.Laws.OperandBound.mbBusStuck (x0 : Bus) : Sys2Proof.Laws.OperandBound.Statement (Instr.mbBusStuck x0) := fun _ => Nat.zero_le _
theorem Sys2Proof.Laws.OperandBound.mbBusFail (x0 : Bus) : Sys2Proof.Laws.OperandBound.Statement (Instr.mbBusFail x0) := fun _ => Nat.zero_le _
theorem Sys2Proof.Laws.OperandBound.mbBusReturn (x0 : Bus) : Sys2Proof.Laws.OperandBound.Statement (Instr.mbBusReturn x0) := fun _ => Nat.zero_le _
theorem Sys2Proof.Laws.OperandBound.i3cAddressAssign (x0 : Bus) (x1 : BitVec 7) : Sys2Proof.Laws.OperandBound.Statement (Instr.i3cAddressAssign x0 x1) := fun _ => Nat.zero_le _
theorem Sys2Proof.Laws.OperandBound.standbyPowerGood : Sys2Proof.Laws.OperandBound.Statement (Instr.standbyPowerGood) := fun _ => Nat.zero_le _
theorem Sys2Proof.Laws.OperandBound.deviceWindowResponse (x0 : LC) : Sys2Proof.Laws.OperandBound.Statement (Instr.deviceWindowResponse x0) := fun _ => Nat.zero_le _
theorem Sys2Proof.Laws.OperandBound.illegalInstruction (x0 : LC) (x1 : Size) : Sys2Proof.Laws.OperandBound.Statement (Instr.illegalInstruction x0 x1) := fun _ => Nat.zero_le _
theorem Sys2Proof.Laws.OperandBound.instructionFetchFault (x0 : LC) (x1 : Bool) : Sys2Proof.Laws.OperandBound.Statement (Instr.instructionFetchFault x0 x1) := fun _ => Nat.zero_le _
end

