-- ==== Sys2Proof/Laws/State.lean ====
section
/-! SUPPORT. What each table update leaves of the state, field by field, so that no proof unfolds a record update. -/

namespace Sys2Proof.Machine

set_option Elab.async false

/-! ## modLCore -/

@[simp] theorem modLCore_ident (s : State) (c : Nat) (f : LCore → LCore) : (modLCore s c f).ident = s.ident := rfl
@[simp] theorem modLCore_pins (s : State) (c : Nat) (f : LCore → LCore) : (modLCore s c f).pins = s.pins := rfl
@[simp] theorem modLCore_time (s : State) (c : Nat) (f : LCore → LCore) : (modLCore s c f).time = s.time := rfl
@[simp] theorem modLCore_mode (s : State) (c : Nat) (f : LCore → LCore) : (modLCore s c f).mode = s.mode := rfl
@[simp] theorem modLCore_power (s : State) (c : Nat) (f : LCore → LCore) : (modLCore s c f).power = s.power := rfl
@[simp] theorem modLCore_lcores (s : State) (c : Nat) (f : LCore → LCore) : (modLCore s c f).lcores = tmod {} s.lcores c f := rfl
@[simp] theorem modLCore_trios (s : State) (c : Nat) (f : LCore → LCore) : (modLCore s c f).trios = s.trios := rfl
@[simp] theorem modLCore_cores (s : State) (c : Nat) (f : LCore → LCore) : (modLCore s c f).cores = s.cores := rfl
@[simp] theorem modLCore_clocks (s : State) (c : Nat) (f : LCore → LCore) : (modLCore s c f).clocks = s.clocks := rfl
@[simp] theorem modLCore_coh (s : State) (c : Nat) (f : LCore → LCore) : (modLCore s c f).coh = s.coh := rfl
@[simp] theorem modLCore_mem (s : State) (c : Nat) (f : LCore → LCore) : (modLCore s c f).mem = s.mem := rfl
@[simp] theorem modLCore_stackTab (s : State) (c : Nat) (f : LCore → LCore) : (modLCore s c f).stackTab = s.stackTab := rfl
@[simp] theorem modLCore_cxl (s : State) (c : Nat) (f : LCore → LCore) : (modLCore s c f).cxl = s.cxl := rfl
@[simp] theorem modLCore_net (s : State) (c : Nat) (f : LCore → LCore) : (modLCore s c f).net = s.net := rfl
@[simp] theorem modLCore_chans (s : State) (c : Nat) (f : LCore → LCore) : (modLCore s c f).chans = s.chans := rfl
@[simp] theorem modLCore_groups (s : State) (c : Nat) (f : LCore → LCore) : (modLCore s c f).groups = s.groups := rfl
@[simp] theorem modLCore_rings (s : State) (c : Nat) (f : LCore → LCore) : (modLCore s c f).rings = s.rings := rfl
@[simp] theorem modLCore_exchs (s : State) (c : Nat) (f : LCore → LCore) : (modLCore s c f).exchs = s.exchs := rfl
@[simp] theorem modLCore_parts (s : State) (c : Nat) (f : LCore → LCore) : (modLCore s c f).parts = s.parts := rfl
@[simp] theorem modLCore_slices (s : State) (c : Nat) (f : LCore → LCore) : (modLCore s c f).slices = s.slices := rfl
@[simp] theorem modLCore_lastGen (s : State) (c : Nat) (f : LCore → LCore) : (modLCore s c f).lastGen = s.lastGen := rfl
@[simp] theorem modLCore_leaves (s : State) (c : Nat) (f : LCore → LCore) : (modLCore s c f).leaves = s.leaves := rfl
@[simp] theorem modLCore_invSlots (s : State) (c : Nat) (f : LCore → LCore) : (modLCore s c f).invSlots = s.invSlots := rfl
@[simp] theorem modLCore_engs (s : State) (c : Nat) (f : LCore → LCore) : (modLCore s c f).engs = s.engs := rfl
@[simp] theorem modLCore_eqs (s : State) (c : Nat) (f : LCore → LCore) : (modLCore s c f).eqs = s.eqs := rfl
@[simp] theorem modLCore_jobs (s : State) (c : Nat) (f : LCore → LCore) : (modLCore s c f).jobs = s.jobs := rfl
@[simp] theorem modLCore_husks (s : State) (c : Nat) (f : LCore → LCore) : (modLCore s c f).husks = s.husks := rfl
@[simp] theorem modLCore_events (s : State) (c : Nat) (f : LCore → LCore) : (modLCore s c f).events = s.events := rfl
@[simp] theorem modLCore_faults (s : State) (c : Nat) (f : LCore → LCore) : (modLCore s c f).faults = s.faults := rfl
@[simp] theorem modLCore_boot (s : State) (c : Nat) (f : LCore → LCore) : (modLCore s c f).boot = s.boot := rfl
@[simp] theorem modLCore_shadow (s : State) (c : Nat) (f : LCore → LCore) : (modLCore s c f).shadow = s.shadow := rfl
@[simp] theorem modLCore_stagedShadow (s : State) (c : Nat) (f : LCore → LCore) : (modLCore s c f).stagedShadow = s.stagedShadow := rfl
@[simp] theorem modLCore_readOut (s : State) (c : Nat) (f : LCore → LCore) : (modLCore s c f).readOut = s.readOut := rfl
@[simp] theorem modLCore_accepts (s : State) (c : Nat) (f : LCore → LCore) : (modLCore s c f).accepts = s.accepts := rfl
@[simp] theorem modLCore_free (s : State) (c : Nat) (f : LCore → LCore) : (modLCore s c f).free = s.free := rfl
@[simp] theorem modLCore_pending (s : State) (c : Nat) (f : LCore → LCore) : (modLCore s c f).pending = s.pending := rfl

/-! ## modTrio -/

@[simp] theorem modTrio_ident (s : State) (n : Nat) (f : Trio → Trio) : (modTrio s n f).ident = s.ident := rfl
@[simp] theorem modTrio_pins (s : State) (n : Nat) (f : Trio → Trio) : (modTrio s n f).pins = s.pins := rfl
@[simp] theorem modTrio_time (s : State) (n : Nat) (f : Trio → Trio) : (modTrio s n f).time = s.time := rfl
@[simp] theorem modTrio_mode (s : State) (n : Nat) (f : Trio → Trio) : (modTrio s n f).mode = s.mode := rfl
@[simp] theorem modTrio_power (s : State) (n : Nat) (f : Trio → Trio) : (modTrio s n f).power = s.power := rfl
@[simp] theorem modTrio_lcores (s : State) (n : Nat) (f : Trio → Trio) : (modTrio s n f).lcores = s.lcores := rfl
@[simp] theorem modTrio_trios (s : State) (n : Nat) (f : Trio → Trio) : (modTrio s n f).trios = tmod {} s.trios n f := rfl
@[simp] theorem modTrio_cores (s : State) (n : Nat) (f : Trio → Trio) : (modTrio s n f).cores = s.cores := rfl
@[simp] theorem modTrio_clocks (s : State) (n : Nat) (f : Trio → Trio) : (modTrio s n f).clocks = s.clocks := rfl
@[simp] theorem modTrio_coh (s : State) (n : Nat) (f : Trio → Trio) : (modTrio s n f).coh = s.coh := rfl
@[simp] theorem modTrio_mem (s : State) (n : Nat) (f : Trio → Trio) : (modTrio s n f).mem = s.mem := rfl
@[simp] theorem modTrio_stackTab (s : State) (n : Nat) (f : Trio → Trio) : (modTrio s n f).stackTab = s.stackTab := rfl
@[simp] theorem modTrio_cxl (s : State) (n : Nat) (f : Trio → Trio) : (modTrio s n f).cxl = s.cxl := rfl
@[simp] theorem modTrio_net (s : State) (n : Nat) (f : Trio → Trio) : (modTrio s n f).net = s.net := rfl
@[simp] theorem modTrio_chans (s : State) (n : Nat) (f : Trio → Trio) : (modTrio s n f).chans = s.chans := rfl
@[simp] theorem modTrio_groups (s : State) (n : Nat) (f : Trio → Trio) : (modTrio s n f).groups = s.groups := rfl
@[simp] theorem modTrio_rings (s : State) (n : Nat) (f : Trio → Trio) : (modTrio s n f).rings = s.rings := rfl
@[simp] theorem modTrio_exchs (s : State) (n : Nat) (f : Trio → Trio) : (modTrio s n f).exchs = s.exchs := rfl
@[simp] theorem modTrio_parts (s : State) (n : Nat) (f : Trio → Trio) : (modTrio s n f).parts = s.parts := rfl
@[simp] theorem modTrio_slices (s : State) (n : Nat) (f : Trio → Trio) : (modTrio s n f).slices = s.slices := rfl
@[simp] theorem modTrio_lastGen (s : State) (n : Nat) (f : Trio → Trio) : (modTrio s n f).lastGen = s.lastGen := rfl
@[simp] theorem modTrio_leaves (s : State) (n : Nat) (f : Trio → Trio) : (modTrio s n f).leaves = s.leaves := rfl
@[simp] theorem modTrio_invSlots (s : State) (n : Nat) (f : Trio → Trio) : (modTrio s n f).invSlots = s.invSlots := rfl
@[simp] theorem modTrio_engs (s : State) (n : Nat) (f : Trio → Trio) : (modTrio s n f).engs = s.engs := rfl
@[simp] theorem modTrio_eqs (s : State) (n : Nat) (f : Trio → Trio) : (modTrio s n f).eqs = s.eqs := rfl
@[simp] theorem modTrio_jobs (s : State) (n : Nat) (f : Trio → Trio) : (modTrio s n f).jobs = s.jobs := rfl
@[simp] theorem modTrio_husks (s : State) (n : Nat) (f : Trio → Trio) : (modTrio s n f).husks = s.husks := rfl
@[simp] theorem modTrio_events (s : State) (n : Nat) (f : Trio → Trio) : (modTrio s n f).events = s.events := rfl
@[simp] theorem modTrio_faults (s : State) (n : Nat) (f : Trio → Trio) : (modTrio s n f).faults = s.faults := rfl
@[simp] theorem modTrio_boot (s : State) (n : Nat) (f : Trio → Trio) : (modTrio s n f).boot = s.boot := rfl
@[simp] theorem modTrio_shadow (s : State) (n : Nat) (f : Trio → Trio) : (modTrio s n f).shadow = s.shadow := rfl
@[simp] theorem modTrio_stagedShadow (s : State) (n : Nat) (f : Trio → Trio) : (modTrio s n f).stagedShadow = s.stagedShadow := rfl
@[simp] theorem modTrio_readOut (s : State) (n : Nat) (f : Trio → Trio) : (modTrio s n f).readOut = s.readOut := rfl
@[simp] theorem modTrio_accepts (s : State) (n : Nat) (f : Trio → Trio) : (modTrio s n f).accepts = s.accepts := rfl
@[simp] theorem modTrio_free (s : State) (n : Nat) (f : Trio → Trio) : (modTrio s n f).free = s.free := rfl
@[simp] theorem modTrio_pending (s : State) (n : Nat) (f : Trio → Trio) : (modTrio s n f).pending = s.pending := rfl

/-! ## modChan -/

@[simp] theorem modChan_ident (s : State) (n : Nat) (f : Chan → Chan) : (modChan s n f).ident = s.ident := rfl
@[simp] theorem modChan_pins (s : State) (n : Nat) (f : Chan → Chan) : (modChan s n f).pins = s.pins := rfl
@[simp] theorem modChan_time (s : State) (n : Nat) (f : Chan → Chan) : (modChan s n f).time = s.time := rfl
@[simp] theorem modChan_mode (s : State) (n : Nat) (f : Chan → Chan) : (modChan s n f).mode = s.mode := rfl
@[simp] theorem modChan_power (s : State) (n : Nat) (f : Chan → Chan) : (modChan s n f).power = s.power := rfl
@[simp] theorem modChan_lcores (s : State) (n : Nat) (f : Chan → Chan) : (modChan s n f).lcores = s.lcores := rfl
@[simp] theorem modChan_trios (s : State) (n : Nat) (f : Chan → Chan) : (modChan s n f).trios = s.trios := rfl
@[simp] theorem modChan_cores (s : State) (n : Nat) (f : Chan → Chan) : (modChan s n f).cores = s.cores := rfl
@[simp] theorem modChan_clocks (s : State) (n : Nat) (f : Chan → Chan) : (modChan s n f).clocks = s.clocks := rfl
@[simp] theorem modChan_coh (s : State) (n : Nat) (f : Chan → Chan) : (modChan s n f).coh = s.coh := rfl
@[simp] theorem modChan_mem (s : State) (n : Nat) (f : Chan → Chan) : (modChan s n f).mem = s.mem := rfl
@[simp] theorem modChan_stackTab (s : State) (n : Nat) (f : Chan → Chan) : (modChan s n f).stackTab = s.stackTab := rfl
@[simp] theorem modChan_cxl (s : State) (n : Nat) (f : Chan → Chan) : (modChan s n f).cxl = s.cxl := rfl
@[simp] theorem modChan_net (s : State) (n : Nat) (f : Chan → Chan) : (modChan s n f).net = s.net := rfl
@[simp] theorem modChan_chans (s : State) (n : Nat) (f : Chan → Chan) : (modChan s n f).chans = tmod {} s.chans n f := rfl
@[simp] theorem modChan_groups (s : State) (n : Nat) (f : Chan → Chan) : (modChan s n f).groups = s.groups := rfl
@[simp] theorem modChan_rings (s : State) (n : Nat) (f : Chan → Chan) : (modChan s n f).rings = s.rings := rfl
@[simp] theorem modChan_exchs (s : State) (n : Nat) (f : Chan → Chan) : (modChan s n f).exchs = s.exchs := rfl
@[simp] theorem modChan_parts (s : State) (n : Nat) (f : Chan → Chan) : (modChan s n f).parts = s.parts := rfl
@[simp] theorem modChan_slices (s : State) (n : Nat) (f : Chan → Chan) : (modChan s n f).slices = s.slices := rfl
@[simp] theorem modChan_lastGen (s : State) (n : Nat) (f : Chan → Chan) : (modChan s n f).lastGen = s.lastGen := rfl
@[simp] theorem modChan_leaves (s : State) (n : Nat) (f : Chan → Chan) : (modChan s n f).leaves = s.leaves := rfl
@[simp] theorem modChan_invSlots (s : State) (n : Nat) (f : Chan → Chan) : (modChan s n f).invSlots = s.invSlots := rfl
@[simp] theorem modChan_engs (s : State) (n : Nat) (f : Chan → Chan) : (modChan s n f).engs = s.engs := rfl
@[simp] theorem modChan_eqs (s : State) (n : Nat) (f : Chan → Chan) : (modChan s n f).eqs = s.eqs := rfl
@[simp] theorem modChan_jobs (s : State) (n : Nat) (f : Chan → Chan) : (modChan s n f).jobs = s.jobs := rfl
@[simp] theorem modChan_husks (s : State) (n : Nat) (f : Chan → Chan) : (modChan s n f).husks = s.husks := rfl
@[simp] theorem modChan_events (s : State) (n : Nat) (f : Chan → Chan) : (modChan s n f).events = s.events := rfl
@[simp] theorem modChan_faults (s : State) (n : Nat) (f : Chan → Chan) : (modChan s n f).faults = s.faults := rfl
@[simp] theorem modChan_boot (s : State) (n : Nat) (f : Chan → Chan) : (modChan s n f).boot = s.boot := rfl
@[simp] theorem modChan_shadow (s : State) (n : Nat) (f : Chan → Chan) : (modChan s n f).shadow = s.shadow := rfl
@[simp] theorem modChan_stagedShadow (s : State) (n : Nat) (f : Chan → Chan) : (modChan s n f).stagedShadow = s.stagedShadow := rfl
@[simp] theorem modChan_readOut (s : State) (n : Nat) (f : Chan → Chan) : (modChan s n f).readOut = s.readOut := rfl
@[simp] theorem modChan_accepts (s : State) (n : Nat) (f : Chan → Chan) : (modChan s n f).accepts = s.accepts := rfl
@[simp] theorem modChan_free (s : State) (n : Nat) (f : Chan → Chan) : (modChan s n f).free = s.free := rfl
@[simp] theorem modChan_pending (s : State) (n : Nat) (f : Chan → Chan) : (modChan s n f).pending = s.pending := rfl

/-! ## modGroup -/

@[simp] theorem modGroup_ident (s : State) (g : Nat) (f : Group → Group) : (modGroup s g f).ident = s.ident := rfl
@[simp] theorem modGroup_pins (s : State) (g : Nat) (f : Group → Group) : (modGroup s g f).pins = s.pins := rfl
@[simp] theorem modGroup_time (s : State) (g : Nat) (f : Group → Group) : (modGroup s g f).time = s.time := rfl
@[simp] theorem modGroup_mode (s : State) (g : Nat) (f : Group → Group) : (modGroup s g f).mode = s.mode := rfl
@[simp] theorem modGroup_power (s : State) (g : Nat) (f : Group → Group) : (modGroup s g f).power = s.power := rfl
@[simp] theorem modGroup_lcores (s : State) (g : Nat) (f : Group → Group) : (modGroup s g f).lcores = s.lcores := rfl
@[simp] theorem modGroup_trios (s : State) (g : Nat) (f : Group → Group) : (modGroup s g f).trios = s.trios := rfl
@[simp] theorem modGroup_cores (s : State) (g : Nat) (f : Group → Group) : (modGroup s g f).cores = s.cores := rfl
@[simp] theorem modGroup_clocks (s : State) (g : Nat) (f : Group → Group) : (modGroup s g f).clocks = s.clocks := rfl
@[simp] theorem modGroup_coh (s : State) (g : Nat) (f : Group → Group) : (modGroup s g f).coh = s.coh := rfl
@[simp] theorem modGroup_mem (s : State) (g : Nat) (f : Group → Group) : (modGroup s g f).mem = s.mem := rfl
@[simp] theorem modGroup_stackTab (s : State) (g : Nat) (f : Group → Group) : (modGroup s g f).stackTab = s.stackTab := rfl
@[simp] theorem modGroup_cxl (s : State) (g : Nat) (f : Group → Group) : (modGroup s g f).cxl = s.cxl := rfl
@[simp] theorem modGroup_net (s : State) (g : Nat) (f : Group → Group) : (modGroup s g f).net = s.net := rfl
@[simp] theorem modGroup_chans (s : State) (g : Nat) (f : Group → Group) : (modGroup s g f).chans = s.chans := rfl
@[simp] theorem modGroup_groups (s : State) (g : Nat) (f : Group → Group) : (modGroup s g f).groups = tmod {} s.groups g f := rfl
@[simp] theorem modGroup_rings (s : State) (g : Nat) (f : Group → Group) : (modGroup s g f).rings = s.rings := rfl
@[simp] theorem modGroup_exchs (s : State) (g : Nat) (f : Group → Group) : (modGroup s g f).exchs = s.exchs := rfl
@[simp] theorem modGroup_parts (s : State) (g : Nat) (f : Group → Group) : (modGroup s g f).parts = s.parts := rfl
@[simp] theorem modGroup_slices (s : State) (g : Nat) (f : Group → Group) : (modGroup s g f).slices = s.slices := rfl
@[simp] theorem modGroup_lastGen (s : State) (g : Nat) (f : Group → Group) : (modGroup s g f).lastGen = s.lastGen := rfl
@[simp] theorem modGroup_leaves (s : State) (g : Nat) (f : Group → Group) : (modGroup s g f).leaves = s.leaves := rfl
@[simp] theorem modGroup_invSlots (s : State) (g : Nat) (f : Group → Group) : (modGroup s g f).invSlots = s.invSlots := rfl
@[simp] theorem modGroup_engs (s : State) (g : Nat) (f : Group → Group) : (modGroup s g f).engs = s.engs := rfl
@[simp] theorem modGroup_eqs (s : State) (g : Nat) (f : Group → Group) : (modGroup s g f).eqs = s.eqs := rfl
@[simp] theorem modGroup_jobs (s : State) (g : Nat) (f : Group → Group) : (modGroup s g f).jobs = s.jobs := rfl
@[simp] theorem modGroup_husks (s : State) (g : Nat) (f : Group → Group) : (modGroup s g f).husks = s.husks := rfl
@[simp] theorem modGroup_events (s : State) (g : Nat) (f : Group → Group) : (modGroup s g f).events = s.events := rfl
@[simp] theorem modGroup_faults (s : State) (g : Nat) (f : Group → Group) : (modGroup s g f).faults = s.faults := rfl
@[simp] theorem modGroup_boot (s : State) (g : Nat) (f : Group → Group) : (modGroup s g f).boot = s.boot := rfl
@[simp] theorem modGroup_shadow (s : State) (g : Nat) (f : Group → Group) : (modGroup s g f).shadow = s.shadow := rfl
@[simp] theorem modGroup_stagedShadow (s : State) (g : Nat) (f : Group → Group) : (modGroup s g f).stagedShadow = s.stagedShadow := rfl
@[simp] theorem modGroup_readOut (s : State) (g : Nat) (f : Group → Group) : (modGroup s g f).readOut = s.readOut := rfl
@[simp] theorem modGroup_accepts (s : State) (g : Nat) (f : Group → Group) : (modGroup s g f).accepts = s.accepts := rfl
@[simp] theorem modGroup_free (s : State) (g : Nat) (f : Group → Group) : (modGroup s g f).free = s.free := rfl
@[simp] theorem modGroup_pending (s : State) (g : Nat) (f : Group → Group) : (modGroup s g f).pending = s.pending := rfl

/-! ## modPart -/

@[simp] theorem modPart_ident (s : State) (p : Nat) (f : PartE → PartE) : (modPart s p f).ident = s.ident := rfl
@[simp] theorem modPart_pins (s : State) (p : Nat) (f : PartE → PartE) : (modPart s p f).pins = s.pins := rfl
@[simp] theorem modPart_time (s : State) (p : Nat) (f : PartE → PartE) : (modPart s p f).time = s.time := rfl
@[simp] theorem modPart_mode (s : State) (p : Nat) (f : PartE → PartE) : (modPart s p f).mode = s.mode := rfl
@[simp] theorem modPart_power (s : State) (p : Nat) (f : PartE → PartE) : (modPart s p f).power = s.power := rfl
@[simp] theorem modPart_lcores (s : State) (p : Nat) (f : PartE → PartE) : (modPart s p f).lcores = s.lcores := rfl
@[simp] theorem modPart_trios (s : State) (p : Nat) (f : PartE → PartE) : (modPart s p f).trios = s.trios := rfl
@[simp] theorem modPart_cores (s : State) (p : Nat) (f : PartE → PartE) : (modPart s p f).cores = s.cores := rfl
@[simp] theorem modPart_clocks (s : State) (p : Nat) (f : PartE → PartE) : (modPart s p f).clocks = s.clocks := rfl
@[simp] theorem modPart_coh (s : State) (p : Nat) (f : PartE → PartE) : (modPart s p f).coh = s.coh := rfl
@[simp] theorem modPart_mem (s : State) (p : Nat) (f : PartE → PartE) : (modPart s p f).mem = s.mem := rfl
@[simp] theorem modPart_stackTab (s : State) (p : Nat) (f : PartE → PartE) : (modPart s p f).stackTab = s.stackTab := rfl
@[simp] theorem modPart_cxl (s : State) (p : Nat) (f : PartE → PartE) : (modPart s p f).cxl = s.cxl := rfl
@[simp] theorem modPart_net (s : State) (p : Nat) (f : PartE → PartE) : (modPart s p f).net = s.net := rfl
@[simp] theorem modPart_chans (s : State) (p : Nat) (f : PartE → PartE) : (modPart s p f).chans = s.chans := rfl
@[simp] theorem modPart_groups (s : State) (p : Nat) (f : PartE → PartE) : (modPart s p f).groups = s.groups := rfl
@[simp] theorem modPart_rings (s : State) (p : Nat) (f : PartE → PartE) : (modPart s p f).rings = s.rings := rfl
@[simp] theorem modPart_exchs (s : State) (p : Nat) (f : PartE → PartE) : (modPart s p f).exchs = s.exchs := rfl
@[simp] theorem modPart_parts (s : State) (p : Nat) (f : PartE → PartE) : (modPart s p f).parts = tmod {} s.parts p f := rfl
@[simp] theorem modPart_slices (s : State) (p : Nat) (f : PartE → PartE) : (modPart s p f).slices = s.slices := rfl
@[simp] theorem modPart_lastGen (s : State) (p : Nat) (f : PartE → PartE) : (modPart s p f).lastGen = s.lastGen := rfl
@[simp] theorem modPart_leaves (s : State) (p : Nat) (f : PartE → PartE) : (modPart s p f).leaves = s.leaves := rfl
@[simp] theorem modPart_invSlots (s : State) (p : Nat) (f : PartE → PartE) : (modPart s p f).invSlots = s.invSlots := rfl
@[simp] theorem modPart_engs (s : State) (p : Nat) (f : PartE → PartE) : (modPart s p f).engs = s.engs := rfl
@[simp] theorem modPart_eqs (s : State) (p : Nat) (f : PartE → PartE) : (modPart s p f).eqs = s.eqs := rfl
@[simp] theorem modPart_jobs (s : State) (p : Nat) (f : PartE → PartE) : (modPart s p f).jobs = s.jobs := rfl
@[simp] theorem modPart_husks (s : State) (p : Nat) (f : PartE → PartE) : (modPart s p f).husks = s.husks := rfl
@[simp] theorem modPart_events (s : State) (p : Nat) (f : PartE → PartE) : (modPart s p f).events = s.events := rfl
@[simp] theorem modPart_faults (s : State) (p : Nat) (f : PartE → PartE) : (modPart s p f).faults = s.faults := rfl
@[simp] theorem modPart_boot (s : State) (p : Nat) (f : PartE → PartE) : (modPart s p f).boot = s.boot := rfl
@[simp] theorem modPart_shadow (s : State) (p : Nat) (f : PartE → PartE) : (modPart s p f).shadow = s.shadow := rfl
@[simp] theorem modPart_stagedShadow (s : State) (p : Nat) (f : PartE → PartE) : (modPart s p f).stagedShadow = s.stagedShadow := rfl
@[simp] theorem modPart_readOut (s : State) (p : Nat) (f : PartE → PartE) : (modPart s p f).readOut = s.readOut := rfl
@[simp] theorem modPart_accepts (s : State) (p : Nat) (f : PartE → PartE) : (modPart s p f).accepts = s.accepts := rfl
@[simp] theorem modPart_free (s : State) (p : Nat) (f : PartE → PartE) : (modPart s p f).free = s.free := rfl
@[simp] theorem modPart_pending (s : State) (p : Nat) (f : PartE → PartE) : (modPart s p f).pending = s.pending := rfl

/-! ## modSlice -/

@[simp] theorem modSlice_ident (s : State) (n : Nat) (f : SliceE → SliceE) : (modSlice s n f).ident = s.ident := rfl
@[simp] theorem modSlice_pins (s : State) (n : Nat) (f : SliceE → SliceE) : (modSlice s n f).pins = s.pins := rfl
@[simp] theorem modSlice_time (s : State) (n : Nat) (f : SliceE → SliceE) : (modSlice s n f).time = s.time := rfl
@[simp] theorem modSlice_mode (s : State) (n : Nat) (f : SliceE → SliceE) : (modSlice s n f).mode = s.mode := rfl
@[simp] theorem modSlice_power (s : State) (n : Nat) (f : SliceE → SliceE) : (modSlice s n f).power = s.power := rfl
@[simp] theorem modSlice_lcores (s : State) (n : Nat) (f : SliceE → SliceE) : (modSlice s n f).lcores = s.lcores := rfl
@[simp] theorem modSlice_trios (s : State) (n : Nat) (f : SliceE → SliceE) : (modSlice s n f).trios = s.trios := rfl
@[simp] theorem modSlice_cores (s : State) (n : Nat) (f : SliceE → SliceE) : (modSlice s n f).cores = s.cores := rfl
@[simp] theorem modSlice_clocks (s : State) (n : Nat) (f : SliceE → SliceE) : (modSlice s n f).clocks = s.clocks := rfl
@[simp] theorem modSlice_coh (s : State) (n : Nat) (f : SliceE → SliceE) : (modSlice s n f).coh = s.coh := rfl
@[simp] theorem modSlice_mem (s : State) (n : Nat) (f : SliceE → SliceE) : (modSlice s n f).mem = s.mem := rfl
@[simp] theorem modSlice_stackTab (s : State) (n : Nat) (f : SliceE → SliceE) : (modSlice s n f).stackTab = s.stackTab := rfl
@[simp] theorem modSlice_cxl (s : State) (n : Nat) (f : SliceE → SliceE) : (modSlice s n f).cxl = s.cxl := rfl
@[simp] theorem modSlice_net (s : State) (n : Nat) (f : SliceE → SliceE) : (modSlice s n f).net = s.net := rfl
@[simp] theorem modSlice_chans (s : State) (n : Nat) (f : SliceE → SliceE) : (modSlice s n f).chans = s.chans := rfl
@[simp] theorem modSlice_groups (s : State) (n : Nat) (f : SliceE → SliceE) : (modSlice s n f).groups = s.groups := rfl
@[simp] theorem modSlice_rings (s : State) (n : Nat) (f : SliceE → SliceE) : (modSlice s n f).rings = s.rings := rfl
@[simp] theorem modSlice_exchs (s : State) (n : Nat) (f : SliceE → SliceE) : (modSlice s n f).exchs = s.exchs := rfl
@[simp] theorem modSlice_parts (s : State) (n : Nat) (f : SliceE → SliceE) : (modSlice s n f).parts = s.parts := rfl
@[simp] theorem modSlice_slices (s : State) (n : Nat) (f : SliceE → SliceE) : (modSlice s n f).slices = tmod {} s.slices n f := rfl
@[simp] theorem modSlice_lastGen (s : State) (n : Nat) (f : SliceE → SliceE) : (modSlice s n f).lastGen = s.lastGen := rfl
@[simp] theorem modSlice_leaves (s : State) (n : Nat) (f : SliceE → SliceE) : (modSlice s n f).leaves = s.leaves := rfl
@[simp] theorem modSlice_invSlots (s : State) (n : Nat) (f : SliceE → SliceE) : (modSlice s n f).invSlots = s.invSlots := rfl
@[simp] theorem modSlice_engs (s : State) (n : Nat) (f : SliceE → SliceE) : (modSlice s n f).engs = s.engs := rfl
@[simp] theorem modSlice_eqs (s : State) (n : Nat) (f : SliceE → SliceE) : (modSlice s n f).eqs = s.eqs := rfl
@[simp] theorem modSlice_jobs (s : State) (n : Nat) (f : SliceE → SliceE) : (modSlice s n f).jobs = s.jobs := rfl
@[simp] theorem modSlice_husks (s : State) (n : Nat) (f : SliceE → SliceE) : (modSlice s n f).husks = s.husks := rfl
@[simp] theorem modSlice_events (s : State) (n : Nat) (f : SliceE → SliceE) : (modSlice s n f).events = s.events := rfl
@[simp] theorem modSlice_faults (s : State) (n : Nat) (f : SliceE → SliceE) : (modSlice s n f).faults = s.faults := rfl
@[simp] theorem modSlice_boot (s : State) (n : Nat) (f : SliceE → SliceE) : (modSlice s n f).boot = s.boot := rfl
@[simp] theorem modSlice_shadow (s : State) (n : Nat) (f : SliceE → SliceE) : (modSlice s n f).shadow = s.shadow := rfl
@[simp] theorem modSlice_stagedShadow (s : State) (n : Nat) (f : SliceE → SliceE) : (modSlice s n f).stagedShadow = s.stagedShadow := rfl
@[simp] theorem modSlice_readOut (s : State) (n : Nat) (f : SliceE → SliceE) : (modSlice s n f).readOut = s.readOut := rfl
@[simp] theorem modSlice_accepts (s : State) (n : Nat) (f : SliceE → SliceE) : (modSlice s n f).accepts = s.accepts := rfl
@[simp] theorem modSlice_free (s : State) (n : Nat) (f : SliceE → SliceE) : (modSlice s n f).free = s.free := rfl
@[simp] theorem modSlice_pending (s : State) (n : Nat) (f : SliceE → SliceE) : (modSlice s n f).pending = s.pending := rfl

/-! ## modRing -/

@[simp] theorem modRing_ident (s : State) (k : Nat) (f : Ring → Ring) : (modRing s k f).ident = s.ident := rfl
@[simp] theorem modRing_pins (s : State) (k : Nat) (f : Ring → Ring) : (modRing s k f).pins = s.pins := rfl
@[simp] theorem modRing_time (s : State) (k : Nat) (f : Ring → Ring) : (modRing s k f).time = s.time := rfl
@[simp] theorem modRing_mode (s : State) (k : Nat) (f : Ring → Ring) : (modRing s k f).mode = s.mode := rfl
@[simp] theorem modRing_power (s : State) (k : Nat) (f : Ring → Ring) : (modRing s k f).power = s.power := rfl
@[simp] theorem modRing_lcores (s : State) (k : Nat) (f : Ring → Ring) : (modRing s k f).lcores = s.lcores := rfl
@[simp] theorem modRing_trios (s : State) (k : Nat) (f : Ring → Ring) : (modRing s k f).trios = s.trios := rfl
@[simp] theorem modRing_cores (s : State) (k : Nat) (f : Ring → Ring) : (modRing s k f).cores = s.cores := rfl
@[simp] theorem modRing_clocks (s : State) (k : Nat) (f : Ring → Ring) : (modRing s k f).clocks = s.clocks := rfl
@[simp] theorem modRing_coh (s : State) (k : Nat) (f : Ring → Ring) : (modRing s k f).coh = s.coh := rfl
@[simp] theorem modRing_mem (s : State) (k : Nat) (f : Ring → Ring) : (modRing s k f).mem = s.mem := rfl
@[simp] theorem modRing_stackTab (s : State) (k : Nat) (f : Ring → Ring) : (modRing s k f).stackTab = s.stackTab := rfl
@[simp] theorem modRing_cxl (s : State) (k : Nat) (f : Ring → Ring) : (modRing s k f).cxl = s.cxl := rfl
@[simp] theorem modRing_net (s : State) (k : Nat) (f : Ring → Ring) : (modRing s k f).net = s.net := rfl
@[simp] theorem modRing_chans (s : State) (k : Nat) (f : Ring → Ring) : (modRing s k f).chans = s.chans := rfl
@[simp] theorem modRing_groups (s : State) (k : Nat) (f : Ring → Ring) : (modRing s k f).groups = s.groups := rfl
@[simp] theorem modRing_rings (s : State) (k : Nat) (f : Ring → Ring) : (modRing s k f).rings = tmod {} s.rings k f := rfl
@[simp] theorem modRing_exchs (s : State) (k : Nat) (f : Ring → Ring) : (modRing s k f).exchs = s.exchs := rfl
@[simp] theorem modRing_parts (s : State) (k : Nat) (f : Ring → Ring) : (modRing s k f).parts = s.parts := rfl
@[simp] theorem modRing_slices (s : State) (k : Nat) (f : Ring → Ring) : (modRing s k f).slices = s.slices := rfl
@[simp] theorem modRing_lastGen (s : State) (k : Nat) (f : Ring → Ring) : (modRing s k f).lastGen = s.lastGen := rfl
@[simp] theorem modRing_leaves (s : State) (k : Nat) (f : Ring → Ring) : (modRing s k f).leaves = s.leaves := rfl
@[simp] theorem modRing_invSlots (s : State) (k : Nat) (f : Ring → Ring) : (modRing s k f).invSlots = s.invSlots := rfl
@[simp] theorem modRing_engs (s : State) (k : Nat) (f : Ring → Ring) : (modRing s k f).engs = s.engs := rfl
@[simp] theorem modRing_eqs (s : State) (k : Nat) (f : Ring → Ring) : (modRing s k f).eqs = s.eqs := rfl
@[simp] theorem modRing_jobs (s : State) (k : Nat) (f : Ring → Ring) : (modRing s k f).jobs = s.jobs := rfl
@[simp] theorem modRing_husks (s : State) (k : Nat) (f : Ring → Ring) : (modRing s k f).husks = s.husks := rfl
@[simp] theorem modRing_events (s : State) (k : Nat) (f : Ring → Ring) : (modRing s k f).events = s.events := rfl
@[simp] theorem modRing_faults (s : State) (k : Nat) (f : Ring → Ring) : (modRing s k f).faults = s.faults := rfl
@[simp] theorem modRing_boot (s : State) (k : Nat) (f : Ring → Ring) : (modRing s k f).boot = s.boot := rfl
@[simp] theorem modRing_shadow (s : State) (k : Nat) (f : Ring → Ring) : (modRing s k f).shadow = s.shadow := rfl
@[simp] theorem modRing_stagedShadow (s : State) (k : Nat) (f : Ring → Ring) : (modRing s k f).stagedShadow = s.stagedShadow := rfl
@[simp] theorem modRing_readOut (s : State) (k : Nat) (f : Ring → Ring) : (modRing s k f).readOut = s.readOut := rfl
@[simp] theorem modRing_accepts (s : State) (k : Nat) (f : Ring → Ring) : (modRing s k f).accepts = s.accepts := rfl
@[simp] theorem modRing_free (s : State) (k : Nat) (f : Ring → Ring) : (modRing s k f).free = s.free := rfl
@[simp] theorem modRing_pending (s : State) (k : Nat) (f : Ring → Ring) : (modRing s k f).pending = s.pending := rfl

/-! ## modEq -/

@[simp] theorem modEq_ident (s : State) (k : Nat) (f : EqQueue → EqQueue) : (modEq s k f).ident = s.ident := rfl
@[simp] theorem modEq_pins (s : State) (k : Nat) (f : EqQueue → EqQueue) : (modEq s k f).pins = s.pins := rfl
@[simp] theorem modEq_time (s : State) (k : Nat) (f : EqQueue → EqQueue) : (modEq s k f).time = s.time := rfl
@[simp] theorem modEq_mode (s : State) (k : Nat) (f : EqQueue → EqQueue) : (modEq s k f).mode = s.mode := rfl
@[simp] theorem modEq_power (s : State) (k : Nat) (f : EqQueue → EqQueue) : (modEq s k f).power = s.power := rfl
@[simp] theorem modEq_lcores (s : State) (k : Nat) (f : EqQueue → EqQueue) : (modEq s k f).lcores = s.lcores := rfl
@[simp] theorem modEq_trios (s : State) (k : Nat) (f : EqQueue → EqQueue) : (modEq s k f).trios = s.trios := rfl
@[simp] theorem modEq_cores (s : State) (k : Nat) (f : EqQueue → EqQueue) : (modEq s k f).cores = s.cores := rfl
@[simp] theorem modEq_clocks (s : State) (k : Nat) (f : EqQueue → EqQueue) : (modEq s k f).clocks = s.clocks := rfl
@[simp] theorem modEq_coh (s : State) (k : Nat) (f : EqQueue → EqQueue) : (modEq s k f).coh = s.coh := rfl
@[simp] theorem modEq_mem (s : State) (k : Nat) (f : EqQueue → EqQueue) : (modEq s k f).mem = s.mem := rfl
@[simp] theorem modEq_stackTab (s : State) (k : Nat) (f : EqQueue → EqQueue) : (modEq s k f).stackTab = s.stackTab := rfl
@[simp] theorem modEq_cxl (s : State) (k : Nat) (f : EqQueue → EqQueue) : (modEq s k f).cxl = s.cxl := rfl
@[simp] theorem modEq_net (s : State) (k : Nat) (f : EqQueue → EqQueue) : (modEq s k f).net = s.net := rfl
@[simp] theorem modEq_chans (s : State) (k : Nat) (f : EqQueue → EqQueue) : (modEq s k f).chans = s.chans := rfl
@[simp] theorem modEq_groups (s : State) (k : Nat) (f : EqQueue → EqQueue) : (modEq s k f).groups = s.groups := rfl
@[simp] theorem modEq_rings (s : State) (k : Nat) (f : EqQueue → EqQueue) : (modEq s k f).rings = s.rings := rfl
@[simp] theorem modEq_exchs (s : State) (k : Nat) (f : EqQueue → EqQueue) : (modEq s k f).exchs = s.exchs := rfl
@[simp] theorem modEq_parts (s : State) (k : Nat) (f : EqQueue → EqQueue) : (modEq s k f).parts = s.parts := rfl
@[simp] theorem modEq_slices (s : State) (k : Nat) (f : EqQueue → EqQueue) : (modEq s k f).slices = s.slices := rfl
@[simp] theorem modEq_lastGen (s : State) (k : Nat) (f : EqQueue → EqQueue) : (modEq s k f).lastGen = s.lastGen := rfl
@[simp] theorem modEq_leaves (s : State) (k : Nat) (f : EqQueue → EqQueue) : (modEq s k f).leaves = s.leaves := rfl
@[simp] theorem modEq_invSlots (s : State) (k : Nat) (f : EqQueue → EqQueue) : (modEq s k f).invSlots = s.invSlots := rfl
@[simp] theorem modEq_engs (s : State) (k : Nat) (f : EqQueue → EqQueue) : (modEq s k f).engs = s.engs := rfl
@[simp] theorem modEq_eqs (s : State) (k : Nat) (f : EqQueue → EqQueue) : (modEq s k f).eqs = tmod {} s.eqs k f := rfl
@[simp] theorem modEq_jobs (s : State) (k : Nat) (f : EqQueue → EqQueue) : (modEq s k f).jobs = s.jobs := rfl
@[simp] theorem modEq_husks (s : State) (k : Nat) (f : EqQueue → EqQueue) : (modEq s k f).husks = s.husks := rfl
@[simp] theorem modEq_events (s : State) (k : Nat) (f : EqQueue → EqQueue) : (modEq s k f).events = s.events := rfl
@[simp] theorem modEq_faults (s : State) (k : Nat) (f : EqQueue → EqQueue) : (modEq s k f).faults = s.faults := rfl
@[simp] theorem modEq_boot (s : State) (k : Nat) (f : EqQueue → EqQueue) : (modEq s k f).boot = s.boot := rfl
@[simp] theorem modEq_shadow (s : State) (k : Nat) (f : EqQueue → EqQueue) : (modEq s k f).shadow = s.shadow := rfl
@[simp] theorem modEq_stagedShadow (s : State) (k : Nat) (f : EqQueue → EqQueue) : (modEq s k f).stagedShadow = s.stagedShadow := rfl
@[simp] theorem modEq_readOut (s : State) (k : Nat) (f : EqQueue → EqQueue) : (modEq s k f).readOut = s.readOut := rfl
@[simp] theorem modEq_accepts (s : State) (k : Nat) (f : EqQueue → EqQueue) : (modEq s k f).accepts = s.accepts := rfl
@[simp] theorem modEq_free (s : State) (k : Nat) (f : EqQueue → EqQueue) : (modEq s k f).free = s.free := rfl
@[simp] theorem modEq_pending (s : State) (k : Nat) (f : EqQueue → EqQueue) : (modEq s k f).pending = s.pending := rfl

/-! ## modStack -/

@[simp] theorem modStack_ident (s : State) (j : Nat) (f : Stack → Stack) : (modStack s j f).ident = s.ident := rfl
@[simp] theorem modStack_pins (s : State) (j : Nat) (f : Stack → Stack) : (modStack s j f).pins = s.pins := rfl
@[simp] theorem modStack_time (s : State) (j : Nat) (f : Stack → Stack) : (modStack s j f).time = s.time := rfl
@[simp] theorem modStack_mode (s : State) (j : Nat) (f : Stack → Stack) : (modStack s j f).mode = s.mode := rfl
@[simp] theorem modStack_power (s : State) (j : Nat) (f : Stack → Stack) : (modStack s j f).power = s.power := rfl
@[simp] theorem modStack_lcores (s : State) (j : Nat) (f : Stack → Stack) : (modStack s j f).lcores = s.lcores := rfl
@[simp] theorem modStack_trios (s : State) (j : Nat) (f : Stack → Stack) : (modStack s j f).trios = s.trios := rfl
@[simp] theorem modStack_cores (s : State) (j : Nat) (f : Stack → Stack) : (modStack s j f).cores = s.cores := rfl
@[simp] theorem modStack_clocks (s : State) (j : Nat) (f : Stack → Stack) : (modStack s j f).clocks = s.clocks := rfl
@[simp] theorem modStack_coh (s : State) (j : Nat) (f : Stack → Stack) : (modStack s j f).coh = s.coh := rfl
@[simp] theorem modStack_mem (s : State) (j : Nat) (f : Stack → Stack) : (modStack s j f).mem = s.mem := rfl
@[simp] theorem modStack_stackTab (s : State) (j : Nat) (f : Stack → Stack) : (modStack s j f).stackTab = tmod {} s.stackTab j f := rfl
@[simp] theorem modStack_cxl (s : State) (j : Nat) (f : Stack → Stack) : (modStack s j f).cxl = s.cxl := rfl
@[simp] theorem modStack_net (s : State) (j : Nat) (f : Stack → Stack) : (modStack s j f).net = s.net := rfl
@[simp] theorem modStack_chans (s : State) (j : Nat) (f : Stack → Stack) : (modStack s j f).chans = s.chans := rfl
@[simp] theorem modStack_groups (s : State) (j : Nat) (f : Stack → Stack) : (modStack s j f).groups = s.groups := rfl
@[simp] theorem modStack_rings (s : State) (j : Nat) (f : Stack → Stack) : (modStack s j f).rings = s.rings := rfl
@[simp] theorem modStack_exchs (s : State) (j : Nat) (f : Stack → Stack) : (modStack s j f).exchs = s.exchs := rfl
@[simp] theorem modStack_parts (s : State) (j : Nat) (f : Stack → Stack) : (modStack s j f).parts = s.parts := rfl
@[simp] theorem modStack_slices (s : State) (j : Nat) (f : Stack → Stack) : (modStack s j f).slices = s.slices := rfl
@[simp] theorem modStack_lastGen (s : State) (j : Nat) (f : Stack → Stack) : (modStack s j f).lastGen = s.lastGen := rfl
@[simp] theorem modStack_leaves (s : State) (j : Nat) (f : Stack → Stack) : (modStack s j f).leaves = s.leaves := rfl
@[simp] theorem modStack_invSlots (s : State) (j : Nat) (f : Stack → Stack) : (modStack s j f).invSlots = s.invSlots := rfl
@[simp] theorem modStack_engs (s : State) (j : Nat) (f : Stack → Stack) : (modStack s j f).engs = s.engs := rfl
@[simp] theorem modStack_eqs (s : State) (j : Nat) (f : Stack → Stack) : (modStack s j f).eqs = s.eqs := rfl
@[simp] theorem modStack_jobs (s : State) (j : Nat) (f : Stack → Stack) : (modStack s j f).jobs = s.jobs := rfl
@[simp] theorem modStack_husks (s : State) (j : Nat) (f : Stack → Stack) : (modStack s j f).husks = s.husks := rfl
@[simp] theorem modStack_events (s : State) (j : Nat) (f : Stack → Stack) : (modStack s j f).events = s.events := rfl
@[simp] theorem modStack_faults (s : State) (j : Nat) (f : Stack → Stack) : (modStack s j f).faults = s.faults := rfl
@[simp] theorem modStack_boot (s : State) (j : Nat) (f : Stack → Stack) : (modStack s j f).boot = s.boot := rfl
@[simp] theorem modStack_shadow (s : State) (j : Nat) (f : Stack → Stack) : (modStack s j f).shadow = s.shadow := rfl
@[simp] theorem modStack_stagedShadow (s : State) (j : Nat) (f : Stack → Stack) : (modStack s j f).stagedShadow = s.stagedShadow := rfl
@[simp] theorem modStack_readOut (s : State) (j : Nat) (f : Stack → Stack) : (modStack s j f).readOut = s.readOut := rfl
@[simp] theorem modStack_accepts (s : State) (j : Nat) (f : Stack → Stack) : (modStack s j f).accepts = s.accepts := rfl
@[simp] theorem modStack_free (s : State) (j : Nat) (f : Stack → Stack) : (modStack s j f).free = s.free := rfl
@[simp] theorem modStack_pending (s : State) (j : Nat) (f : Stack → Stack) : (modStack s j f).pending = s.pending := rfl

/-! ## modCxl -/

@[simp] theorem modCxl_ident (s : State) (k : Nat) (f : CxlPort → CxlPort) : (modCxl s k f).ident = s.ident := rfl
@[simp] theorem modCxl_pins (s : State) (k : Nat) (f : CxlPort → CxlPort) : (modCxl s k f).pins = s.pins := rfl
@[simp] theorem modCxl_time (s : State) (k : Nat) (f : CxlPort → CxlPort) : (modCxl s k f).time = s.time := rfl
@[simp] theorem modCxl_mode (s : State) (k : Nat) (f : CxlPort → CxlPort) : (modCxl s k f).mode = s.mode := rfl
@[simp] theorem modCxl_power (s : State) (k : Nat) (f : CxlPort → CxlPort) : (modCxl s k f).power = s.power := rfl
@[simp] theorem modCxl_lcores (s : State) (k : Nat) (f : CxlPort → CxlPort) : (modCxl s k f).lcores = s.lcores := rfl
@[simp] theorem modCxl_trios (s : State) (k : Nat) (f : CxlPort → CxlPort) : (modCxl s k f).trios = s.trios := rfl
@[simp] theorem modCxl_cores (s : State) (k : Nat) (f : CxlPort → CxlPort) : (modCxl s k f).cores = s.cores := rfl
@[simp] theorem modCxl_clocks (s : State) (k : Nat) (f : CxlPort → CxlPort) : (modCxl s k f).clocks = s.clocks := rfl
@[simp] theorem modCxl_coh (s : State) (k : Nat) (f : CxlPort → CxlPort) : (modCxl s k f).coh = s.coh := rfl
@[simp] theorem modCxl_mem (s : State) (k : Nat) (f : CxlPort → CxlPort) : (modCxl s k f).mem = s.mem := rfl
@[simp] theorem modCxl_stackTab (s : State) (k : Nat) (f : CxlPort → CxlPort) : (modCxl s k f).stackTab = s.stackTab := rfl
@[simp] theorem modCxl_cxl (s : State) (k : Nat) (f : CxlPort → CxlPort) : (modCxl s k f).cxl = tmod {} s.cxl k f := rfl
@[simp] theorem modCxl_net (s : State) (k : Nat) (f : CxlPort → CxlPort) : (modCxl s k f).net = s.net := rfl
@[simp] theorem modCxl_chans (s : State) (k : Nat) (f : CxlPort → CxlPort) : (modCxl s k f).chans = s.chans := rfl
@[simp] theorem modCxl_groups (s : State) (k : Nat) (f : CxlPort → CxlPort) : (modCxl s k f).groups = s.groups := rfl
@[simp] theorem modCxl_rings (s : State) (k : Nat) (f : CxlPort → CxlPort) : (modCxl s k f).rings = s.rings := rfl
@[simp] theorem modCxl_exchs (s : State) (k : Nat) (f : CxlPort → CxlPort) : (modCxl s k f).exchs = s.exchs := rfl
@[simp] theorem modCxl_parts (s : State) (k : Nat) (f : CxlPort → CxlPort) : (modCxl s k f).parts = s.parts := rfl
@[simp] theorem modCxl_slices (s : State) (k : Nat) (f : CxlPort → CxlPort) : (modCxl s k f).slices = s.slices := rfl
@[simp] theorem modCxl_lastGen (s : State) (k : Nat) (f : CxlPort → CxlPort) : (modCxl s k f).lastGen = s.lastGen := rfl
@[simp] theorem modCxl_leaves (s : State) (k : Nat) (f : CxlPort → CxlPort) : (modCxl s k f).leaves = s.leaves := rfl
@[simp] theorem modCxl_invSlots (s : State) (k : Nat) (f : CxlPort → CxlPort) : (modCxl s k f).invSlots = s.invSlots := rfl
@[simp] theorem modCxl_engs (s : State) (k : Nat) (f : CxlPort → CxlPort) : (modCxl s k f).engs = s.engs := rfl
@[simp] theorem modCxl_eqs (s : State) (k : Nat) (f : CxlPort → CxlPort) : (modCxl s k f).eqs = s.eqs := rfl
@[simp] theorem modCxl_jobs (s : State) (k : Nat) (f : CxlPort → CxlPort) : (modCxl s k f).jobs = s.jobs := rfl
@[simp] theorem modCxl_husks (s : State) (k : Nat) (f : CxlPort → CxlPort) : (modCxl s k f).husks = s.husks := rfl
@[simp] theorem modCxl_events (s : State) (k : Nat) (f : CxlPort → CxlPort) : (modCxl s k f).events = s.events := rfl
@[simp] theorem modCxl_faults (s : State) (k : Nat) (f : CxlPort → CxlPort) : (modCxl s k f).faults = s.faults := rfl
@[simp] theorem modCxl_boot (s : State) (k : Nat) (f : CxlPort → CxlPort) : (modCxl s k f).boot = s.boot := rfl
@[simp] theorem modCxl_shadow (s : State) (k : Nat) (f : CxlPort → CxlPort) : (modCxl s k f).shadow = s.shadow := rfl
@[simp] theorem modCxl_stagedShadow (s : State) (k : Nat) (f : CxlPort → CxlPort) : (modCxl s k f).stagedShadow = s.stagedShadow := rfl
@[simp] theorem modCxl_readOut (s : State) (k : Nat) (f : CxlPort → CxlPort) : (modCxl s k f).readOut = s.readOut := rfl
@[simp] theorem modCxl_accepts (s : State) (k : Nat) (f : CxlPort → CxlPort) : (modCxl s k f).accepts = s.accepts := rfl
@[simp] theorem modCxl_free (s : State) (k : Nat) (f : CxlPort → CxlPort) : (modCxl s k f).free = s.free := rfl
@[simp] theorem modCxl_pending (s : State) (k : Nat) (f : CxlPort → CxlPort) : (modCxl s k f).pending = s.pending := rfl

/-! ## modEng -/

@[simp] theorem modEng_ident (s : State) (e : Nat) (f : Eng → Eng) : (modEng s e f).ident = s.ident := rfl
@[simp] theorem modEng_pins (s : State) (e : Nat) (f : Eng → Eng) : (modEng s e f).pins = s.pins := rfl
@[simp] theorem modEng_time (s : State) (e : Nat) (f : Eng → Eng) : (modEng s e f).time = s.time := rfl
@[simp] theorem modEng_mode (s : State) (e : Nat) (f : Eng → Eng) : (modEng s e f).mode = s.mode := rfl
@[simp] theorem modEng_power (s : State) (e : Nat) (f : Eng → Eng) : (modEng s e f).power = s.power := rfl
@[simp] theorem modEng_lcores (s : State) (e : Nat) (f : Eng → Eng) : (modEng s e f).lcores = s.lcores := rfl
@[simp] theorem modEng_trios (s : State) (e : Nat) (f : Eng → Eng) : (modEng s e f).trios = s.trios := rfl
@[simp] theorem modEng_cores (s : State) (e : Nat) (f : Eng → Eng) : (modEng s e f).cores = s.cores := rfl
@[simp] theorem modEng_clocks (s : State) (e : Nat) (f : Eng → Eng) : (modEng s e f).clocks = s.clocks := rfl
@[simp] theorem modEng_coh (s : State) (e : Nat) (f : Eng → Eng) : (modEng s e f).coh = s.coh := rfl
@[simp] theorem modEng_mem (s : State) (e : Nat) (f : Eng → Eng) : (modEng s e f).mem = s.mem := rfl
@[simp] theorem modEng_stackTab (s : State) (e : Nat) (f : Eng → Eng) : (modEng s e f).stackTab = s.stackTab := rfl
@[simp] theorem modEng_cxl (s : State) (e : Nat) (f : Eng → Eng) : (modEng s e f).cxl = s.cxl := rfl
@[simp] theorem modEng_net (s : State) (e : Nat) (f : Eng → Eng) : (modEng s e f).net = s.net := rfl
@[simp] theorem modEng_chans (s : State) (e : Nat) (f : Eng → Eng) : (modEng s e f).chans = s.chans := rfl
@[simp] theorem modEng_groups (s : State) (e : Nat) (f : Eng → Eng) : (modEng s e f).groups = s.groups := rfl
@[simp] theorem modEng_rings (s : State) (e : Nat) (f : Eng → Eng) : (modEng s e f).rings = s.rings := rfl
@[simp] theorem modEng_exchs (s : State) (e : Nat) (f : Eng → Eng) : (modEng s e f).exchs = s.exchs := rfl
@[simp] theorem modEng_parts (s : State) (e : Nat) (f : Eng → Eng) : (modEng s e f).parts = s.parts := rfl
@[simp] theorem modEng_slices (s : State) (e : Nat) (f : Eng → Eng) : (modEng s e f).slices = s.slices := rfl
@[simp] theorem modEng_lastGen (s : State) (e : Nat) (f : Eng → Eng) : (modEng s e f).lastGen = s.lastGen := rfl
@[simp] theorem modEng_leaves (s : State) (e : Nat) (f : Eng → Eng) : (modEng s e f).leaves = s.leaves := rfl
@[simp] theorem modEng_invSlots (s : State) (e : Nat) (f : Eng → Eng) : (modEng s e f).invSlots = s.invSlots := rfl
@[simp] theorem modEng_engs (s : State) (e : Nat) (f : Eng → Eng) : (modEng s e f).engs = tmod {} s.engs e f := rfl
@[simp] theorem modEng_eqs (s : State) (e : Nat) (f : Eng → Eng) : (modEng s e f).eqs = s.eqs := rfl
@[simp] theorem modEng_jobs (s : State) (e : Nat) (f : Eng → Eng) : (modEng s e f).jobs = s.jobs := rfl
@[simp] theorem modEng_husks (s : State) (e : Nat) (f : Eng → Eng) : (modEng s e f).husks = s.husks := rfl
@[simp] theorem modEng_events (s : State) (e : Nat) (f : Eng → Eng) : (modEng s e f).events = s.events := rfl
@[simp] theorem modEng_faults (s : State) (e : Nat) (f : Eng → Eng) : (modEng s e f).faults = s.faults := rfl
@[simp] theorem modEng_boot (s : State) (e : Nat) (f : Eng → Eng) : (modEng s e f).boot = s.boot := rfl
@[simp] theorem modEng_shadow (s : State) (e : Nat) (f : Eng → Eng) : (modEng s e f).shadow = s.shadow := rfl
@[simp] theorem modEng_stagedShadow (s : State) (e : Nat) (f : Eng → Eng) : (modEng s e f).stagedShadow = s.stagedShadow := rfl
@[simp] theorem modEng_readOut (s : State) (e : Nat) (f : Eng → Eng) : (modEng s e f).readOut = s.readOut := rfl
@[simp] theorem modEng_accepts (s : State) (e : Nat) (f : Eng → Eng) : (modEng s e f).accepts = s.accepts := rfl
@[simp] theorem modEng_free (s : State) (e : Nat) (f : Eng → Eng) : (modEng s e f).free = s.free := rfl
@[simp] theorem modEng_pending (s : State) (e : Nat) (f : Eng → Eng) : (modEng s e f).pending = s.pending := rfl

/-! ## modNet -/

@[simp] theorem modNet_ident (s : State) (f : Net → Net) : (modNet s f).ident = s.ident := rfl
@[simp] theorem modNet_pins (s : State) (f : Net → Net) : (modNet s f).pins = s.pins := rfl
@[simp] theorem modNet_time (s : State) (f : Net → Net) : (modNet s f).time = s.time := rfl
@[simp] theorem modNet_mode (s : State) (f : Net → Net) : (modNet s f).mode = s.mode := rfl
@[simp] theorem modNet_power (s : State) (f : Net → Net) : (modNet s f).power = s.power := rfl
@[simp] theorem modNet_lcores (s : State) (f : Net → Net) : (modNet s f).lcores = s.lcores := rfl
@[simp] theorem modNet_trios (s : State) (f : Net → Net) : (modNet s f).trios = s.trios := rfl
@[simp] theorem modNet_cores (s : State) (f : Net → Net) : (modNet s f).cores = s.cores := rfl
@[simp] theorem modNet_clocks (s : State) (f : Net → Net) : (modNet s f).clocks = s.clocks := rfl
@[simp] theorem modNet_coh (s : State) (f : Net → Net) : (modNet s f).coh = s.coh := rfl
@[simp] theorem modNet_mem (s : State) (f : Net → Net) : (modNet s f).mem = s.mem := rfl
@[simp] theorem modNet_stackTab (s : State) (f : Net → Net) : (modNet s f).stackTab = s.stackTab := rfl
@[simp] theorem modNet_cxl (s : State) (f : Net → Net) : (modNet s f).cxl = s.cxl := rfl
@[simp] theorem modNet_net (s : State) (f : Net → Net) : (modNet s f).net = f s.net := rfl
@[simp] theorem modNet_chans (s : State) (f : Net → Net) : (modNet s f).chans = s.chans := rfl
@[simp] theorem modNet_groups (s : State) (f : Net → Net) : (modNet s f).groups = s.groups := rfl
@[simp] theorem modNet_rings (s : State) (f : Net → Net) : (modNet s f).rings = s.rings := rfl
@[simp] theorem modNet_exchs (s : State) (f : Net → Net) : (modNet s f).exchs = s.exchs := rfl
@[simp] theorem modNet_parts (s : State) (f : Net → Net) : (modNet s f).parts = s.parts := rfl
@[simp] theorem modNet_slices (s : State) (f : Net → Net) : (modNet s f).slices = s.slices := rfl
@[simp] theorem modNet_lastGen (s : State) (f : Net → Net) : (modNet s f).lastGen = s.lastGen := rfl
@[simp] theorem modNet_leaves (s : State) (f : Net → Net) : (modNet s f).leaves = s.leaves := rfl
@[simp] theorem modNet_invSlots (s : State) (f : Net → Net) : (modNet s f).invSlots = s.invSlots := rfl
@[simp] theorem modNet_engs (s : State) (f : Net → Net) : (modNet s f).engs = s.engs := rfl
@[simp] theorem modNet_eqs (s : State) (f : Net → Net) : (modNet s f).eqs = s.eqs := rfl
@[simp] theorem modNet_jobs (s : State) (f : Net → Net) : (modNet s f).jobs = s.jobs := rfl
@[simp] theorem modNet_husks (s : State) (f : Net → Net) : (modNet s f).husks = s.husks := rfl
@[simp] theorem modNet_events (s : State) (f : Net → Net) : (modNet s f).events = s.events := rfl
@[simp] theorem modNet_faults (s : State) (f : Net → Net) : (modNet s f).faults = s.faults := rfl
@[simp] theorem modNet_boot (s : State) (f : Net → Net) : (modNet s f).boot = s.boot := rfl
@[simp] theorem modNet_shadow (s : State) (f : Net → Net) : (modNet s f).shadow = s.shadow := rfl
@[simp] theorem modNet_stagedShadow (s : State) (f : Net → Net) : (modNet s f).stagedShadow = s.stagedShadow := rfl
@[simp] theorem modNet_readOut (s : State) (f : Net → Net) : (modNet s f).readOut = s.readOut := rfl
@[simp] theorem modNet_accepts (s : State) (f : Net → Net) : (modNet s f).accepts = s.accepts := rfl
@[simp] theorem modNet_free (s : State) (f : Net → Net) : (modNet s f).free = s.free := rfl
@[simp] theorem modNet_pending (s : State) (f : Net → Net) : (modNet s f).pending = s.pending := rfl

/-! ## modHull -/

@[simp] theorem modHull_ident (s : State) (h : Nat) (f : Hull → Hull) : (modHull s h f).ident = s.ident := rfl
@[simp] theorem modHull_pins (s : State) (h : Nat) (f : Hull → Hull) : (modHull s h f).pins = s.pins := rfl
@[simp] theorem modHull_time (s : State) (h : Nat) (f : Hull → Hull) : (modHull s h f).time = s.time := rfl
@[simp] theorem modHull_mode (s : State) (h : Nat) (f : Hull → Hull) : (modHull s h f).mode = s.mode := rfl
@[simp] theorem modHull_power (s : State) (h : Nat) (f : Hull → Hull) : (modHull s h f).power = s.power := rfl
@[simp] theorem modHull_lcores (s : State) (h : Nat) (f : Hull → Hull) : (modHull s h f).lcores = s.lcores := rfl
@[simp] theorem modHull_trios (s : State) (h : Nat) (f : Hull → Hull) : (modHull s h f).trios = s.trios := rfl
@[simp] theorem modHull_cores (s : State) (h : Nat) (f : Hull → Hull) : (modHull s h f).cores = s.cores := rfl
@[simp] theorem modHull_clocks (s : State) (h : Nat) (f : Hull → Hull) : (modHull s h f).clocks = s.clocks := rfl
@[simp] theorem modHull_coh (s : State) (h : Nat) (f : Hull → Hull) : (modHull s h f).coh = s.coh := rfl
@[simp] theorem modHull_mem (s : State) (h : Nat) (f : Hull → Hull) : (modHull s h f).mem = s.mem := rfl
@[simp] theorem modHull_stackTab (s : State) (h : Nat) (f : Hull → Hull) : (modHull s h f).stackTab = s.stackTab := rfl
@[simp] theorem modHull_cxl (s : State) (h : Nat) (f : Hull → Hull) : (modHull s h f).cxl = s.cxl := rfl
@[simp] theorem modHull_net (s : State) (h : Nat) (f : Hull → Hull) : (modHull s h f).net = { s.net with hulls := tmod {} s.net.hulls h f } := rfl
@[simp] theorem modHull_chans (s : State) (h : Nat) (f : Hull → Hull) : (modHull s h f).chans = s.chans := rfl
@[simp] theorem modHull_groups (s : State) (h : Nat) (f : Hull → Hull) : (modHull s h f).groups = s.groups := rfl
@[simp] theorem modHull_rings (s : State) (h : Nat) (f : Hull → Hull) : (modHull s h f).rings = s.rings := rfl
@[simp] theorem modHull_exchs (s : State) (h : Nat) (f : Hull → Hull) : (modHull s h f).exchs = s.exchs := rfl
@[simp] theorem modHull_parts (s : State) (h : Nat) (f : Hull → Hull) : (modHull s h f).parts = s.parts := rfl
@[simp] theorem modHull_slices (s : State) (h : Nat) (f : Hull → Hull) : (modHull s h f).slices = s.slices := rfl
@[simp] theorem modHull_lastGen (s : State) (h : Nat) (f : Hull → Hull) : (modHull s h f).lastGen = s.lastGen := rfl
@[simp] theorem modHull_leaves (s : State) (h : Nat) (f : Hull → Hull) : (modHull s h f).leaves = s.leaves := rfl
@[simp] theorem modHull_invSlots (s : State) (h : Nat) (f : Hull → Hull) : (modHull s h f).invSlots = s.invSlots := rfl
@[simp] theorem modHull_engs (s : State) (h : Nat) (f : Hull → Hull) : (modHull s h f).engs = s.engs := rfl
@[simp] theorem modHull_eqs (s : State) (h : Nat) (f : Hull → Hull) : (modHull s h f).eqs = s.eqs := rfl
@[simp] theorem modHull_jobs (s : State) (h : Nat) (f : Hull → Hull) : (modHull s h f).jobs = s.jobs := rfl
@[simp] theorem modHull_husks (s : State) (h : Nat) (f : Hull → Hull) : (modHull s h f).husks = s.husks := rfl
@[simp] theorem modHull_events (s : State) (h : Nat) (f : Hull → Hull) : (modHull s h f).events = s.events := rfl
@[simp] theorem modHull_faults (s : State) (h : Nat) (f : Hull → Hull) : (modHull s h f).faults = s.faults := rfl
@[simp] theorem modHull_boot (s : State) (h : Nat) (f : Hull → Hull) : (modHull s h f).boot = s.boot := rfl
@[simp] theorem modHull_shadow (s : State) (h : Nat) (f : Hull → Hull) : (modHull s h f).shadow = s.shadow := rfl
@[simp] theorem modHull_stagedShadow (s : State) (h : Nat) (f : Hull → Hull) : (modHull s h f).stagedShadow = s.stagedShadow := rfl
@[simp] theorem modHull_readOut (s : State) (h : Nat) (f : Hull → Hull) : (modHull s h f).readOut = s.readOut := rfl
@[simp] theorem modHull_accepts (s : State) (h : Nat) (f : Hull → Hull) : (modHull s h f).accepts = s.accepts := rfl
@[simp] theorem modHull_free (s : State) (h : Nat) (f : Hull → Hull) : (modHull s h f).free = s.free := rfl
@[simp] theorem modHull_pending (s : State) (h : Nat) (f : Hull → Hull) : (modHull s h f).pending = s.pending := rfl

/-! ## modLink -/

@[simp] theorem modLink_ident (s : State) (l : Nat) (f : LinkSt → LinkSt) : (modLink s l f).ident = s.ident := rfl
@[simp] theorem modLink_pins (s : State) (l : Nat) (f : LinkSt → LinkSt) : (modLink s l f).pins = s.pins := rfl
@[simp] theorem modLink_time (s : State) (l : Nat) (f : LinkSt → LinkSt) : (modLink s l f).time = s.time := rfl
@[simp] theorem modLink_mode (s : State) (l : Nat) (f : LinkSt → LinkSt) : (modLink s l f).mode = s.mode := rfl
@[simp] theorem modLink_power (s : State) (l : Nat) (f : LinkSt → LinkSt) : (modLink s l f).power = s.power := rfl
@[simp] theorem modLink_lcores (s : State) (l : Nat) (f : LinkSt → LinkSt) : (modLink s l f).lcores = s.lcores := rfl
@[simp] theorem modLink_trios (s : State) (l : Nat) (f : LinkSt → LinkSt) : (modLink s l f).trios = s.trios := rfl
@[simp] theorem modLink_cores (s : State) (l : Nat) (f : LinkSt → LinkSt) : (modLink s l f).cores = s.cores := rfl
@[simp] theorem modLink_clocks (s : State) (l : Nat) (f : LinkSt → LinkSt) : (modLink s l f).clocks = s.clocks := rfl
@[simp] theorem modLink_coh (s : State) (l : Nat) (f : LinkSt → LinkSt) : (modLink s l f).coh = s.coh := rfl
@[simp] theorem modLink_mem (s : State) (l : Nat) (f : LinkSt → LinkSt) : (modLink s l f).mem = s.mem := rfl
@[simp] theorem modLink_stackTab (s : State) (l : Nat) (f : LinkSt → LinkSt) : (modLink s l f).stackTab = s.stackTab := rfl
@[simp] theorem modLink_cxl (s : State) (l : Nat) (f : LinkSt → LinkSt) : (modLink s l f).cxl = s.cxl := rfl
@[simp] theorem modLink_net (s : State) (l : Nat) (f : LinkSt → LinkSt) : (modLink s l f).net = { s.net with links := tmod {} s.net.links l f } := rfl
@[simp] theorem modLink_chans (s : State) (l : Nat) (f : LinkSt → LinkSt) : (modLink s l f).chans = s.chans := rfl
@[simp] theorem modLink_groups (s : State) (l : Nat) (f : LinkSt → LinkSt) : (modLink s l f).groups = s.groups := rfl
@[simp] theorem modLink_rings (s : State) (l : Nat) (f : LinkSt → LinkSt) : (modLink s l f).rings = s.rings := rfl
@[simp] theorem modLink_exchs (s : State) (l : Nat) (f : LinkSt → LinkSt) : (modLink s l f).exchs = s.exchs := rfl
@[simp] theorem modLink_parts (s : State) (l : Nat) (f : LinkSt → LinkSt) : (modLink s l f).parts = s.parts := rfl
@[simp] theorem modLink_slices (s : State) (l : Nat) (f : LinkSt → LinkSt) : (modLink s l f).slices = s.slices := rfl
@[simp] theorem modLink_lastGen (s : State) (l : Nat) (f : LinkSt → LinkSt) : (modLink s l f).lastGen = s.lastGen := rfl
@[simp] theorem modLink_leaves (s : State) (l : Nat) (f : LinkSt → LinkSt) : (modLink s l f).leaves = s.leaves := rfl
@[simp] theorem modLink_invSlots (s : State) (l : Nat) (f : LinkSt → LinkSt) : (modLink s l f).invSlots = s.invSlots := rfl
@[simp] theorem modLink_engs (s : State) (l : Nat) (f : LinkSt → LinkSt) : (modLink s l f).engs = s.engs := rfl
@[simp] theorem modLink_eqs (s : State) (l : Nat) (f : LinkSt → LinkSt) : (modLink s l f).eqs = s.eqs := rfl
@[simp] theorem modLink_jobs (s : State) (l : Nat) (f : LinkSt → LinkSt) : (modLink s l f).jobs = s.jobs := rfl
@[simp] theorem modLink_husks (s : State) (l : Nat) (f : LinkSt → LinkSt) : (modLink s l f).husks = s.husks := rfl
@[simp] theorem modLink_events (s : State) (l : Nat) (f : LinkSt → LinkSt) : (modLink s l f).events = s.events := rfl
@[simp] theorem modLink_faults (s : State) (l : Nat) (f : LinkSt → LinkSt) : (modLink s l f).faults = s.faults := rfl
@[simp] theorem modLink_boot (s : State) (l : Nat) (f : LinkSt → LinkSt) : (modLink s l f).boot = s.boot := rfl
@[simp] theorem modLink_shadow (s : State) (l : Nat) (f : LinkSt → LinkSt) : (modLink s l f).shadow = s.shadow := rfl
@[simp] theorem modLink_stagedShadow (s : State) (l : Nat) (f : LinkSt → LinkSt) : (modLink s l f).stagedShadow = s.stagedShadow := rfl
@[simp] theorem modLink_readOut (s : State) (l : Nat) (f : LinkSt → LinkSt) : (modLink s l f).readOut = s.readOut := rfl
@[simp] theorem modLink_accepts (s : State) (l : Nat) (f : LinkSt → LinkSt) : (modLink s l f).accepts = s.accepts := rfl
@[simp] theorem modLink_free (s : State) (l : Nat) (f : LinkSt → LinkSt) : (modLink s l f).free = s.free := rfl
@[simp] theorem modLink_pending (s : State) (l : Nat) (f : LinkSt → LinkSt) : (modLink s l f).pending = s.pending := rfl

/-! ## modHusks -/

@[simp] theorem modHusks_ident (s : State) (f : Husks → Husks) : (modHusks s f).ident = s.ident := rfl
@[simp] theorem modHusks_pins (s : State) (f : Husks → Husks) : (modHusks s f).pins = s.pins := rfl
@[simp] theorem modHusks_time (s : State) (f : Husks → Husks) : (modHusks s f).time = s.time := rfl
@[simp] theorem modHusks_mode (s : State) (f : Husks → Husks) : (modHusks s f).mode = s.mode := rfl
@[simp] theorem modHusks_power (s : State) (f : Husks → Husks) : (modHusks s f).power = s.power := rfl
@[simp] theorem modHusks_lcores (s : State) (f : Husks → Husks) : (modHusks s f).lcores = s.lcores := rfl
@[simp] theorem modHusks_trios (s : State) (f : Husks → Husks) : (modHusks s f).trios = s.trios := rfl
@[simp] theorem modHusks_cores (s : State) (f : Husks → Husks) : (modHusks s f).cores = s.cores := rfl
@[simp] theorem modHusks_clocks (s : State) (f : Husks → Husks) : (modHusks s f).clocks = s.clocks := rfl
@[simp] theorem modHusks_coh (s : State) (f : Husks → Husks) : (modHusks s f).coh = s.coh := rfl
@[simp] theorem modHusks_mem (s : State) (f : Husks → Husks) : (modHusks s f).mem = s.mem := rfl
@[simp] theorem modHusks_stackTab (s : State) (f : Husks → Husks) : (modHusks s f).stackTab = s.stackTab := rfl
@[simp] theorem modHusks_cxl (s : State) (f : Husks → Husks) : (modHusks s f).cxl = s.cxl := rfl
@[simp] theorem modHusks_net (s : State) (f : Husks → Husks) : (modHusks s f).net = s.net := rfl
@[simp] theorem modHusks_chans (s : State) (f : Husks → Husks) : (modHusks s f).chans = s.chans := rfl
@[simp] theorem modHusks_groups (s : State) (f : Husks → Husks) : (modHusks s f).groups = s.groups := rfl
@[simp] theorem modHusks_rings (s : State) (f : Husks → Husks) : (modHusks s f).rings = s.rings := rfl
@[simp] theorem modHusks_exchs (s : State) (f : Husks → Husks) : (modHusks s f).exchs = s.exchs := rfl
@[simp] theorem modHusks_parts (s : State) (f : Husks → Husks) : (modHusks s f).parts = s.parts := rfl
@[simp] theorem modHusks_slices (s : State) (f : Husks → Husks) : (modHusks s f).slices = s.slices := rfl
@[simp] theorem modHusks_lastGen (s : State) (f : Husks → Husks) : (modHusks s f).lastGen = s.lastGen := rfl
@[simp] theorem modHusks_leaves (s : State) (f : Husks → Husks) : (modHusks s f).leaves = s.leaves := rfl
@[simp] theorem modHusks_invSlots (s : State) (f : Husks → Husks) : (modHusks s f).invSlots = s.invSlots := rfl
@[simp] theorem modHusks_engs (s : State) (f : Husks → Husks) : (modHusks s f).engs = s.engs := rfl
@[simp] theorem modHusks_eqs (s : State) (f : Husks → Husks) : (modHusks s f).eqs = s.eqs := rfl
@[simp] theorem modHusks_jobs (s : State) (f : Husks → Husks) : (modHusks s f).jobs = s.jobs := rfl
@[simp] theorem modHusks_husks (s : State) (f : Husks → Husks) : (modHusks s f).husks = f s.husks := rfl
@[simp] theorem modHusks_events (s : State) (f : Husks → Husks) : (modHusks s f).events = s.events := rfl
@[simp] theorem modHusks_faults (s : State) (f : Husks → Husks) : (modHusks s f).faults = s.faults := rfl
@[simp] theorem modHusks_boot (s : State) (f : Husks → Husks) : (modHusks s f).boot = s.boot := rfl
@[simp] theorem modHusks_shadow (s : State) (f : Husks → Husks) : (modHusks s f).shadow = s.shadow := rfl
@[simp] theorem modHusks_stagedShadow (s : State) (f : Husks → Husks) : (modHusks s f).stagedShadow = s.stagedShadow := rfl
@[simp] theorem modHusks_readOut (s : State) (f : Husks → Husks) : (modHusks s f).readOut = s.readOut := rfl
@[simp] theorem modHusks_accepts (s : State) (f : Husks → Husks) : (modHusks s f).accepts = s.accepts := rfl
@[simp] theorem modHusks_free (s : State) (f : Husks → Husks) : (modHusks s f).free = s.free := rfl
@[simp] theorem modHusks_pending (s : State) (f : Husks → Husks) : (modHusks s f).pending = s.pending := rfl

/-! ## modEvents -/

@[simp] theorem modEvents_ident (s : State) (f : Events → Events) : (modEvents s f).ident = s.ident := rfl
@[simp] theorem modEvents_pins (s : State) (f : Events → Events) : (modEvents s f).pins = s.pins := rfl
@[simp] theorem modEvents_time (s : State) (f : Events → Events) : (modEvents s f).time = s.time := rfl
@[simp] theorem modEvents_mode (s : State) (f : Events → Events) : (modEvents s f).mode = s.mode := rfl
@[simp] theorem modEvents_power (s : State) (f : Events → Events) : (modEvents s f).power = s.power := rfl
@[simp] theorem modEvents_lcores (s : State) (f : Events → Events) : (modEvents s f).lcores = s.lcores := rfl
@[simp] theorem modEvents_trios (s : State) (f : Events → Events) : (modEvents s f).trios = s.trios := rfl
@[simp] theorem modEvents_cores (s : State) (f : Events → Events) : (modEvents s f).cores = s.cores := rfl
@[simp] theorem modEvents_clocks (s : State) (f : Events → Events) : (modEvents s f).clocks = s.clocks := rfl
@[simp] theorem modEvents_coh (s : State) (f : Events → Events) : (modEvents s f).coh = s.coh := rfl
@[simp] theorem modEvents_mem (s : State) (f : Events → Events) : (modEvents s f).mem = s.mem := rfl
@[simp] theorem modEvents_stackTab (s : State) (f : Events → Events) : (modEvents s f).stackTab = s.stackTab := rfl
@[simp] theorem modEvents_cxl (s : State) (f : Events → Events) : (modEvents s f).cxl = s.cxl := rfl
@[simp] theorem modEvents_net (s : State) (f : Events → Events) : (modEvents s f).net = s.net := rfl
@[simp] theorem modEvents_chans (s : State) (f : Events → Events) : (modEvents s f).chans = s.chans := rfl
@[simp] theorem modEvents_groups (s : State) (f : Events → Events) : (modEvents s f).groups = s.groups := rfl
@[simp] theorem modEvents_rings (s : State) (f : Events → Events) : (modEvents s f).rings = s.rings := rfl
@[simp] theorem modEvents_exchs (s : State) (f : Events → Events) : (modEvents s f).exchs = s.exchs := rfl
@[simp] theorem modEvents_parts (s : State) (f : Events → Events) : (modEvents s f).parts = s.parts := rfl
@[simp] theorem modEvents_slices (s : State) (f : Events → Events) : (modEvents s f).slices = s.slices := rfl
@[simp] theorem modEvents_lastGen (s : State) (f : Events → Events) : (modEvents s f).lastGen = s.lastGen := rfl
@[simp] theorem modEvents_leaves (s : State) (f : Events → Events) : (modEvents s f).leaves = s.leaves := rfl
@[simp] theorem modEvents_invSlots (s : State) (f : Events → Events) : (modEvents s f).invSlots = s.invSlots := rfl
@[simp] theorem modEvents_engs (s : State) (f : Events → Events) : (modEvents s f).engs = s.engs := rfl
@[simp] theorem modEvents_eqs (s : State) (f : Events → Events) : (modEvents s f).eqs = s.eqs := rfl
@[simp] theorem modEvents_jobs (s : State) (f : Events → Events) : (modEvents s f).jobs = s.jobs := rfl
@[simp] theorem modEvents_husks (s : State) (f : Events → Events) : (modEvents s f).husks = s.husks := rfl
@[simp] theorem modEvents_events (s : State) (f : Events → Events) : (modEvents s f).events = f s.events := rfl
@[simp] theorem modEvents_faults (s : State) (f : Events → Events) : (modEvents s f).faults = s.faults := rfl
@[simp] theorem modEvents_boot (s : State) (f : Events → Events) : (modEvents s f).boot = s.boot := rfl
@[simp] theorem modEvents_shadow (s : State) (f : Events → Events) : (modEvents s f).shadow = s.shadow := rfl
@[simp] theorem modEvents_stagedShadow (s : State) (f : Events → Events) : (modEvents s f).stagedShadow = s.stagedShadow := rfl
@[simp] theorem modEvents_readOut (s : State) (f : Events → Events) : (modEvents s f).readOut = s.readOut := rfl
@[simp] theorem modEvents_accepts (s : State) (f : Events → Events) : (modEvents s f).accepts = s.accepts := rfl
@[simp] theorem modEvents_free (s : State) (f : Events → Events) : (modEvents s f).free = s.free := rfl
@[simp] theorem modEvents_pending (s : State) (f : Events → Events) : (modEvents s f).pending = s.pending := rfl

/-! ## modFaults -/

@[simp] theorem modFaults_ident (s : State) (f : Faults → Faults) : (modFaults s f).ident = s.ident := rfl
@[simp] theorem modFaults_pins (s : State) (f : Faults → Faults) : (modFaults s f).pins = s.pins := rfl
@[simp] theorem modFaults_time (s : State) (f : Faults → Faults) : (modFaults s f).time = s.time := rfl
@[simp] theorem modFaults_mode (s : State) (f : Faults → Faults) : (modFaults s f).mode = s.mode := rfl
@[simp] theorem modFaults_power (s : State) (f : Faults → Faults) : (modFaults s f).power = s.power := rfl
@[simp] theorem modFaults_lcores (s : State) (f : Faults → Faults) : (modFaults s f).lcores = s.lcores := rfl
@[simp] theorem modFaults_trios (s : State) (f : Faults → Faults) : (modFaults s f).trios = s.trios := rfl
@[simp] theorem modFaults_cores (s : State) (f : Faults → Faults) : (modFaults s f).cores = s.cores := rfl
@[simp] theorem modFaults_clocks (s : State) (f : Faults → Faults) : (modFaults s f).clocks = s.clocks := rfl
@[simp] theorem modFaults_coh (s : State) (f : Faults → Faults) : (modFaults s f).coh = s.coh := rfl
@[simp] theorem modFaults_mem (s : State) (f : Faults → Faults) : (modFaults s f).mem = s.mem := rfl
@[simp] theorem modFaults_stackTab (s : State) (f : Faults → Faults) : (modFaults s f).stackTab = s.stackTab := rfl
@[simp] theorem modFaults_cxl (s : State) (f : Faults → Faults) : (modFaults s f).cxl = s.cxl := rfl
@[simp] theorem modFaults_net (s : State) (f : Faults → Faults) : (modFaults s f).net = s.net := rfl
@[simp] theorem modFaults_chans (s : State) (f : Faults → Faults) : (modFaults s f).chans = s.chans := rfl
@[simp] theorem modFaults_groups (s : State) (f : Faults → Faults) : (modFaults s f).groups = s.groups := rfl
@[simp] theorem modFaults_rings (s : State) (f : Faults → Faults) : (modFaults s f).rings = s.rings := rfl
@[simp] theorem modFaults_exchs (s : State) (f : Faults → Faults) : (modFaults s f).exchs = s.exchs := rfl
@[simp] theorem modFaults_parts (s : State) (f : Faults → Faults) : (modFaults s f).parts = s.parts := rfl
@[simp] theorem modFaults_slices (s : State) (f : Faults → Faults) : (modFaults s f).slices = s.slices := rfl
@[simp] theorem modFaults_lastGen (s : State) (f : Faults → Faults) : (modFaults s f).lastGen = s.lastGen := rfl
@[simp] theorem modFaults_leaves (s : State) (f : Faults → Faults) : (modFaults s f).leaves = s.leaves := rfl
@[simp] theorem modFaults_invSlots (s : State) (f : Faults → Faults) : (modFaults s f).invSlots = s.invSlots := rfl
@[simp] theorem modFaults_engs (s : State) (f : Faults → Faults) : (modFaults s f).engs = s.engs := rfl
@[simp] theorem modFaults_eqs (s : State) (f : Faults → Faults) : (modFaults s f).eqs = s.eqs := rfl
@[simp] theorem modFaults_jobs (s : State) (f : Faults → Faults) : (modFaults s f).jobs = s.jobs := rfl
@[simp] theorem modFaults_husks (s : State) (f : Faults → Faults) : (modFaults s f).husks = s.husks := rfl
@[simp] theorem modFaults_events (s : State) (f : Faults → Faults) : (modFaults s f).events = s.events := rfl
@[simp] theorem modFaults_faults (s : State) (f : Faults → Faults) : (modFaults s f).faults = f s.faults := rfl
@[simp] theorem modFaults_boot (s : State) (f : Faults → Faults) : (modFaults s f).boot = s.boot := rfl
@[simp] theorem modFaults_shadow (s : State) (f : Faults → Faults) : (modFaults s f).shadow = s.shadow := rfl
@[simp] theorem modFaults_stagedShadow (s : State) (f : Faults → Faults) : (modFaults s f).stagedShadow = s.stagedShadow := rfl
@[simp] theorem modFaults_readOut (s : State) (f : Faults → Faults) : (modFaults s f).readOut = s.readOut := rfl
@[simp] theorem modFaults_accepts (s : State) (f : Faults → Faults) : (modFaults s f).accepts = s.accepts := rfl
@[simp] theorem modFaults_free (s : State) (f : Faults → Faults) : (modFaults s f).free = s.free := rfl
@[simp] theorem modFaults_pending (s : State) (f : Faults → Faults) : (modFaults s f).pending = s.pending := rfl

/-! ## modBoot -/

@[simp] theorem modBoot_ident (s : State) (f : Boot → Boot) : (modBoot s f).ident = s.ident := rfl
@[simp] theorem modBoot_pins (s : State) (f : Boot → Boot) : (modBoot s f).pins = s.pins := rfl
@[simp] theorem modBoot_time (s : State) (f : Boot → Boot) : (modBoot s f).time = s.time := rfl
@[simp] theorem modBoot_mode (s : State) (f : Boot → Boot) : (modBoot s f).mode = s.mode := rfl
@[simp] theorem modBoot_power (s : State) (f : Boot → Boot) : (modBoot s f).power = s.power := rfl
@[simp] theorem modBoot_lcores (s : State) (f : Boot → Boot) : (modBoot s f).lcores = s.lcores := rfl
@[simp] theorem modBoot_trios (s : State) (f : Boot → Boot) : (modBoot s f).trios = s.trios := rfl
@[simp] theorem modBoot_cores (s : State) (f : Boot → Boot) : (modBoot s f).cores = s.cores := rfl
@[simp] theorem modBoot_clocks (s : State) (f : Boot → Boot) : (modBoot s f).clocks = s.clocks := rfl
@[simp] theorem modBoot_coh (s : State) (f : Boot → Boot) : (modBoot s f).coh = s.coh := rfl
@[simp] theorem modBoot_mem (s : State) (f : Boot → Boot) : (modBoot s f).mem = s.mem := rfl
@[simp] theorem modBoot_stackTab (s : State) (f : Boot → Boot) : (modBoot s f).stackTab = s.stackTab := rfl
@[simp] theorem modBoot_cxl (s : State) (f : Boot → Boot) : (modBoot s f).cxl = s.cxl := rfl
@[simp] theorem modBoot_net (s : State) (f : Boot → Boot) : (modBoot s f).net = s.net := rfl
@[simp] theorem modBoot_chans (s : State) (f : Boot → Boot) : (modBoot s f).chans = s.chans := rfl
@[simp] theorem modBoot_groups (s : State) (f : Boot → Boot) : (modBoot s f).groups = s.groups := rfl
@[simp] theorem modBoot_rings (s : State) (f : Boot → Boot) : (modBoot s f).rings = s.rings := rfl
@[simp] theorem modBoot_exchs (s : State) (f : Boot → Boot) : (modBoot s f).exchs = s.exchs := rfl
@[simp] theorem modBoot_parts (s : State) (f : Boot → Boot) : (modBoot s f).parts = s.parts := rfl
@[simp] theorem modBoot_slices (s : State) (f : Boot → Boot) : (modBoot s f).slices = s.slices := rfl
@[simp] theorem modBoot_lastGen (s : State) (f : Boot → Boot) : (modBoot s f).lastGen = s.lastGen := rfl
@[simp] theorem modBoot_leaves (s : State) (f : Boot → Boot) : (modBoot s f).leaves = s.leaves := rfl
@[simp] theorem modBoot_invSlots (s : State) (f : Boot → Boot) : (modBoot s f).invSlots = s.invSlots := rfl
@[simp] theorem modBoot_engs (s : State) (f : Boot → Boot) : (modBoot s f).engs = s.engs := rfl
@[simp] theorem modBoot_eqs (s : State) (f : Boot → Boot) : (modBoot s f).eqs = s.eqs := rfl
@[simp] theorem modBoot_jobs (s : State) (f : Boot → Boot) : (modBoot s f).jobs = s.jobs := rfl
@[simp] theorem modBoot_husks (s : State) (f : Boot → Boot) : (modBoot s f).husks = s.husks := rfl
@[simp] theorem modBoot_events (s : State) (f : Boot → Boot) : (modBoot s f).events = s.events := rfl
@[simp] theorem modBoot_faults (s : State) (f : Boot → Boot) : (modBoot s f).faults = s.faults := rfl
@[simp] theorem modBoot_boot (s : State) (f : Boot → Boot) : (modBoot s f).boot = f s.boot := rfl
@[simp] theorem modBoot_shadow (s : State) (f : Boot → Boot) : (modBoot s f).shadow = s.shadow := rfl
@[simp] theorem modBoot_stagedShadow (s : State) (f : Boot → Boot) : (modBoot s f).stagedShadow = s.stagedShadow := rfl
@[simp] theorem modBoot_readOut (s : State) (f : Boot → Boot) : (modBoot s f).readOut = s.readOut := rfl
@[simp] theorem modBoot_accepts (s : State) (f : Boot → Boot) : (modBoot s f).accepts = s.accepts := rfl
@[simp] theorem modBoot_free (s : State) (f : Boot → Boot) : (modBoot s f).free = s.free := rfl
@[simp] theorem modBoot_pending (s : State) (f : Boot → Boot) : (modBoot s f).pending = s.pending := rfl

/-! ## modPower -/

@[simp] theorem modPower_ident (s : State) (f : Power → Power) : (modPower s f).ident = s.ident := rfl
@[simp] theorem modPower_pins (s : State) (f : Power → Power) : (modPower s f).pins = s.pins := rfl
@[simp] theorem modPower_time (s : State) (f : Power → Power) : (modPower s f).time = s.time := rfl
@[simp] theorem modPower_mode (s : State) (f : Power → Power) : (modPower s f).mode = s.mode := rfl
@[simp] theorem modPower_power (s : State) (f : Power → Power) : (modPower s f).power = f s.power := rfl
@[simp] theorem modPower_lcores (s : State) (f : Power → Power) : (modPower s f).lcores = s.lcores := rfl
@[simp] theorem modPower_trios (s : State) (f : Power → Power) : (modPower s f).trios = s.trios := rfl
@[simp] theorem modPower_cores (s : State) (f : Power → Power) : (modPower s f).cores = s.cores := rfl
@[simp] theorem modPower_clocks (s : State) (f : Power → Power) : (modPower s f).clocks = s.clocks := rfl
@[simp] theorem modPower_coh (s : State) (f : Power → Power) : (modPower s f).coh = s.coh := rfl
@[simp] theorem modPower_mem (s : State) (f : Power → Power) : (modPower s f).mem = s.mem := rfl
@[simp] theorem modPower_stackTab (s : State) (f : Power → Power) : (modPower s f).stackTab = s.stackTab := rfl
@[simp] theorem modPower_cxl (s : State) (f : Power → Power) : (modPower s f).cxl = s.cxl := rfl
@[simp] theorem modPower_net (s : State) (f : Power → Power) : (modPower s f).net = s.net := rfl
@[simp] theorem modPower_chans (s : State) (f : Power → Power) : (modPower s f).chans = s.chans := rfl
@[simp] theorem modPower_groups (s : State) (f : Power → Power) : (modPower s f).groups = s.groups := rfl
@[simp] theorem modPower_rings (s : State) (f : Power → Power) : (modPower s f).rings = s.rings := rfl
@[simp] theorem modPower_exchs (s : State) (f : Power → Power) : (modPower s f).exchs = s.exchs := rfl
@[simp] theorem modPower_parts (s : State) (f : Power → Power) : (modPower s f).parts = s.parts := rfl
@[simp] theorem modPower_slices (s : State) (f : Power → Power) : (modPower s f).slices = s.slices := rfl
@[simp] theorem modPower_lastGen (s : State) (f : Power → Power) : (modPower s f).lastGen = s.lastGen := rfl
@[simp] theorem modPower_leaves (s : State) (f : Power → Power) : (modPower s f).leaves = s.leaves := rfl
@[simp] theorem modPower_invSlots (s : State) (f : Power → Power) : (modPower s f).invSlots = s.invSlots := rfl
@[simp] theorem modPower_engs (s : State) (f : Power → Power) : (modPower s f).engs = s.engs := rfl
@[simp] theorem modPower_eqs (s : State) (f : Power → Power) : (modPower s f).eqs = s.eqs := rfl
@[simp] theorem modPower_jobs (s : State) (f : Power → Power) : (modPower s f).jobs = s.jobs := rfl
@[simp] theorem modPower_husks (s : State) (f : Power → Power) : (modPower s f).husks = s.husks := rfl
@[simp] theorem modPower_events (s : State) (f : Power → Power) : (modPower s f).events = s.events := rfl
@[simp] theorem modPower_faults (s : State) (f : Power → Power) : (modPower s f).faults = s.faults := rfl
@[simp] theorem modPower_boot (s : State) (f : Power → Power) : (modPower s f).boot = s.boot := rfl
@[simp] theorem modPower_shadow (s : State) (f : Power → Power) : (modPower s f).shadow = s.shadow := rfl
@[simp] theorem modPower_stagedShadow (s : State) (f : Power → Power) : (modPower s f).stagedShadow = s.stagedShadow := rfl
@[simp] theorem modPower_readOut (s : State) (f : Power → Power) : (modPower s f).readOut = s.readOut := rfl
@[simp] theorem modPower_accepts (s : State) (f : Power → Power) : (modPower s f).accepts = s.accepts := rfl
@[simp] theorem modPower_free (s : State) (f : Power → Power) : (modPower s f).free = s.free := rfl
@[simp] theorem modPower_pending (s : State) (f : Power → Power) : (modPower s f).pending = s.pending := rfl

/-! ## modPins -/

@[simp] theorem modPins_ident (s : State) (f : Pins → Pins) : (modPins s f).ident = s.ident := rfl
@[simp] theorem modPins_pins (s : State) (f : Pins → Pins) : (modPins s f).pins = f s.pins := rfl
@[simp] theorem modPins_time (s : State) (f : Pins → Pins) : (modPins s f).time = s.time := rfl
@[simp] theorem modPins_mode (s : State) (f : Pins → Pins) : (modPins s f).mode = s.mode := rfl
@[simp] theorem modPins_power (s : State) (f : Pins → Pins) : (modPins s f).power = s.power := rfl
@[simp] theorem modPins_lcores (s : State) (f : Pins → Pins) : (modPins s f).lcores = s.lcores := rfl
@[simp] theorem modPins_trios (s : State) (f : Pins → Pins) : (modPins s f).trios = s.trios := rfl
@[simp] theorem modPins_cores (s : State) (f : Pins → Pins) : (modPins s f).cores = s.cores := rfl
@[simp] theorem modPins_clocks (s : State) (f : Pins → Pins) : (modPins s f).clocks = s.clocks := rfl
@[simp] theorem modPins_coh (s : State) (f : Pins → Pins) : (modPins s f).coh = s.coh := rfl
@[simp] theorem modPins_mem (s : State) (f : Pins → Pins) : (modPins s f).mem = s.mem := rfl
@[simp] theorem modPins_stackTab (s : State) (f : Pins → Pins) : (modPins s f).stackTab = s.stackTab := rfl
@[simp] theorem modPins_cxl (s : State) (f : Pins → Pins) : (modPins s f).cxl = s.cxl := rfl
@[simp] theorem modPins_net (s : State) (f : Pins → Pins) : (modPins s f).net = s.net := rfl
@[simp] theorem modPins_chans (s : State) (f : Pins → Pins) : (modPins s f).chans = s.chans := rfl
@[simp] theorem modPins_groups (s : State) (f : Pins → Pins) : (modPins s f).groups = s.groups := rfl
@[simp] theorem modPins_rings (s : State) (f : Pins → Pins) : (modPins s f).rings = s.rings := rfl
@[simp] theorem modPins_exchs (s : State) (f : Pins → Pins) : (modPins s f).exchs = s.exchs := rfl
@[simp] theorem modPins_parts (s : State) (f : Pins → Pins) : (modPins s f).parts = s.parts := rfl
@[simp] theorem modPins_slices (s : State) (f : Pins → Pins) : (modPins s f).slices = s.slices := rfl
@[simp] theorem modPins_lastGen (s : State) (f : Pins → Pins) : (modPins s f).lastGen = s.lastGen := rfl
@[simp] theorem modPins_leaves (s : State) (f : Pins → Pins) : (modPins s f).leaves = s.leaves := rfl
@[simp] theorem modPins_invSlots (s : State) (f : Pins → Pins) : (modPins s f).invSlots = s.invSlots := rfl
@[simp] theorem modPins_engs (s : State) (f : Pins → Pins) : (modPins s f).engs = s.engs := rfl
@[simp] theorem modPins_eqs (s : State) (f : Pins → Pins) : (modPins s f).eqs = s.eqs := rfl
@[simp] theorem modPins_jobs (s : State) (f : Pins → Pins) : (modPins s f).jobs = s.jobs := rfl
@[simp] theorem modPins_husks (s : State) (f : Pins → Pins) : (modPins s f).husks = s.husks := rfl
@[simp] theorem modPins_events (s : State) (f : Pins → Pins) : (modPins s f).events = s.events := rfl
@[simp] theorem modPins_faults (s : State) (f : Pins → Pins) : (modPins s f).faults = s.faults := rfl
@[simp] theorem modPins_boot (s : State) (f : Pins → Pins) : (modPins s f).boot = s.boot := rfl
@[simp] theorem modPins_shadow (s : State) (f : Pins → Pins) : (modPins s f).shadow = s.shadow := rfl
@[simp] theorem modPins_stagedShadow (s : State) (f : Pins → Pins) : (modPins s f).stagedShadow = s.stagedShadow := rfl
@[simp] theorem modPins_readOut (s : State) (f : Pins → Pins) : (modPins s f).readOut = s.readOut := rfl
@[simp] theorem modPins_accepts (s : State) (f : Pins → Pins) : (modPins s f).accepts = s.accepts := rfl
@[simp] theorem modPins_free (s : State) (f : Pins → Pins) : (modPins s f).free = s.free := rfl
@[simp] theorem modPins_pending (s : State) (f : Pins → Pins) : (modPins s f).pending = s.pending := rfl

/-! ## modTime -/

@[simp] theorem modTime_ident (s : State) (f : TimeB → TimeB) : (modTime s f).ident = s.ident := rfl
@[simp] theorem modTime_pins (s : State) (f : TimeB → TimeB) : (modTime s f).pins = s.pins := rfl
@[simp] theorem modTime_time (s : State) (f : TimeB → TimeB) : (modTime s f).time = f s.time := rfl
@[simp] theorem modTime_mode (s : State) (f : TimeB → TimeB) : (modTime s f).mode = s.mode := rfl
@[simp] theorem modTime_power (s : State) (f : TimeB → TimeB) : (modTime s f).power = s.power := rfl
@[simp] theorem modTime_lcores (s : State) (f : TimeB → TimeB) : (modTime s f).lcores = s.lcores := rfl
@[simp] theorem modTime_trios (s : State) (f : TimeB → TimeB) : (modTime s f).trios = s.trios := rfl
@[simp] theorem modTime_cores (s : State) (f : TimeB → TimeB) : (modTime s f).cores = s.cores := rfl
@[simp] theorem modTime_clocks (s : State) (f : TimeB → TimeB) : (modTime s f).clocks = s.clocks := rfl
@[simp] theorem modTime_coh (s : State) (f : TimeB → TimeB) : (modTime s f).coh = s.coh := rfl
@[simp] theorem modTime_mem (s : State) (f : TimeB → TimeB) : (modTime s f).mem = s.mem := rfl
@[simp] theorem modTime_stackTab (s : State) (f : TimeB → TimeB) : (modTime s f).stackTab = s.stackTab := rfl
@[simp] theorem modTime_cxl (s : State) (f : TimeB → TimeB) : (modTime s f).cxl = s.cxl := rfl
@[simp] theorem modTime_net (s : State) (f : TimeB → TimeB) : (modTime s f).net = s.net := rfl
@[simp] theorem modTime_chans (s : State) (f : TimeB → TimeB) : (modTime s f).chans = s.chans := rfl
@[simp] theorem modTime_groups (s : State) (f : TimeB → TimeB) : (modTime s f).groups = s.groups := rfl
@[simp] theorem modTime_rings (s : State) (f : TimeB → TimeB) : (modTime s f).rings = s.rings := rfl
@[simp] theorem modTime_exchs (s : State) (f : TimeB → TimeB) : (modTime s f).exchs = s.exchs := rfl
@[simp] theorem modTime_parts (s : State) (f : TimeB → TimeB) : (modTime s f).parts = s.parts := rfl
@[simp] theorem modTime_slices (s : State) (f : TimeB → TimeB) : (modTime s f).slices = s.slices := rfl
@[simp] theorem modTime_lastGen (s : State) (f : TimeB → TimeB) : (modTime s f).lastGen = s.lastGen := rfl
@[simp] theorem modTime_leaves (s : State) (f : TimeB → TimeB) : (modTime s f).leaves = s.leaves := rfl
@[simp] theorem modTime_invSlots (s : State) (f : TimeB → TimeB) : (modTime s f).invSlots = s.invSlots := rfl
@[simp] theorem modTime_engs (s : State) (f : TimeB → TimeB) : (modTime s f).engs = s.engs := rfl
@[simp] theorem modTime_eqs (s : State) (f : TimeB → TimeB) : (modTime s f).eqs = s.eqs := rfl
@[simp] theorem modTime_jobs (s : State) (f : TimeB → TimeB) : (modTime s f).jobs = s.jobs := rfl
@[simp] theorem modTime_husks (s : State) (f : TimeB → TimeB) : (modTime s f).husks = s.husks := rfl
@[simp] theorem modTime_events (s : State) (f : TimeB → TimeB) : (modTime s f).events = s.events := rfl
@[simp] theorem modTime_faults (s : State) (f : TimeB → TimeB) : (modTime s f).faults = s.faults := rfl
@[simp] theorem modTime_boot (s : State) (f : TimeB → TimeB) : (modTime s f).boot = s.boot := rfl
@[simp] theorem modTime_shadow (s : State) (f : TimeB → TimeB) : (modTime s f).shadow = s.shadow := rfl
@[simp] theorem modTime_stagedShadow (s : State) (f : TimeB → TimeB) : (modTime s f).stagedShadow = s.stagedShadow := rfl
@[simp] theorem modTime_readOut (s : State) (f : TimeB → TimeB) : (modTime s f).readOut = s.readOut := rfl
@[simp] theorem modTime_accepts (s : State) (f : TimeB → TimeB) : (modTime s f).accepts = s.accepts := rfl
@[simp] theorem modTime_free (s : State) (f : TimeB → TimeB) : (modTime s f).free = s.free := rfl
@[simp] theorem modTime_pending (s : State) (f : TimeB → TimeB) : (modTime s f).pending = s.pending := rfl

/-! ## modModeS -/

@[simp] theorem modModeS_ident (s : State) (f : ModeS → ModeS) : (modModeS s f).ident = s.ident := rfl
@[simp] theorem modModeS_pins (s : State) (f : ModeS → ModeS) : (modModeS s f).pins = s.pins := rfl
@[simp] theorem modModeS_time (s : State) (f : ModeS → ModeS) : (modModeS s f).time = s.time := rfl
@[simp] theorem modModeS_mode (s : State) (f : ModeS → ModeS) : (modModeS s f).mode = f s.mode := rfl
@[simp] theorem modModeS_power (s : State) (f : ModeS → ModeS) : (modModeS s f).power = s.power := rfl
@[simp] theorem modModeS_lcores (s : State) (f : ModeS → ModeS) : (modModeS s f).lcores = s.lcores := rfl
@[simp] theorem modModeS_trios (s : State) (f : ModeS → ModeS) : (modModeS s f).trios = s.trios := rfl
@[simp] theorem modModeS_cores (s : State) (f : ModeS → ModeS) : (modModeS s f).cores = s.cores := rfl
@[simp] theorem modModeS_clocks (s : State) (f : ModeS → ModeS) : (modModeS s f).clocks = s.clocks := rfl
@[simp] theorem modModeS_coh (s : State) (f : ModeS → ModeS) : (modModeS s f).coh = s.coh := rfl
@[simp] theorem modModeS_mem (s : State) (f : ModeS → ModeS) : (modModeS s f).mem = s.mem := rfl
@[simp] theorem modModeS_stackTab (s : State) (f : ModeS → ModeS) : (modModeS s f).stackTab = s.stackTab := rfl
@[simp] theorem modModeS_cxl (s : State) (f : ModeS → ModeS) : (modModeS s f).cxl = s.cxl := rfl
@[simp] theorem modModeS_net (s : State) (f : ModeS → ModeS) : (modModeS s f).net = s.net := rfl
@[simp] theorem modModeS_chans (s : State) (f : ModeS → ModeS) : (modModeS s f).chans = s.chans := rfl
@[simp] theorem modModeS_groups (s : State) (f : ModeS → ModeS) : (modModeS s f).groups = s.groups := rfl
@[simp] theorem modModeS_rings (s : State) (f : ModeS → ModeS) : (modModeS s f).rings = s.rings := rfl
@[simp] theorem modModeS_exchs (s : State) (f : ModeS → ModeS) : (modModeS s f).exchs = s.exchs := rfl
@[simp] theorem modModeS_parts (s : State) (f : ModeS → ModeS) : (modModeS s f).parts = s.parts := rfl
@[simp] theorem modModeS_slices (s : State) (f : ModeS → ModeS) : (modModeS s f).slices = s.slices := rfl
@[simp] theorem modModeS_lastGen (s : State) (f : ModeS → ModeS) : (modModeS s f).lastGen = s.lastGen := rfl
@[simp] theorem modModeS_leaves (s : State) (f : ModeS → ModeS) : (modModeS s f).leaves = s.leaves := rfl
@[simp] theorem modModeS_invSlots (s : State) (f : ModeS → ModeS) : (modModeS s f).invSlots = s.invSlots := rfl
@[simp] theorem modModeS_engs (s : State) (f : ModeS → ModeS) : (modModeS s f).engs = s.engs := rfl
@[simp] theorem modModeS_eqs (s : State) (f : ModeS → ModeS) : (modModeS s f).eqs = s.eqs := rfl
@[simp] theorem modModeS_jobs (s : State) (f : ModeS → ModeS) : (modModeS s f).jobs = s.jobs := rfl
@[simp] theorem modModeS_husks (s : State) (f : ModeS → ModeS) : (modModeS s f).husks = s.husks := rfl
@[simp] theorem modModeS_events (s : State) (f : ModeS → ModeS) : (modModeS s f).events = s.events := rfl
@[simp] theorem modModeS_faults (s : State) (f : ModeS → ModeS) : (modModeS s f).faults = s.faults := rfl
@[simp] theorem modModeS_boot (s : State) (f : ModeS → ModeS) : (modModeS s f).boot = s.boot := rfl
@[simp] theorem modModeS_shadow (s : State) (f : ModeS → ModeS) : (modModeS s f).shadow = s.shadow := rfl
@[simp] theorem modModeS_stagedShadow (s : State) (f : ModeS → ModeS) : (modModeS s f).stagedShadow = s.stagedShadow := rfl
@[simp] theorem modModeS_readOut (s : State) (f : ModeS → ModeS) : (modModeS s f).readOut = s.readOut := rfl
@[simp] theorem modModeS_accepts (s : State) (f : ModeS → ModeS) : (modModeS s f).accepts = s.accepts := rfl
@[simp] theorem modModeS_free (s : State) (f : ModeS → ModeS) : (modModeS s f).free = s.free := rfl
@[simp] theorem modModeS_pending (s : State) (f : ModeS → ModeS) : (modModeS s f).pending = s.pending := rfl

/-! ## modCoh -/

@[simp] theorem modCoh_ident (s : State) (f : Coh → Coh) : (modCoh s f).ident = s.ident := rfl
@[simp] theorem modCoh_pins (s : State) (f : Coh → Coh) : (modCoh s f).pins = s.pins := rfl
@[simp] theorem modCoh_time (s : State) (f : Coh → Coh) : (modCoh s f).time = s.time := rfl
@[simp] theorem modCoh_mode (s : State) (f : Coh → Coh) : (modCoh s f).mode = s.mode := rfl
@[simp] theorem modCoh_power (s : State) (f : Coh → Coh) : (modCoh s f).power = s.power := rfl
@[simp] theorem modCoh_lcores (s : State) (f : Coh → Coh) : (modCoh s f).lcores = s.lcores := rfl
@[simp] theorem modCoh_trios (s : State) (f : Coh → Coh) : (modCoh s f).trios = s.trios := rfl
@[simp] theorem modCoh_cores (s : State) (f : Coh → Coh) : (modCoh s f).cores = s.cores := rfl
@[simp] theorem modCoh_clocks (s : State) (f : Coh → Coh) : (modCoh s f).clocks = s.clocks := rfl
@[simp] theorem modCoh_coh (s : State) (f : Coh → Coh) : (modCoh s f).coh = f s.coh := rfl
@[simp] theorem modCoh_mem (s : State) (f : Coh → Coh) : (modCoh s f).mem = s.mem := rfl
@[simp] theorem modCoh_stackTab (s : State) (f : Coh → Coh) : (modCoh s f).stackTab = s.stackTab := rfl
@[simp] theorem modCoh_cxl (s : State) (f : Coh → Coh) : (modCoh s f).cxl = s.cxl := rfl
@[simp] theorem modCoh_net (s : State) (f : Coh → Coh) : (modCoh s f).net = s.net := rfl
@[simp] theorem modCoh_chans (s : State) (f : Coh → Coh) : (modCoh s f).chans = s.chans := rfl
@[simp] theorem modCoh_groups (s : State) (f : Coh → Coh) : (modCoh s f).groups = s.groups := rfl
@[simp] theorem modCoh_rings (s : State) (f : Coh → Coh) : (modCoh s f).rings = s.rings := rfl
@[simp] theorem modCoh_exchs (s : State) (f : Coh → Coh) : (modCoh s f).exchs = s.exchs := rfl
@[simp] theorem modCoh_parts (s : State) (f : Coh → Coh) : (modCoh s f).parts = s.parts := rfl
@[simp] theorem modCoh_slices (s : State) (f : Coh → Coh) : (modCoh s f).slices = s.slices := rfl
@[simp] theorem modCoh_lastGen (s : State) (f : Coh → Coh) : (modCoh s f).lastGen = s.lastGen := rfl
@[simp] theorem modCoh_leaves (s : State) (f : Coh → Coh) : (modCoh s f).leaves = s.leaves := rfl
@[simp] theorem modCoh_invSlots (s : State) (f : Coh → Coh) : (modCoh s f).invSlots = s.invSlots := rfl
@[simp] theorem modCoh_engs (s : State) (f : Coh → Coh) : (modCoh s f).engs = s.engs := rfl
@[simp] theorem modCoh_eqs (s : State) (f : Coh → Coh) : (modCoh s f).eqs = s.eqs := rfl
@[simp] theorem modCoh_jobs (s : State) (f : Coh → Coh) : (modCoh s f).jobs = s.jobs := rfl
@[simp] theorem modCoh_husks (s : State) (f : Coh → Coh) : (modCoh s f).husks = s.husks := rfl
@[simp] theorem modCoh_events (s : State) (f : Coh → Coh) : (modCoh s f).events = s.events := rfl
@[simp] theorem modCoh_faults (s : State) (f : Coh → Coh) : (modCoh s f).faults = s.faults := rfl
@[simp] theorem modCoh_boot (s : State) (f : Coh → Coh) : (modCoh s f).boot = s.boot := rfl
@[simp] theorem modCoh_shadow (s : State) (f : Coh → Coh) : (modCoh s f).shadow = s.shadow := rfl
@[simp] theorem modCoh_stagedShadow (s : State) (f : Coh → Coh) : (modCoh s f).stagedShadow = s.stagedShadow := rfl
@[simp] theorem modCoh_readOut (s : State) (f : Coh → Coh) : (modCoh s f).readOut = s.readOut := rfl
@[simp] theorem modCoh_accepts (s : State) (f : Coh → Coh) : (modCoh s f).accepts = s.accepts := rfl
@[simp] theorem modCoh_free (s : State) (f : Coh → Coh) : (modCoh s f).free = s.free := rfl
@[simp] theorem modCoh_pending (s : State) (f : Coh → Coh) : (modCoh s f).pending = s.pending := rfl

/-! ## modSource -/

@[simp] theorem modSource_ident (s : State) (e : Nat) (f : EvSource → EvSource) : (modSource s e f).ident = s.ident := rfl
@[simp] theorem modSource_pins (s : State) (e : Nat) (f : EvSource → EvSource) : (modSource s e f).pins = s.pins := rfl
@[simp] theorem modSource_time (s : State) (e : Nat) (f : EvSource → EvSource) : (modSource s e f).time = s.time := rfl
@[simp] theorem modSource_mode (s : State) (e : Nat) (f : EvSource → EvSource) : (modSource s e f).mode = s.mode := rfl
@[simp] theorem modSource_power (s : State) (e : Nat) (f : EvSource → EvSource) : (modSource s e f).power = s.power := rfl
@[simp] theorem modSource_lcores (s : State) (e : Nat) (f : EvSource → EvSource) : (modSource s e f).lcores = s.lcores := rfl
@[simp] theorem modSource_trios (s : State) (e : Nat) (f : EvSource → EvSource) : (modSource s e f).trios = s.trios := rfl
@[simp] theorem modSource_cores (s : State) (e : Nat) (f : EvSource → EvSource) : (modSource s e f).cores = s.cores := rfl
@[simp] theorem modSource_clocks (s : State) (e : Nat) (f : EvSource → EvSource) : (modSource s e f).clocks = s.clocks := rfl
@[simp] theorem modSource_coh (s : State) (e : Nat) (f : EvSource → EvSource) : (modSource s e f).coh = s.coh := rfl
@[simp] theorem modSource_mem (s : State) (e : Nat) (f : EvSource → EvSource) : (modSource s e f).mem = s.mem := rfl
@[simp] theorem modSource_stackTab (s : State) (e : Nat) (f : EvSource → EvSource) : (modSource s e f).stackTab = s.stackTab := rfl
@[simp] theorem modSource_cxl (s : State) (e : Nat) (f : EvSource → EvSource) : (modSource s e f).cxl = s.cxl := rfl
@[simp] theorem modSource_net (s : State) (e : Nat) (f : EvSource → EvSource) : (modSource s e f).net = s.net := rfl
@[simp] theorem modSource_chans (s : State) (e : Nat) (f : EvSource → EvSource) : (modSource s e f).chans = s.chans := rfl
@[simp] theorem modSource_groups (s : State) (e : Nat) (f : EvSource → EvSource) : (modSource s e f).groups = s.groups := rfl
@[simp] theorem modSource_rings (s : State) (e : Nat) (f : EvSource → EvSource) : (modSource s e f).rings = s.rings := rfl
@[simp] theorem modSource_exchs (s : State) (e : Nat) (f : EvSource → EvSource) : (modSource s e f).exchs = s.exchs := rfl
@[simp] theorem modSource_parts (s : State) (e : Nat) (f : EvSource → EvSource) : (modSource s e f).parts = s.parts := rfl
@[simp] theorem modSource_slices (s : State) (e : Nat) (f : EvSource → EvSource) : (modSource s e f).slices = s.slices := rfl
@[simp] theorem modSource_lastGen (s : State) (e : Nat) (f : EvSource → EvSource) : (modSource s e f).lastGen = s.lastGen := rfl
@[simp] theorem modSource_leaves (s : State) (e : Nat) (f : EvSource → EvSource) : (modSource s e f).leaves = s.leaves := rfl
@[simp] theorem modSource_invSlots (s : State) (e : Nat) (f : EvSource → EvSource) : (modSource s e f).invSlots = s.invSlots := rfl
@[simp] theorem modSource_engs (s : State) (e : Nat) (f : EvSource → EvSource) : (modSource s e f).engs = s.engs := rfl
@[simp] theorem modSource_eqs (s : State) (e : Nat) (f : EvSource → EvSource) : (modSource s e f).eqs = s.eqs := rfl
@[simp] theorem modSource_jobs (s : State) (e : Nat) (f : EvSource → EvSource) : (modSource s e f).jobs = s.jobs := rfl
@[simp] theorem modSource_husks (s : State) (e : Nat) (f : EvSource → EvSource) : (modSource s e f).husks = s.husks := rfl
@[simp] theorem modSource_events (s : State) (e : Nat) (f : EvSource → EvSource) : (modSource s e f).events = { s.events with sources := tmod {} s.events.sources e f } := rfl
@[simp] theorem modSource_faults (s : State) (e : Nat) (f : EvSource → EvSource) : (modSource s e f).faults = s.faults := rfl
@[simp] theorem modSource_boot (s : State) (e : Nat) (f : EvSource → EvSource) : (modSource s e f).boot = s.boot := rfl
@[simp] theorem modSource_shadow (s : State) (e : Nat) (f : EvSource → EvSource) : (modSource s e f).shadow = s.shadow := rfl
@[simp] theorem modSource_stagedShadow (s : State) (e : Nat) (f : EvSource → EvSource) : (modSource s e f).stagedShadow = s.stagedShadow := rfl
@[simp] theorem modSource_readOut (s : State) (e : Nat) (f : EvSource → EvSource) : (modSource s e f).readOut = s.readOut := rfl
@[simp] theorem modSource_accepts (s : State) (e : Nat) (f : EvSource → EvSource) : (modSource s e f).accepts = s.accepts := rfl
@[simp] theorem modSource_free (s : State) (e : Nat) (f : EvSource → EvSource) : (modSource s e f).free = s.free := rfl
@[simp] theorem modSource_pending (s : State) (e : Nat) (f : EvSource → EvSource) : (modSource s e f).pending = s.pending := rfl

/-! ## modMailbox -/

@[simp] theorem modMailbox_ident (s : State) (m : Nat) (f : Mailbox → Mailbox) : (modMailbox s m f).ident = s.ident := rfl
@[simp] theorem modMailbox_pins (s : State) (m : Nat) (f : Mailbox → Mailbox) : (modMailbox s m f).pins = s.pins := rfl
@[simp] theorem modMailbox_time (s : State) (m : Nat) (f : Mailbox → Mailbox) : (modMailbox s m f).time = s.time := rfl
@[simp] theorem modMailbox_mode (s : State) (m : Nat) (f : Mailbox → Mailbox) : (modMailbox s m f).mode = s.mode := rfl
@[simp] theorem modMailbox_power (s : State) (m : Nat) (f : Mailbox → Mailbox) : (modMailbox s m f).power = s.power := rfl
@[simp] theorem modMailbox_lcores (s : State) (m : Nat) (f : Mailbox → Mailbox) : (modMailbox s m f).lcores = s.lcores := rfl
@[simp] theorem modMailbox_trios (s : State) (m : Nat) (f : Mailbox → Mailbox) : (modMailbox s m f).trios = s.trios := rfl
@[simp] theorem modMailbox_cores (s : State) (m : Nat) (f : Mailbox → Mailbox) : (modMailbox s m f).cores = s.cores := rfl
@[simp] theorem modMailbox_clocks (s : State) (m : Nat) (f : Mailbox → Mailbox) : (modMailbox s m f).clocks = s.clocks := rfl
@[simp] theorem modMailbox_coh (s : State) (m : Nat) (f : Mailbox → Mailbox) : (modMailbox s m f).coh = s.coh := rfl
@[simp] theorem modMailbox_mem (s : State) (m : Nat) (f : Mailbox → Mailbox) : (modMailbox s m f).mem = s.mem := rfl
@[simp] theorem modMailbox_stackTab (s : State) (m : Nat) (f : Mailbox → Mailbox) : (modMailbox s m f).stackTab = s.stackTab := rfl
@[simp] theorem modMailbox_cxl (s : State) (m : Nat) (f : Mailbox → Mailbox) : (modMailbox s m f).cxl = s.cxl := rfl
@[simp] theorem modMailbox_net (s : State) (m : Nat) (f : Mailbox → Mailbox) : (modMailbox s m f).net = s.net := rfl
@[simp] theorem modMailbox_chans (s : State) (m : Nat) (f : Mailbox → Mailbox) : (modMailbox s m f).chans = s.chans := rfl
@[simp] theorem modMailbox_groups (s : State) (m : Nat) (f : Mailbox → Mailbox) : (modMailbox s m f).groups = s.groups := rfl
@[simp] theorem modMailbox_rings (s : State) (m : Nat) (f : Mailbox → Mailbox) : (modMailbox s m f).rings = s.rings := rfl
@[simp] theorem modMailbox_exchs (s : State) (m : Nat) (f : Mailbox → Mailbox) : (modMailbox s m f).exchs = s.exchs := rfl
@[simp] theorem modMailbox_parts (s : State) (m : Nat) (f : Mailbox → Mailbox) : (modMailbox s m f).parts = s.parts := rfl
@[simp] theorem modMailbox_slices (s : State) (m : Nat) (f : Mailbox → Mailbox) : (modMailbox s m f).slices = s.slices := rfl
@[simp] theorem modMailbox_lastGen (s : State) (m : Nat) (f : Mailbox → Mailbox) : (modMailbox s m f).lastGen = s.lastGen := rfl
@[simp] theorem modMailbox_leaves (s : State) (m : Nat) (f : Mailbox → Mailbox) : (modMailbox s m f).leaves = s.leaves := rfl
@[simp] theorem modMailbox_invSlots (s : State) (m : Nat) (f : Mailbox → Mailbox) : (modMailbox s m f).invSlots = s.invSlots := rfl
@[simp] theorem modMailbox_engs (s : State) (m : Nat) (f : Mailbox → Mailbox) : (modMailbox s m f).engs = s.engs := rfl
@[simp] theorem modMailbox_eqs (s : State) (m : Nat) (f : Mailbox → Mailbox) : (modMailbox s m f).eqs = s.eqs := rfl
@[simp] theorem modMailbox_jobs (s : State) (m : Nat) (f : Mailbox → Mailbox) : (modMailbox s m f).jobs = s.jobs := rfl
@[simp] theorem modMailbox_husks (s : State) (m : Nat) (f : Mailbox → Mailbox) : (modMailbox s m f).husks = s.husks := rfl
@[simp] theorem modMailbox_events (s : State) (m : Nat) (f : Mailbox → Mailbox) : (modMailbox s m f).events = { s.events with mailboxes := tmod {} s.events.mailboxes m f } := rfl
@[simp] theorem modMailbox_faults (s : State) (m : Nat) (f : Mailbox → Mailbox) : (modMailbox s m f).faults = s.faults := rfl
@[simp] theorem modMailbox_boot (s : State) (m : Nat) (f : Mailbox → Mailbox) : (modMailbox s m f).boot = s.boot := rfl
@[simp] theorem modMailbox_shadow (s : State) (m : Nat) (f : Mailbox → Mailbox) : (modMailbox s m f).shadow = s.shadow := rfl
@[simp] theorem modMailbox_stagedShadow (s : State) (m : Nat) (f : Mailbox → Mailbox) : (modMailbox s m f).stagedShadow = s.stagedShadow := rfl
@[simp] theorem modMailbox_readOut (s : State) (m : Nat) (f : Mailbox → Mailbox) : (modMailbox s m f).readOut = s.readOut := rfl
@[simp] theorem modMailbox_accepts (s : State) (m : Nat) (f : Mailbox → Mailbox) : (modMailbox s m f).accepts = s.accepts := rfl
@[simp] theorem modMailbox_free (s : State) (m : Nat) (f : Mailbox → Mailbox) : (modMailbox s m f).free = s.free := rfl
@[simp] theorem modMailbox_pending (s : State) (m : Nat) (f : Mailbox → Mailbox) : (modMailbox s m f).pending = s.pending := rfl

/-! ## modBlock -/

@[simp] theorem modBlock_ident (s : State) (c k : Nat) (f : SendBlock → SendBlock) : (modBlock s c k f).ident = s.ident := rfl
@[simp] theorem modBlock_pins (s : State) (c k : Nat) (f : SendBlock → SendBlock) : (modBlock s c k f).pins = s.pins := rfl
@[simp] theorem modBlock_time (s : State) (c k : Nat) (f : SendBlock → SendBlock) : (modBlock s c k f).time = s.time := rfl
@[simp] theorem modBlock_mode (s : State) (c k : Nat) (f : SendBlock → SendBlock) : (modBlock s c k f).mode = s.mode := rfl
@[simp] theorem modBlock_power (s : State) (c k : Nat) (f : SendBlock → SendBlock) : (modBlock s c k f).power = s.power := rfl
@[simp] theorem modBlock_lcores (s : State) (c k : Nat) (f : SendBlock → SendBlock) : (modBlock s c k f).lcores = s.lcores := rfl
@[simp] theorem modBlock_trios (s : State) (c k : Nat) (f : SendBlock → SendBlock) : (modBlock s c k f).trios = s.trios := rfl
@[simp] theorem modBlock_cores (s : State) (c k : Nat) (f : SendBlock → SendBlock) : (modBlock s c k f).cores = s.cores := rfl
@[simp] theorem modBlock_clocks (s : State) (c k : Nat) (f : SendBlock → SendBlock) : (modBlock s c k f).clocks = s.clocks := rfl
@[simp] theorem modBlock_coh (s : State) (c k : Nat) (f : SendBlock → SendBlock) : (modBlock s c k f).coh = s.coh := rfl
@[simp] theorem modBlock_mem (s : State) (c k : Nat) (f : SendBlock → SendBlock) : (modBlock s c k f).mem = s.mem := rfl
@[simp] theorem modBlock_stackTab (s : State) (c k : Nat) (f : SendBlock → SendBlock) : (modBlock s c k f).stackTab = s.stackTab := rfl
@[simp] theorem modBlock_cxl (s : State) (c k : Nat) (f : SendBlock → SendBlock) : (modBlock s c k f).cxl = s.cxl := rfl
@[simp] theorem modBlock_net (s : State) (c k : Nat) (f : SendBlock → SendBlock) : (modBlock s c k f).net = s.net := rfl
@[simp] theorem modBlock_chans (s : State) (c k : Nat) (f : SendBlock → SendBlock) : (modBlock s c k f).chans = s.chans := rfl
@[simp] theorem modBlock_groups (s : State) (c k : Nat) (f : SendBlock → SendBlock) : (modBlock s c k f).groups = s.groups := rfl
@[simp] theorem modBlock_rings (s : State) (c k : Nat) (f : SendBlock → SendBlock) : (modBlock s c k f).rings = s.rings := rfl
@[simp] theorem modBlock_exchs (s : State) (c k : Nat) (f : SendBlock → SendBlock) : (modBlock s c k f).exchs = s.exchs := rfl
@[simp] theorem modBlock_parts (s : State) (c k : Nat) (f : SendBlock → SendBlock) : (modBlock s c k f).parts = s.parts := rfl
@[simp] theorem modBlock_slices (s : State) (c k : Nat) (f : SendBlock → SendBlock) : (modBlock s c k f).slices = s.slices := rfl
@[simp] theorem modBlock_lastGen (s : State) (c k : Nat) (f : SendBlock → SendBlock) : (modBlock s c k f).lastGen = s.lastGen := rfl
@[simp] theorem modBlock_leaves (s : State) (c k : Nat) (f : SendBlock → SendBlock) : (modBlock s c k f).leaves = s.leaves := rfl
@[simp] theorem modBlock_invSlots (s : State) (c k : Nat) (f : SendBlock → SendBlock) : (modBlock s c k f).invSlots = s.invSlots := rfl
@[simp] theorem modBlock_engs (s : State) (c k : Nat) (f : SendBlock → SendBlock) : (modBlock s c k f).engs = s.engs := rfl
@[simp] theorem modBlock_eqs (s : State) (c k : Nat) (f : SendBlock → SendBlock) : (modBlock s c k f).eqs = s.eqs := rfl
@[simp] theorem modBlock_jobs (s : State) (c k : Nat) (f : SendBlock → SendBlock) : (modBlock s c k f).jobs = s.jobs := rfl
@[simp] theorem modBlock_husks (s : State) (c k : Nat) (f : SendBlock → SendBlock) : (modBlock s c k f).husks = s.husks := rfl
@[simp] theorem modBlock_events (s : State) (c k : Nat) (f : SendBlock → SendBlock) : (modBlock s c k f).events = { s.events with blocks := tmod {} s.events.blocks (c * 32 + k) f } := rfl
@[simp] theorem modBlock_faults (s : State) (c k : Nat) (f : SendBlock → SendBlock) : (modBlock s c k f).faults = s.faults := rfl
@[simp] theorem modBlock_boot (s : State) (c k : Nat) (f : SendBlock → SendBlock) : (modBlock s c k f).boot = s.boot := rfl
@[simp] theorem modBlock_shadow (s : State) (c k : Nat) (f : SendBlock → SendBlock) : (modBlock s c k f).shadow = s.shadow := rfl
@[simp] theorem modBlock_stagedShadow (s : State) (c k : Nat) (f : SendBlock → SendBlock) : (modBlock s c k f).stagedShadow = s.stagedShadow := rfl
@[simp] theorem modBlock_readOut (s : State) (c k : Nat) (f : SendBlock → SendBlock) : (modBlock s c k f).readOut = s.readOut := rfl
@[simp] theorem modBlock_accepts (s : State) (c k : Nat) (f : SendBlock → SendBlock) : (modBlock s c k f).accepts = s.accepts := rfl
@[simp] theorem modBlock_free (s : State) (c k : Nat) (f : SendBlock → SendBlock) : (modBlock s c k f).free = s.free := rfl
@[simp] theorem modBlock_pending (s : State) (c k : Nat) (f : SendBlock → SendBlock) : (modBlock s c k f).pending = s.pending := rfl

/-! ## modExch -/

@[simp] theorem modExch_ident (s : State) (x : ExId) (f : Exch → Exch) : (modExch s x f).ident = s.ident := rfl
@[simp] theorem modExch_pins (s : State) (x : ExId) (f : Exch → Exch) : (modExch s x f).pins = s.pins := rfl
@[simp] theorem modExch_time (s : State) (x : ExId) (f : Exch → Exch) : (modExch s x f).time = s.time := rfl
@[simp] theorem modExch_mode (s : State) (x : ExId) (f : Exch → Exch) : (modExch s x f).mode = s.mode := rfl
@[simp] theorem modExch_power (s : State) (x : ExId) (f : Exch → Exch) : (modExch s x f).power = s.power := rfl
@[simp] theorem modExch_lcores (s : State) (x : ExId) (f : Exch → Exch) : (modExch s x f).lcores = s.lcores := rfl
@[simp] theorem modExch_trios (s : State) (x : ExId) (f : Exch → Exch) : (modExch s x f).trios = s.trios := rfl
@[simp] theorem modExch_cores (s : State) (x : ExId) (f : Exch → Exch) : (modExch s x f).cores = s.cores := rfl
@[simp] theorem modExch_clocks (s : State) (x : ExId) (f : Exch → Exch) : (modExch s x f).clocks = s.clocks := rfl
@[simp] theorem modExch_coh (s : State) (x : ExId) (f : Exch → Exch) : (modExch s x f).coh = s.coh := rfl
@[simp] theorem modExch_mem (s : State) (x : ExId) (f : Exch → Exch) : (modExch s x f).mem = s.mem := rfl
@[simp] theorem modExch_stackTab (s : State) (x : ExId) (f : Exch → Exch) : (modExch s x f).stackTab = s.stackTab := rfl
@[simp] theorem modExch_cxl (s : State) (x : ExId) (f : Exch → Exch) : (modExch s x f).cxl = s.cxl := rfl
@[simp] theorem modExch_net (s : State) (x : ExId) (f : Exch → Exch) : (modExch s x f).net = s.net := rfl
@[simp] theorem modExch_chans (s : State) (x : ExId) (f : Exch → Exch) : (modExch s x f).chans = s.chans := rfl
@[simp] theorem modExch_groups (s : State) (x : ExId) (f : Exch → Exch) : (modExch s x f).groups = s.groups := rfl
@[simp] theorem modExch_rings (s : State) (x : ExId) (f : Exch → Exch) : (modExch s x f).rings = s.rings := rfl
@[simp] theorem modExch_exchs (s : State) (x : ExId) (f : Exch → Exch) : (modExch s x f).exchs = s.exchs.map (fun e => if e.id = x then f e else e) := rfl
@[simp] theorem modExch_parts (s : State) (x : ExId) (f : Exch → Exch) : (modExch s x f).parts = s.parts := rfl
@[simp] theorem modExch_slices (s : State) (x : ExId) (f : Exch → Exch) : (modExch s x f).slices = s.slices := rfl
@[simp] theorem modExch_lastGen (s : State) (x : ExId) (f : Exch → Exch) : (modExch s x f).lastGen = s.lastGen := rfl
@[simp] theorem modExch_leaves (s : State) (x : ExId) (f : Exch → Exch) : (modExch s x f).leaves = s.leaves := rfl
@[simp] theorem modExch_invSlots (s : State) (x : ExId) (f : Exch → Exch) : (modExch s x f).invSlots = s.invSlots := rfl
@[simp] theorem modExch_engs (s : State) (x : ExId) (f : Exch → Exch) : (modExch s x f).engs = s.engs := rfl
@[simp] theorem modExch_eqs (s : State) (x : ExId) (f : Exch → Exch) : (modExch s x f).eqs = s.eqs := rfl
@[simp] theorem modExch_jobs (s : State) (x : ExId) (f : Exch → Exch) : (modExch s x f).jobs = s.jobs := rfl
@[simp] theorem modExch_husks (s : State) (x : ExId) (f : Exch → Exch) : (modExch s x f).husks = s.husks := rfl
@[simp] theorem modExch_events (s : State) (x : ExId) (f : Exch → Exch) : (modExch s x f).events = s.events := rfl
@[simp] theorem modExch_faults (s : State) (x : ExId) (f : Exch → Exch) : (modExch s x f).faults = s.faults := rfl
@[simp] theorem modExch_boot (s : State) (x : ExId) (f : Exch → Exch) : (modExch s x f).boot = s.boot := rfl
@[simp] theorem modExch_shadow (s : State) (x : ExId) (f : Exch → Exch) : (modExch s x f).shadow = s.shadow := rfl
@[simp] theorem modExch_stagedShadow (s : State) (x : ExId) (f : Exch → Exch) : (modExch s x f).stagedShadow = s.stagedShadow := rfl
@[simp] theorem modExch_readOut (s : State) (x : ExId) (f : Exch → Exch) : (modExch s x f).readOut = s.readOut := rfl
@[simp] theorem modExch_accepts (s : State) (x : ExId) (f : Exch → Exch) : (modExch s x f).accepts = s.accepts := rfl
@[simp] theorem modExch_free (s : State) (x : ExId) (f : Exch → Exch) : (modExch s x f).free = s.free := rfl
@[simp] theorem modExch_pending (s : State) (x : ExId) (f : Exch → Exch) : (modExch s x f).pending = s.pending := rfl

/-! ## modJob -/

@[simp] theorem modJob_ident (s : State) (j : JobId) (f : Job → Job) : (modJob s j f).ident = s.ident := rfl
@[simp] theorem modJob_pins (s : State) (j : JobId) (f : Job → Job) : (modJob s j f).pins = s.pins := rfl
@[simp] theorem modJob_time (s : State) (j : JobId) (f : Job → Job) : (modJob s j f).time = s.time := rfl
@[simp] theorem modJob_mode (s : State) (j : JobId) (f : Job → Job) : (modJob s j f).mode = s.mode := rfl
@[simp] theorem modJob_power (s : State) (j : JobId) (f : Job → Job) : (modJob s j f).power = s.power := rfl
@[simp] theorem modJob_lcores (s : State) (j : JobId) (f : Job → Job) : (modJob s j f).lcores = s.lcores := rfl
@[simp] theorem modJob_trios (s : State) (j : JobId) (f : Job → Job) : (modJob s j f).trios = s.trios := rfl
@[simp] theorem modJob_cores (s : State) (j : JobId) (f : Job → Job) : (modJob s j f).cores = s.cores := rfl
@[simp] theorem modJob_clocks (s : State) (j : JobId) (f : Job → Job) : (modJob s j f).clocks = s.clocks := rfl
@[simp] theorem modJob_coh (s : State) (j : JobId) (f : Job → Job) : (modJob s j f).coh = s.coh := rfl
@[simp] theorem modJob_mem (s : State) (j : JobId) (f : Job → Job) : (modJob s j f).mem = s.mem := rfl
@[simp] theorem modJob_stackTab (s : State) (j : JobId) (f : Job → Job) : (modJob s j f).stackTab = s.stackTab := rfl
@[simp] theorem modJob_cxl (s : State) (j : JobId) (f : Job → Job) : (modJob s j f).cxl = s.cxl := rfl
@[simp] theorem modJob_net (s : State) (j : JobId) (f : Job → Job) : (modJob s j f).net = s.net := rfl
@[simp] theorem modJob_chans (s : State) (j : JobId) (f : Job → Job) : (modJob s j f).chans = s.chans := rfl
@[simp] theorem modJob_groups (s : State) (j : JobId) (f : Job → Job) : (modJob s j f).groups = s.groups := rfl
@[simp] theorem modJob_rings (s : State) (j : JobId) (f : Job → Job) : (modJob s j f).rings = s.rings := rfl
@[simp] theorem modJob_exchs (s : State) (j : JobId) (f : Job → Job) : (modJob s j f).exchs = s.exchs := rfl
@[simp] theorem modJob_parts (s : State) (j : JobId) (f : Job → Job) : (modJob s j f).parts = s.parts := rfl
@[simp] theorem modJob_slices (s : State) (j : JobId) (f : Job → Job) : (modJob s j f).slices = s.slices := rfl
@[simp] theorem modJob_lastGen (s : State) (j : JobId) (f : Job → Job) : (modJob s j f).lastGen = s.lastGen := rfl
@[simp] theorem modJob_leaves (s : State) (j : JobId) (f : Job → Job) : (modJob s j f).leaves = s.leaves := rfl
@[simp] theorem modJob_invSlots (s : State) (j : JobId) (f : Job → Job) : (modJob s j f).invSlots = s.invSlots := rfl
@[simp] theorem modJob_engs (s : State) (j : JobId) (f : Job → Job) : (modJob s j f).engs = s.engs := rfl
@[simp] theorem modJob_eqs (s : State) (j : JobId) (f : Job → Job) : (modJob s j f).eqs = s.eqs := rfl
@[simp] theorem modJob_jobs (s : State) (j : JobId) (f : Job → Job) : (modJob s j f).jobs = s.jobs.map (fun e => if e.id = j then f e else e) := rfl
@[simp] theorem modJob_husks (s : State) (j : JobId) (f : Job → Job) : (modJob s j f).husks = s.husks := rfl
@[simp] theorem modJob_events (s : State) (j : JobId) (f : Job → Job) : (modJob s j f).events = s.events := rfl
@[simp] theorem modJob_faults (s : State) (j : JobId) (f : Job → Job) : (modJob s j f).faults = s.faults := rfl
@[simp] theorem modJob_boot (s : State) (j : JobId) (f : Job → Job) : (modJob s j f).boot = s.boot := rfl
@[simp] theorem modJob_shadow (s : State) (j : JobId) (f : Job → Job) : (modJob s j f).shadow = s.shadow := rfl
@[simp] theorem modJob_stagedShadow (s : State) (j : JobId) (f : Job → Job) : (modJob s j f).stagedShadow = s.stagedShadow := rfl
@[simp] theorem modJob_readOut (s : State) (j : JobId) (f : Job → Job) : (modJob s j f).readOut = s.readOut := rfl
@[simp] theorem modJob_accepts (s : State) (j : JobId) (f : Job → Job) : (modJob s j f).accepts = s.accepts := rfl
@[simp] theorem modJob_free (s : State) (j : JobId) (f : Job → Job) : (modJob s j f).free = s.free := rfl
@[simp] theorem modJob_pending (s : State) (j : JobId) (f : Job → Job) : (modJob s j f).pending = s.pending := rfl

end Sys2Proof.Machine
end

