-- ==== Sys2Proof/Laws/Task.lean ====
section
/-! SUPPORT. What the issue of an instruction does, said once for each way of issue; register reads after writes. -/

namespace Sys2Proof.Machine

set_option Elab.async false

/-! ## Registers -/

@[simp] theorem gread_zero (t : TaskSet) : gread t 0 = TWord.mkRaw 0#64 := rfl
@[simp] theorem gwrite_zero (t : TaskSet) (w : TWord) : gwrite t 0 w = t := rfl

theorem gread_gwrite (t : TaskSet) (r q : Nat) (w : TWord) :
    gread (gwrite t r w) q = if q = r ∧ r ≠ 0 then w else gread t q := by
  by_cases hq : q = 0
  · subst hq
    by_cases hr : r = 0
    · subst hr; simp
    · have : ¬(0 = r ∧ r ≠ 0) := fun h => hr h.1.symm
      simp [gread, this]
  · by_cases hr : r = 0
    · subst hr; simp
    · by_cases h : q = r
      · subst h; simp [gread, gwrite, hq]
      · simp [gread, gwrite, hq, hr, tget_tset, h]

@[simp] theorem gwrite_pc (t : TaskSet) (r : Nat) (w : TWord) : (gwrite t r w).pc = t.pc := by unfold gwrite; split <;> rfl
@[simp] theorem gwrite_v (t : TaskSet) (r : Nat) (w : TWord) : (gwrite t r w).v = t.v := by unfold gwrite; split <;> rfl
@[simp] theorem gwrite_tstat (t : TaskSet) (r : Nat) (w : TWord) : (gwrite t r w).tstat = t.tstat := by
  unfold gwrite; split <;> rfl
@[simp] theorem gwrite_tepc (t : TaskSet) (r : Nat) (w : TWord) : (gwrite t r w).tepc = t.tepc := by
  unfold gwrite; split <;> rfl
@[simp] theorem gwrite_tinfo (t : TaskSet) (r : Nat) (w : TWord) : (gwrite t r w).tinfo = t.tinfo := by
  unfold gwrite; split <;> rfl
@[simp] theorem gwrite_tcause (t : TaskSet) (r : Nat) (w : TWord) : (gwrite t r w).tcause = t.tcause := by
  unfold gwrite; split <;> rfl
@[simp] theorem gwrite_fstat (t : TaskSet) (r : Nat) (w : TWord) : (gwrite t r w).fstat = t.fstat := by
  unfold gwrite; split <;> rfl
@[simp] theorem gwrite_fepc (t : TaskSet) (r : Nat) (w : TWord) : (gwrite t r w).fepc = t.fepc := by
  unfold gwrite; split <;> rfl
@[simp] theorem gwrite_tvec (t : TaskSet) (r : Nat) (w : TWord) : (gwrite t r w).tvec = t.tvec := by
  unfold gwrite; split <;> rfl

/-! ## Sets of a core -/

theorem lcore_modLCore (s : State) (c d : Nat) (f : LCore → LCore) :
    lcore (modLCore s c f) d = if d = c then f (lcore s c) else lcore s d := by
  simp [lcore, tget_tmod]

@[simp] theorem lcore_modLCore_same (s : State) (c : Nat) (f : LCore → LCore) : lcore (modLCore s c f) c = f (lcore s c) := by
  simp [lcore_modLCore]

theorem taskSet_modSet (s : State) (c k d j : Nat) (f : TaskSet → TaskSet) :
    taskSet (modSet s c k f) d j = if d = c ∧ j = k then f (taskSet s c k) else taskSet s d j := by
  by_cases hd : d = c
  · subst hd; by_cases hj : j = k <;> simp [taskSet, modSet, tget_tmod, hj]
  · simp [taskSet, modSet, lcore_modLCore, hd]

@[simp] theorem modSet_cur (s : State) (c k d : Nat) (f : TaskSet → TaskSet) :
    (lcore (modSet s c k f) d).cur = (lcore s d).cur := by
  by_cases h : d = c
  · subst h; simp [modSet]
  · simp [modSet, lcore_modLCore, h]

@[simp] theorem curSet_modCur (s : State) (c : Nat) (f : TaskSet → TaskSet) : curSet (modCur s c f) c = f (curSet s c) := by
  simp [curSet, modCur, taskSet_modSet]

/-! ## The fetch of the next instruction -/

theorem l1Put_frame (s : State) (ln n : Nat) :
    ∃ l fr, l1Put ln true s n = { s with coh := { s.coh with l1i := l }, free := fr } := by
  simp only [l1Put, if_true]
  split
  · exact ⟨_, _, rfl⟩
  · split <;> exact ⟨_, _, rfl⟩

/-- A fill of the instruction L1 writes those arrays and takes free values for its victims; nothing else. -/
theorem l1Into_frame (s : State) (a ln : Nat) :
    ∃ l fr, l1Into s a ln true = { s with coh := { s.coh with l1i := l }, free := fr } := by
  unfold l1Into
  generalize l1Members s a = ns
  induction ns generalizing s with
  | nil => exact ⟨_, _, rfl⟩
  | cons n ns ih =>
    obtain ⟨l, fr, h⟩ := ih (l1Put ln true s n)
    obtain ⟨l1, fr1, h1⟩ := l1Put_frame s ln n
    exact ⟨l, fr, h.trans (by rw [h1])⟩

theorem fetchNext_frame (s : State) (c : Nat) :
    ∃ l fr, fetchNext s c = { s with coh := { s.coh with l1i := l }, free := fr } := by
  simp only [fetchNext]
  split
  · split
    · exact l1Into_frame _ _ _
    · exact ⟨_, _, rfl⟩
  · exact ⟨_, _, rfl⟩

/-- The retire point moves; beside it only the instruction L1 and the free values do. -/
theorem advance_frame (s : State) (c : Nat) : ∃ l fr, advance s c =
    { modLCore s c (fun l => { l with retired := l.retired + 1 }) with coh := { s.coh with l1i := l }, free := fr } :=
  fetchNext_frame _ c

theorem lcore_advance (s : State) (c d : Nat) :
    lcore (advance s c) d = lcore (modLCore s c (fun l => { l with retired := l.retired + 1 })) d := by
  obtain ⟨l, fr, h⟩ := advance_frame s c
  rw [h]; rfl

theorem taskSet_advance (s : State) (c d j : Nat) : taskSet (advance s c) d j = taskSet s d j := by
  simp only [taskSet, lcore_advance, lcore_modLCore]
  split
  · subst_vars; rfl
  · rfl

/-! ## Issue -/

theorem issue_ok {s : State} {c : Nat} {z : Size} {body : State → Ex State} {s1 : State} (h : ready s c = true)
    (hb : body s = .ok s1) : issue s c z body = retire s1 c (lcore s c).cur := by
  simp only [ready, Bool.and_eq_true, Bool.not_eq_true'] at h
  simp [issue, h, hb]

theorem issue_error {s : State} {c : Nat} {z : Size} {body : State → Ex State} {r : TrapRec} (h : ready s c = true)
    (hb : body s = .error r) : issue s c z body = raiseTrap s c z r := by
  simp only [ready, Bool.and_eq_true, Bool.not_eq_true'] at h
  simp [issue, h, hb]

theorem issue_stopped {s : State} {c : Nat} (z : Size) (body : State → Ex State) (h : runs s c = false) :
    issue s c z body = s := by simp [issue, h]

theorem issueSet_ok {s : State} {c : Nat} {z : Size} {f : TaskSet → Ex TaskSet} {t : TaskSet} (h : ready s c = true)
    (hb : f (curSet s c) = .ok t) : issueSet s c z f = passed s c z t :=
  issue_ok h (s1 := modCur s c fun _ => pastPc t z) (by simp only [hb]; rfl)

theorem issueSet_error {s : State} {c : Nat} {z : Size} {f : TaskSet → Ex TaskSet} {r : TrapRec} (h : ready s c = true)
    (hb : f (curSet s c) = .error r) : issueSet s c z f = raiseTrap s c z r :=
  issue_error h (by simp only [hb]; rfl)

theorem issuePc_ok {s : State} {c : Nat} {z : Size} {f : TaskSet → Ex TaskSet} {t : TaskSet} (h : ready s c = true)
    (hb : f (curSet s c) = .ok t) : issuePc s c z f = retired s c t :=
  issue_ok h (s1 := modCur s c fun _ => t) (by simp only [hb]; rfl)

theorem issuePc_error {s : State} {c : Nat} {z : Size} {f : TaskSet → Ex TaskSet} {r : TrapRec} (h : ready s c = true)
    (hb : f (curSet s c) = .error r) : issuePc s c z f = raiseTrap s c z r :=
  issue_error h (by simp only [hb]; rfl)

theorem issueNext_ok {s : State} {c : Nat} {z : Size} {body : State → Ex State} {s1 : State} (h : ready s c = true)
    (hb : body s = .ok s1) :
    issueNext s c z body = retire (modSet s1 c (lcore s c).cur (fun t => pastPc t z)) c (lcore s c).cur :=
  issue_ok h (by simp only [hb]; rfl)

theorem issueNext_error {s : State} {c : Nat} {z : Size} {body : State → Ex State} {r : TrapRec} (h : ready s c = true)
    (hb : body s = .error r) : issueNext s c z body = raiseTrap s c z r :=
  issue_error h (by simp only [hb]; rfl)

/-- What an instruction that completes leaves: its set with the program counter moved past it, the counts moved, and all else as
it was. -/
theorem curSet_passed (s : State) (c : Nat) (z : Size) (t : TaskSet) :
    curSet (passed s c z t) c =
      { pastPc t z with fpAge := if (pastPc t z).fstat.pend = 0#5 then 0 else (pastPc t z).fpAge + 1 } := by
  simp only [passed, retired, retire, curSet, modSet_cur, lcore_advance, lcore_modLCore_same, taskSet_modSet, taskSet_advance, modCur]
  simp

theorem taskSet_passed_other (s : State) (c d j : Nat) (z : Size) (t : TaskSet) (h : d ≠ c ∨ j ≠ (lcore s c).cur) :
    taskSet (passed s c z t) d j = taskSet s d j := by
  have h1 : ¬(d = c ∧ j = (lcore s c).cur) := by omega
  simp only [passed, retired, retire, taskSet_modSet, h1, if_false, taskSet_advance, modCur]

/-! ## Operands -/

theorem operand_ok {t : TaskSet} {r : Nat} {acc : Tag → Bool} (h : acc (gread t r).tag = true) :
    operand t r acc = .ok (gread t r) := by simp [operand, h]

theorem operand_error {t : TaskSet} {r : Nat} {acc : Tag → Bool} (h : acc (gread t r).tag = false) :
    operand t r acc = .error (tagTrap r (gread t r).tag (badTagSub (gread t r).tag)) := by simp [operand, h]

theorem operands2_ok {t : TaskSet} {ra rb : Nat} {acc : Tag → Bool} (ha : acc (gread t ra).tag = true)
    (hb : acc (gread t rb).tag = true) : operands2 t ra rb acc = .ok (gread t ra, gread t rb) := by
  simp only [operands2, operand_ok ha, operand_ok hb]; rfl

theorem baseReg_ok {t : TaskSet} {r : Nat} (h : (gread t r).tag = Tag.addr) : baseReg t r = .ok (gread t r).data := by
  simp [baseReg, h]

theorem codeReg_ok {t : TaskSet} {r : Nat} (h : (gread t r).tag = Tag.code) : codeReg t r = .ok (gread t r).data := by
  simp [codeReg, h]

theorem inInt64_iff (z : Int) : inInt64 z = true ↔ -(2 ^ 63) ≤ z ∧ z < 2 ^ 63 := by
  simp only [inInt64, decide_eq_true_eq]; omega

theorem intResult_ok {z : Int} (h : -(2 ^ 63) ≤ z ∧ z < 2 ^ 63) : intResult z = .ok (TWord.mkInt (BitVec.ofInt 64 z)) := by
  simp only [intResult, (inInt64_iff z).2 h, if_true]; rfl

theorem intResult_error {z : Int} (h : ¬(-(2 ^ 63) ≤ z ∧ z < 2 ^ 63)) : intResult z = .error { no := Trap.intOvf } := by
  have : inInt64 z = false := by
    cases hz : inInt64 z with
    | false => rfl
    | true => exact absurd ((inInt64_iff z).1 hz) h
  simp [intResult, this]

/-- Class A on two accepted operands. -/
theorem classA_next {s : State} {c : Nat} {z : Size} {rd ra rb : Nat} {f : Int → Int → Ex Int} {v : Int} (h : ready s c = true)
    (ha : tagIn s c ra accA = true) (hb : tagIn s c rb accA = true) (hf : f (regInt s c ra) (regInt s c rb) = .ok v) :
    issueSet s c z (fun t => classA t rd ra rb f) = intOutcome s c z rd v := by
  have e : classA (curSet s c) rd ra rb f = (intResult v >>= fun w => pure (gwrite (curSet s c) rd w)) := by
    simp only [classA, operands2_ok (t := curSet s c) ha hb]
    show (f (regInt s c ra) (regInt s c rb) >>= fun z => intResult z >>= fun w => pure (gwrite (curSet s c) rd w)) = _
    rw [hf]; rfl
  unfold intOutcome
  split
  · rename_i hv
    exact issueSet_ok h (by rw [e, intResult_ok hv]; rfl)
  · rename_i hv
    exact issueSet_error h (by rw [e, intResult_error hv]; rfl)

/-- Class L on two accepted operands. -/
theorem classL_next {s : State} {c : Nat} {z : Size} {rd ra rb : Nat} {f : W64 → W64 → W64} (h : ready s c = true)
    (ha : tagIn s c ra accL = true) (hb : tagIn s c rb accL = true) :
    issueSet s c z (fun t => classL t rd ra rb f) = passed s c z (gwrite (curSet s c) rd
      ⟨f (regData s c ra) (regData s c rb), logicTag (regTag s c ra) (regTag s c rb)⟩) :=
  issueSet_ok h (by simp only [classL, operands2_ok (t := curSet s c) ha hb]; rfl)

theorem classLImm_next {s : State} {c : Nat} {z : Size} {rd ra : Nat} {imm : W64} {f : W64 → W64 → W64} (h : ready s c = true)
    (ha : tagIn s c ra accL = true) :
    issueSet s c z (fun t => classLImm t rd ra imm f) = passed s c z (gwrite (curSet s c) rd
      ⟨f (regData s c ra) imm, logicTag (regTag s c ra) Tag.raw⟩) :=
  issueSet_ok h (by simp only [classLImm, operand_ok (t := curSet s c) ha]; rfl)

end Sys2Proof.Machine
end

