-- ==== Sys2Proof/Machine/Fetch.lean ====
section
/-! DEFINITION. The instruction that a logical core's memory holds at its program counter (R66-R70). The commands bring the instructions
themselves (LOG 54); what a run of a program must keep is that each command is the one that stands there. -/

namespace Sys2Proof.Machine

/-- The halfword at a virtual address, as a fetch reads it: the newest bytes of memory, or none where the fetch traps. -/
def fetchHalf (s : State) (c : Nat) (va : W64) : Option (BitVec 16) :=
  if va.toNat % 2 ≠ 0 then none
  else match physical s c va 2 .exec with
    | .ok pa => some (Derkin.halfOf (byteNow s pa) (byteNow s (pa + 1)))
    | .error _ => none

/-- The instruction at the program counter of LCORE[c]; a long form needs its second halfword (R66). -/
def fetchedInstr (s : State) (c : LC) : Option Instr :=
  let pc := (curSet s c).pc.data
  match fetchHalf s c pc with
  | none => none
  | some h0 =>
    if Derkin.isLong h0 then (fetchHalf s c (pc + 2#64)).map (fun h1 => Derkin.decode c h0 h1) else some (Derkin.decode c h0 0#16)

end Sys2Proof.Machine
end

