-- ==== Sys2Proof/Machine/HbmCode.lean ====
section
/-! DEFINITION. What a stack stores of its lines: the raw layout of a group, the check entries and the symbol code (R193-R195, R200). -/

namespace Sys2Proof.Machine

/-! ## Raw layout of a group (R193) -/

def groupBytes : Nat := 1024

/-- Raw offset in a group of the data line in slot `b`, and of its check entry. -/
def slotOffset (b : Nat) : Nat := 128 * b
def entryOffset (b : Nat) : Nat := 0x380 + 16 * b

/-- The stack, group and slot that hold a physical address (R200). -/
def groupSlot (s : State) (pa : Nat) : Option (Nat × Nat × Nat) :=
  match hbmPlace s pa with
  | some (j, l) => some (j, l / 7, l % 7)
  | none => none

/-- Raw offset in its stack of a line's data, and of its check entry. -/
def rawOffset (g b : Nat) : Nat := g * groupBytes + slotOffset b
def rawEntry (g b : Nat) : Nat := g * groupBytes + entryOffset b

/-! ## Check entries (R194) -/

/-- Bytes 0-7: the tag of word k in bits [4k + 3:4k]. -/
def tagBytes (l : Line) : List Byte :=
  leBytes 8 (((List.range 16).map (fun k => place (lineWord l k).w.tag.toNat (4 * k))).foldl (· + ·) 0)

/-- Bytes 8-9: bit k set when word k is poisoned. -/
def poisonBytes (l : Line) : List Byte := leBytes 2 (((List.range 16).map (fun k => flag (lineWord l k).poison k)).foldl (· + ·) 0)

/-- The 138 byte symbols that the code protects: data, tags and poison (R195). -/
def codedSymbols (l : Line) : List Byte := lineToBytes l ++ tagBytes l ++ poisonBytes l

/-- Six check symbols; which Reed-Solomon code they belong to is left open (LOG 132). -/
def checkSymbols (l : Line) : List Byte := (List.range 6).map (fun i => Config.rsCheck (codedSymbols l) i)

def checkEntry (l : Line) : List Byte := tagBytes l ++ poisonBytes l ++ checkSymbols l

/-- The 144 symbols of a line in its stack. -/
def codeword (l : Line) : List Byte := codedSymbols l ++ checkSymbols l

/-- What a group of a stack holds: seven data lines, their check entries, and 16 bytes written as zero. -/
def rawGroup (s : State) (j g : Nat) : List Byte :=
  let at_ := fun b => match stackLineAddr s j (7 * g + b) with
    | some pa => Memory.line s.mem (lineOf pa)
    | none => Line.zero
  (List.range 7).flatMap (fun b => lineToBytes (at_ b)) ++ (List.range 7).flatMap (fun b => checkEntry (at_ b)) ++ List.replicate 16 0#8

/-- The line that the bytes of a group give in slot `b`; the bytes from 0x3F0 on are ignored. -/
def readSlotLine (bs : List Byte) (b : Nat) : Line :=
  (List.range 16).map (fun k =>
    { w := { tag := BitVec.ofNat 4 ((leAt bs (entryOffset b + k / 2) 1) / 16 ^ (k % 2)), data := BitVec.ofNat 64 (leAt bs (slotOffset b + 8 * k) 8) }
      poison := (leAt bs (entryOffset b + 8) 2).testBit k })

/-! ## The symbol code (R195) -/

/-- Symbols in which what is read differs from what was written. -/
def symbolErrors (stored read : List Byte) : Nat := ((List.zip stored read).filter (fun p => p.1 != p.2)).length

/-- What the code makes of a line as read: the command of HBM_CORRECTABLE_ERROR stands for `corrected`, that of HBM_UNCORRECTABLE_ERROR for
`uncorrectable`; of an error in more than 4 symbols the spec promises nothing. -/
inductive CodeRead where
  | clean | corrected | uncorrectable | unbounded
deriving DecidableEq, Repr

def codeRead (stored read : List Byte) : CodeRead :=
  match symbolErrors stored read with
  | 0 => .clean
  | 1 | 2 => .corrected
  | 3 | 4 => .uncorrectable
  | _ => .unbounded

end Sys2Proof.Machine
end

