-- ==== Sys2Proof/Tests/Slice0.lean ====
section
/-! SUPPORT. The model's own tests: ill-formed commands are refused, the spec's worked examples come out as it gives them, and a state and
operands that meet the hypotheses of each obligation. Expected values are the spec's, in the rule each test names. -/

set_option Elab.async false

namespace Sys2Proof.Tests

open Sys2Proof Sys2Proof.Machine

/-! ## States to test in -/

/-- A set that runs at level S, with a register of each kind. -/
def set0 : TaskSet :=
  { g := [(1, TWord.mkInt 5#64), (2, TWord.mkAddr 0x100800#64), (3, TWord.mkDec 0x123C#64), (4, TWord.mkBfp 0x3FF0000000000000#64),
          (5, TWord.mkCode 0x400#64), (6, TWord.mkInt 0#64), (7, TWord.mkInt 0xFFFFFFFFFFFFFFFF#64),
          (8, TWord.mkInt 0x8000000000000000#64), (9, TWord.mkDec 0x456D#64), (10, TWord.mkDec 0x12AC#64), (11, TWord.void),
          (12, TWord.mkCode 0x401#64), (13, TWord.mkInt 3#64), (14, TWord.mkRaw 0x1400#64), (15, TWord.mkDec 0x999999999999999C#64),
          (16, TWord.mkDec 0x1C#64), (17, TWord.mkRaw 0xFFFFFFFFFFFFFFFF#64), (18, TWord.mkRaw 1#64), (19, TWord.mkAddr 0x100803#64),
          (20, TWord.mkAddr 0x8000000000000#64), (24, TWord.mkAddr 0x100800#64)]
    pc := TWord.mkCode 0x100900#64
    tvec := TWord.mkCode 0x800#64
    tepc := TWord.mkCode 0x600#64
    tstat := { priv := true, state := .running } }

def core0 (t : TaskSet) : LCore := { sets := [(0, t)], started := true }

/-- In service with husk A holding the seed, TRIO[0] VOTED, P[0] RUNNING on LCORE[0] with 1 MiB. -/
def serving : State :=
  { State.reset with
    pins := { resetN := true, pwrOk := true }
    mode := { mode := 5, base := 5 }
    time := { pip := 40, grain := 15, loopPip := some 40 }
    husks := { seed := { holder := 1, epoch := 1 }, a := { stat := .holder }, b := { stat := .ready } }
    trios := [(0, { state := .voted, a := { core := .core 0, lockstep := true }, b := { core := .core 1, lockstep := true }
                    c := { core := .core 2, lockstep := true } })]
    parts := [(0, { defined := true, state := .running, ranges := [(0, (0x100000, 0x100000))], lcores := 1#128 })]
    stackTab := [(0, { state := .active, weight := 8 })] }

/-- The same with LCORE[0] running the set. -/
def running (t : TaskSet) : State := { serving with lcores := [(0, core0 t)] }

def run0 : State := running set0
def user0 : State := running { set0 with tstat := { set0.tstat with priv := false } }

/-- The same with a second set. -/
def two (t u : TaskSet) : State := { serving with lcores := [(0, { sets := [(0, t), (1, u)], started := true })] }

/-- A command answers a next state of which `f` holds. -/
def after (r : Res) (f : State → Bool) : Bool := match r with | .next u => f u | _ => false

/-- General register `n` of the RUNNING set of LCORE[0]. -/
def reg (s : State) (n : Nat) : TWord := gread (curSet s 0) n

def isOk {ε α : Type} (x : Except ε α) : Bool := match x with | .ok _ => true | .error _ => false
def isDone (x : MemRes) : Bool := match x with | .done _ => true | _ => false

/-! ## Ill-formed commands -/

def someReq : Request :=
  { source := 16#8, addr := 0#8, seq := 1#16, nonce := 1#8, flags := 0#8, paramLength := 0#16, params := [], arrival := 0#64 }
def longReq : Request := { someReq with params := List.replicate 49 0#8 }
def noInputs : PipInputs := { sensors := [], vinA := 0, vinB := 0, standby := 0, ivrLoss := 0, stackTab := [], progress := [] }
def noWork : HuskInputs := { take := 0, rebuild := [], scrub := { corrected := [], uncorrectable := [] } }
def noBist : BistIn := { failedCores := [], failedStacks := [], failedDies := [], cxl := [], trims := [], testRecord := [] }
def someHdr : FrameHdr :=
  { ftype := 2#8, etherType := 0x88B5#16, src := 0#48, fcsOk := true, authOk := true, version := 1#8, flags := 0#8, path := 0#8, epoch := 0#8
    bodyLength := 0#16, tag := 0#64, seq := 1#32, ackSeq := 0#32, keyEpoch := 0#32 }
def emptyCopy : CopyIn := { readOk := false, bytes := [], keyHashMatches := false, signatureOk := false, keysUnwrap := false }

theorem test_illformed_request : (Instr.identity longReq).wellFormed = false ∧ (Instr.commandPoll 0x0101#16 longReq).wellFormed = false ∧
    (Instr.unknownCommand 0x0999#16 longReq).wellFormed = false ∧ (Instr.identity someReq).wellFormed = true := by decide

theorem test_illformed_pip : (Instr.pipEdge { noInputs with vinA := 65536 }).wellFormed = false ∧
    (Instr.pipEdge { noInputs with sensors := [(0, 32768)] }).wellFormed = false ∧
    (Instr.pipEdge { noInputs with stackTab := List.replicate 9 { stack := 0, bwPct := 0, queueBusy := false } }).wellFormed = false ∧
    (Instr.pipEdge noInputs).wellFormed = true := by decide

set_option maxRecDepth 4000 in
theorem test_illformed_loop : (Instr.huskLoop { noWork with
      rebuild := List.replicate 193 { trio := 0, pos := 0, arrayFail := none, mismatches := 0 } }).wellFormed = false ∧
    (Instr.huskLoop noWork).wellFormed = true := by decide

theorem test_illformed_scrub (l : List PAddr) (h : 8192 < l.length) :
    (Instr.huskLoop { noWork with scrub := ⟨l, []⟩ }).wellFormed = false ∧ (Instr.huskLoop { noWork with scrub := ⟨[], l⟩ }).wellFormed = false := by
  have n : ¬ l.length ≤ 8192 := by omega
  show decide (0 ≤ 192 ∧ l.length ≤ 8192 ∧ 0 ≤ 8192) = false ∧ decide (0 ≤ 192 ∧ 0 ≤ 8192 ∧ l.length ≤ 8192) = false
  simp [n]

set_option maxRecDepth 4000 in
theorem test_illformed_bist : (Instr.builtInTestEnd { noBist with failedDies := List.replicate 7 0 }).wellFormed = false ∧
    (Instr.builtInTestEnd { noBist with failedStacks := List.replicate 9 0 }).wellFormed = false ∧
    (Instr.builtInTestEnd { noBist with cxl := List.replicate 9 (0, 0) }).wellFormed = false ∧
    (Instr.builtInTestEnd { noBist with failedCores := List.replicate 209 (0, 0#4) }).wellFormed = false ∧
    (Instr.builtInTestEnd noBist).wellFormed = true := by decide

theorem test_illformed_lines : (Instr.wrline 0 0#45 [] 0#128 false).wellFormed = false ∧ (Instr.data 0 0#45 []).wellFormed = false ∧
    (Instr.dataexcl 0 0#45 []).wellFormed = false ∧ (Instr.dataAtHome 0 0#45 []).wellFormed = false ∧
    (Instr.data 0 0#45 Line.zero).wellFormed = true := by decide

theorem test_illformed_entry : (Instr.cacheEccError (.dir 0 0#12 0#4 (List.replicate 65 0#45)) true).wellFormed = false ∧
    (Instr.patrolScrubStep 0 [1, 1] []).wellFormed = false ∧ (Instr.patrolScrubStep 0 [] [2, 2]).wellFormed = false ∧
    (Instr.patrolScrubStep 0 [1] [2]).wellFormed = true := by decide

set_option maxRecDepth 4000 in
theorem test_illformed_frames :
    (Instr.dataFrame 0 someHdr ⟨0#32, 2#16, 0#32, []⟩).wellFormed = false ∧
    (Instr.resumeAnswer 0 someHdr ⟨0#32, List.replicate 256 ⟨0#64, 0#8, 0#8, 0#8, 0#32⟩⟩).wellFormed = false ∧
    (Instr.mbRequest .mbA 0#8 (List.replicate 256 0#8) true).wellFormed = false := by decide

theorem test_illformed_image (bs : List Byte) (h : listBound < bs.length) :
    (Instr.imageCheckEnd { emptyCopy with bytes := bs } emptyCopy).wellFormed = false ∧
    (Instr.imageCheckEnd emptyCopy { emptyCopy with bytes := bs }).wellFormed = false := by
  have n : ¬ bs.length ≤ listBound := by omega
  show (decide (bs.length ≤ listBound) && decide (0 ≤ listBound)) = false ∧ (decide (0 ≤ listBound) && decide (bs.length ≤ listBound)) = false
  simp [n]

/-! ## The spec's worked examples -/

/-- R100: +123 and -456 give -333. -/
theorem test_dadd_example : after (execDadd 0 3 3 9 run0) (fun u => reg u 3 == TWord.mkDec 0x333D#64 && pcOf u 0 == 0x100904#64) = true := by
  decide

/-- R100: a sixteenth digit is DEC_OVF with SUBCAUSE 0. -/
theorem test_dadd_overflow : after (execDadd 0 3 15 16 run0) (fun u => reg u 3 == reg run0 3 && (curSet u 0).tcause == 0x10006#64) = true := by
  decide

/-- R100: 0xA as digit 0 of rb is DEC_DATA with SUBCAUSE 0x41. -/
theorem test_dadd_bad_digit : after (execDadd 0 3 3 10 run0) (fun u => reg u 3 == reg run0 3 && (curSet u 0).tcause == 0x14105#64) = true := by
  decide

/-- R94: the low half of the 128-bit sum, with its carry. -/
theorem test_addc_example : after (execAddc 0 21 17 18 6 run0) (fun u => reg u 21 == TWord.mkRaw 0#64 && reg u 6 == TWord.mkRaw 1#64) = true := by
  decide

/-- R90: TCAUSE of a load whose base, G13, is INT: TRAPNO 2, SUBCAUSE 5, LONG, OPREG 13, TAGFOUND 1; TINFO holds RAW 0. -/
theorem test_tcause_example : after (execLdt 0 (.long 5 13 0#14) run0) (fun u =>
    (curSet u 0).tcause == 0x1350502#64 && (curSet u 0).tinfo == TWord.mkRaw 0#64 && (curSet u 0).tepc == TWord.mkCode 0x100900#64) = true := by
  decide

/-- R106: 1.0E300 by 1.0E300 with the overflow trap enabled gives infinity, FLAGS bits 2 and 0, and PEND 0b00100 at FEPC. -/
theorem test_fmul_overflow :
    after (execFmul 0 21 1 1 (running { set0 with g := [(1, TWord.mkBfp 0x7E37E43C8800759C#64)], fstat := { enable := 4#5 } })) (fun u =>
      reg u 21 == TWord.mkBfp 0x7FF0000000000000#64 && (curSet u 0).fstat.flags == 5#5 && (curSet u 0).fstat.pend == 4#5 &&
      (curSet u 0).fepc == TWord.mkRaw 0x100900#64) = true := by decide +kernel

/-- R124: the frame of a set whose G2 is 0x7FFFF0001234. -/
theorem test_frame_base : frameBase 0x7FFFF0001234#64 = 0x7FFFF0000D80#64 := by decide

/-- R200: address 0x123456780 lies in HS[1], line 9,544,375. -/
theorem test_hbm_place : hbmPlace serving 0x123456780 = some (1, 9544375) := by decide +kernel

/-- R347: the byte that holds the bit of a page in the area of IO1. -/
theorem test_log_byte : logByteAddr { logPages := 65536, buf0 := 0x100000 } 1 0x123 = 0x102024 := by decide

/-- R485, with eight trios: 52 steps bring all from 4,600 to 4,450 MHz, and the first four one step further. -/
theorem test_steps_down : (stepsDown 52 ((List.range 8).map (fun n => { n := n, f := 4600, lim := 4800 : ClockRow }))).map (·.f) =
    List.replicate 4 4425 ++ List.replicate 4 4450 := by decide +kernel

/-- R70: the bytes 0x2A, 0xE0, 0x14, 0x50 are BCMP.LT G5, G9 40 bytes forward, 0x019D is ADD G3, G7 and 0x9000 is NOP. -/
theorem test_derkin_words : Derkin.decode 7 (Derkin.halfOf 0x2A#8 0xE0#8) (Derkin.halfOf 0x14#8 0x50#8) = .bcmp 7 5 (.lt 9) 20#11 ∧
    Derkin.decode 7 0x019D#16 0#16 = .add 7 (.short 3 7) ∧ Derkin.decode 7 0x9000#16 0#16 = .nop 7 ∧
    Derkin.decode 7 0#16 0#16 = .illegalInstruction 7 .short := by decide

/-- R37: the table of the clock groups names 264 domains. -/
theorem test_clock_domains : clockDomains = 264 := by decide
/-! ## States and operands that meet the hypotheses of the obligations -/

/-- O2 has no hypotheses; O1 meets its own on a queue of one command and on an empty one. -/
theorem witness_StepRunsFrontCommand : ({ run0 with pending := [Instr.resetNAssert] } : State).pending = Instr.resetNAssert :: [] ∧
    run0.pending = [] := by decide

/-- A set whose program counter is odd, and one at a good address whose next halfword lies outside the partition. -/
def oddPc : State := running { set0 with pc := TWord.mkCode 0x100901#64 }
def lastPc : State := running { set0 with pc := TWord.mkCode 0x1FFFFE#64 }

theorem witness_FetchFaults :
    (runs oddPc 0 = true ∧ (fetchTrap oddPc 0 (pcOf oddPc 0)).isSome = true ∧ (pcOf oddPc 0).getLsbD 0 = true) ∧
    (runs lastPc 0 = true ∧ fetchTrap lastPc 0 (pcOf lastPc 0) = none ∧ (fetchTrap lastPc 0 (pcOf lastPc 0 + 2#64)).isSome = true) ∧
    runs serving 0 = false := by decide

theorem witness_IntegerResults :
    (ready run0 0 = true ∧ tagIn run0 0 1 accA = true ∧ tagIn run0 0 7 accA = true) ∧
    regInt run0 0 6 = 0 ∧ regInt run0 0 7 ≠ 0 ∧ (tagIn run0 0 8 accA = true ∧ regInt run0 0 8 = -(2 ^ 63) ∧ regInt run0 0 7 = -1) := by decide

theorem witness_LogicAndShiftResults :
    ready run0 0 = true ∧ tagIn run0 0 17 accL = true ∧ tagIn run0 0 14 accL = true ∧ tagIn run0 0 17 accA = true ∧
    tagIn run0 0 6 accA = true ∧ (3 : Reg) ≠ 4 := by decide

theorem witness_MoveAddressTagResults :
    (ready run0 0 = true ∧ tagIn run0 0 3 accAny = true ∧ regTag run0 0 2 = Tag.addr ∧ isReservedTag 0x8#4 = true ∧
      (curSet user0 0).tstat.priv = false ∧ isReservedTag Tag.addr = false ∧ (curSet run0 0).tstat.priv = true ∧
      (2#16).getLsbD (regTag run0 0 1).toNat = true ∧ (1#16).getLsbD (regTag run0 0 1).toNat = false) ∧
    (tagIn run0 0 11 accA = false ∧ tagIn run0 0 3 accL = false ∧ regTag run0 0 1 ≠ Tag.dec ∧ regTag run0 0 1 ≠ Tag.bfp ∧
      tagIn run0 0 11 accAny = false ∧ regTag run0 0 1 ≠ Tag.addr ∧ regTag run0 0 1 ≠ Tag.code) := by decide

theorem witness_BranchAndJumpResults :
    (ready run0 0 = true ∧ tagIn run0 0 1 accEq = true ∧ isOk (condHolds (curSet run0 0) 1 (.eq 13)) = true ∧
      regTag run0 0 5 = Tag.code ∧ (regData run0 0 5).getLsbD 0 = false ∧ regTag run0 0 12 = Tag.code ∧ (regData run0 0 12).getLsbD 0 = true) ∧
    (accEq (regTag run0 0 2) = true ∧ accEq (regTag run0 0 5) = true ∧ regTag run0 0 2 ≠ regTag run0 0 5 ∧
      isRawUser (regTag run0 0 2) = false ∧ isRawUser (regTag run0 0 5) = false) ∧
    (accA (regTag run0 0 1) = true ∧ accL (regTag run0 0 17) = true) := by decide

theorem witness_DecimalResults :
    (ready run0 0 = true ∧ regTag run0 0 3 = Tag.dec ∧ decBad (regData run0 0 3) = none ∧ regTag run0 0 9 = Tag.dec ∧
      decBad (regData run0 0 9) = none ∧ tagIn run0 0 1 accA = true) ∧
    (regTag run0 0 10 = Tag.dec ∧ decBad (regData run0 0 10) = some 1) ∧ (-999999999999999 : Int).natAbs ≤ 999999999999999 ∧
    (∀ i < 4, decBad (lane (ofLanes [0xC#64, 0x1C#64, 0x2D#64, 0xC#64]) i) = none) ∧
    999999999999999 < (decVal 0x999999999999999C#64 + decVal 0x1C#64).natAbs := by decide

theorem witness_FloatResults :
    (ready run0 0 = true ∧ regTag run0 0 4 = Tag.bfp ∧ tagIn run0 0 1 accA = true) ∧ isNan 0x7FF0000000000001#64 = true ∧
    (isInf 0x7FF0000000000000#64 = true ∧ isInf 0xFFF0000000000000#64 = true ∧ fSign 0x7FF0000000000000#64 ≠ fSign 0xFFF0000000000000#64) ∧
    (isZero 0x8000000000000000#64 = true ∧ isZero 0#64 = true ∧ fSign 0x8000000000000000#64 = true ∧ fSign 0#64 = false) := by decide

/-- A set with an enabled overflow pending, right after the instruction and at the sixty-fourth. -/
def pendSet (age : Nat) : TaskSet := { set0 with fstat := { pend := 4#5, enable := 4#5, flags := 5#5 }, fpAge := age }
/-- The same beside a set 1 that TSAVE can save, the frame's lines held in M. -/
def frameSet : TaskSet := { set0 with g := [(2, TWord.mkAddr 0x100880#64)], tstat := { tallow := 3#32, state := .held } }
def heldLine (k : Nat) : Nat × L2Line := (8192 + k, { st := .st .m })
def framed (t : TaskSet) : State :=
  { two t frameSet with coh := { l2 := (List.range 17).map heldLine, homes := (List.range 17).map (fun k => (8192 + k, { st := .st (.em 0) })) } }

theorem witness_FloatTrapPoints :
    (runs (running (pendSet 0)) 0 = true ∧ (curSet (running (pendSet 0)) 0).fstat.pend ≠ 0#5 ∧ tvecOk (pendSet 0) = true) ∧
    isDone (tsaveBody (framed (pendSet 0)) 0 21 18) = true ∧
    fstatBadRm (regData run0 0 6) = false ∧ fpDue (pendSet 64) = true ∧
    (set0.fstat.pend = 0#5 ∧ (4#5 : FFlags) &&& (pendSet 0).fstat.enable ≠ 0#5) ∧ (ready run0 0 = true ∧ (curSet run0 0).fstat.pend = 0#5) := by decide
theorem witness_TrapEntry :
    (set0.tstat.intrap = false ∧ tvecOk set0 = true ∧ (17 : Nat) < 18 ∧ (255 : Nat) < 256 ∧ (31 : Nat) < 32) ∧ ready run0 0 = true ∧
    ((lcore run0 0).cur = 0 ∧ timeRuns run0 = true) ∧
    (let s : State := { serving with lcores := [(0, { sets := [(1, set0)], cur := 1, started := true })] }
     (lcore s 0).cur ≠ 0 ∧ ∀ j < 32, j ≠ 1 → (taskSet s 0 j).tstat.state ≠ .ready) ∧
    (let s : State := { serving with lcores := [(0, { sets := [(1, set0), (31, { set0 with tstat := { state := .ready } })], cur := 1
                                                      started := true })] }
     (taskSet s 0 31).tstat.state = .ready ∧ ∀ i < 31, i ≠ 1 → (taskSet s 0 i).tstat.state ≠ .ready) := by decide

/-- Set 0 with TSAVE's target number in G18; set 1 EMPTY with a frame of set 1 in memory's lines. -/
def saveState : State := framed set0
def headWord : CWord := ⟨TWord.mkRaw 1#64, false⟩
def pcWord : CWord := ⟨TWord.mkCode 0x100900#64, false⟩
def loadState : State :=
  { two { set0 with g := [(6, TWord.mkAddr 0x100400#64), (18, TWord.mkRaw 1#64)] } {} with
    coh := { l2 := (8200, { st := .st .m, data := headWord :: pcWord :: List.replicate 14 CWord.zero }) ::
      (List.range 8).map (fun k => (8201 + k, { st := .st .m })) } }
def readySet : TaskSet := { set0 with tstat := { state := .ready } }

theorem witness_TaskFrames :
    (ready saveState 0 = true ∧ set0.fstat.pend = 0#5 ∧ isOk (setNumber set0 18) = true ∧ frameSet.tstat.state ≠ .empty ∧
      (gread frameSet 2).tag = Tag.addr ∧ frameSet.tstat.vused = false ∧ frameSet.tstat.evpend = false ∧
      isOk (framePas saveState 0 (frameBase (gread frameSet 2).data) .write false) = true ∧
      (∀ n < 3, storeHit saveState 0 (lineOf (0x100400 + 128 * n)) = true ∧ (l2Data saveState 0 (lineOf (0x100400 + 128 * n))).length = 16)) ∧
    (ready loadState 0 = true ∧ (taskSet loadState 0 1).tstat.state = .empty ∧ regTag loadState 0 6 = Tag.addr ∧
      isOk (framePas loadState 0 (regData loadState 0 6) .read true) = true ∧ (∀ n < 3, loadHit loadState 0 (8200 + n) = true) ∧
      (∀ i < 40, (lineWord (l2Data loadState 0 (8200 + i / 16)) (i % 16)).poison = false) ∧
      field headWord.w.data 7 0 = 1 ∧ field headWord.w.data 63 12 = 0 ∧ bitOf headWord.w.data 8 = false) ∧
    (let s := two set0 readySet
     ready s 0 = true ∧ (taskSet s 0 1).tstat.state = .ready ∧ (taskSet s 0 1).pc.tag = Tag.code ∧ (taskSet s 0 1).tstat.mcpend = false ∧
       (taskSet s 0 1).tstat.evpend = false) ∧
    (let s := two { set0 with tstat := { state := .running } } readySet
     ready s 0 = true ∧ (curSet s 0).tstat.priv = false ∧ (curSet s 0).tstat.tallow.getLsbD 1 = false) ∧
    (let s := two set0 {}
     ready s 0 = true ∧ (curSet s 0).tstat.priv = true ∧ (taskSet s 0 1).tstat.state ≠ .ready) := by decide

theorem witness_EventEntry :
    (let t : TaskSet := { set0 with tstat := { set0.tstat with evpend := true, evmask := false }, staged := some 255 }
     runs (running t) 0 = true ∧ t.tstat.intrap = false ∧ tvecOk t = true ∧ t.tstat.mcpend = false ∧ t.staged.getD 0 = 255) ∧
    (let t : TaskSet := { set0 with tstat := { set0.tstat with mcpend := true } }
     runs (running t) 0 = true ∧ t.tstat.mcpend = true ∧ (lcore (running t) 0).mcCause < 256) ∧
    (set0.tepc.tag = Tag.code ∧ set0.tepc.data.getLsbD 0 = false ∧ set0.tstat.mcpend = false) ∧ (curSet user0 0).tstat.priv = false ∧
    (let t : TaskSet := { set0 with tepc := TWord.mkInt 0#64 }
     ready (running t) 0 = true ∧ t.tepc.tag ≠ Tag.code) := by decide

/-- LCORE[0] with TWIN selecting register `w`. -/
def twinState (t : TaskSet) (w : W64) : State := { serving with lcores := [(0, { core0 t with twin := w })] }

theorem witness_SpecialRegisters :
    (ready run0 0 = true ∧ set0.fstat.pend = 0#5 ∧ (9 : Nat) < 31 ∧ (curSet user0 0).tstat.priv = false ∧ ready user0 0 = true) ∧
    (5 ≤ (regData run0 0 14).toNat / 2 ^ 10 % 8 ∧ (regData run0 0 6).toNat / 2 ^ 10 % 8 < 5) ∧
    (twinTask (lcore (twinState set0 0#64) 0).twin = 0 ∧ ready (twinState set0 0#64) 0 = true) ∧
    (twinTask 0x301#64 ≠ 0 ∧ twinClass 0xC001#64 = 3 ∧ ready (twinState set0 0xC001#64) 0 = true) ∧
    (twinTask 0x301#64 = 1 ∧ twinClass 0x301#64 = 0 ∧ ready (twinState set0 0x301#64) 0 = true) := by decide

theorem witness_InstructionFrame : gread (curSet run0 0) 1 ≠ gread (gwrite (curSet run0 0) 1 TWord.void) 1 ∧ (31 : Nat) ≠ 0 := by decide

/-- LCORE[0] with the line of its stack in the L2, and with a device window at its base. -/
def cached (st : L2Stable) : State :=
  { run0 with
    coh := { l2 := [(8208, { st := .st st, data := List.replicate 16 ⟨TWord.mkDec 0x12C#64, false⟩ })], homes := [(8208, { st := .st (.em 0) })] } }
def devSet : TaskSet := { set0 with g := [(20, TWord.mkAddr 0x7000000000000#64)] }

theorem witness_LoadResults :
    (ready (cached .e) 0 = true ∧ regTag (cached .e) 0 2 = Tag.addr ∧ devOf 0x100800 = none ∧ loadHit (cached .e) 0 (lineOf 0x100800) = true ∧
      (lineWord (l2Data (cached .e) 0 (lineOf 0x100800)) 0).poison = false ∧ isOk (physical (cached .e) 0 0x100800#64 8 .read) = true) ∧
    (regTag (cached .e) 0 24 = Tag.addr ∧ isOk (physical (cached .e) 0 ((set0.pc.data &&& ~~~7#64) + (-32#19).signExtend 64 * 8#64) 8 .read) = true ∧
      (set0.pc.data &&& ~~~7#64) + (-32#19).signExtend 64 * 8#64 = 0x100800#64) ∧
    (ready (running devSet) 0 = true ∧ isOk (physical (running devSet) 0 0x7000000000000#64 8 .read) = true ∧
      devOf 0x7000000000000 = some (0, 0) ∧ devDead (running devSet) 0 = false) ∧
    (let s : State := { run0 with lcores := [(0, { core0 set0 with replay := some { set := 0, rd := 3, value := TWord.mkRaw 1#64, arrived := false } })] }
     (∃ r, (lcore s 0).replay = some r ∧ r.amo = none ∧ r.vec = none ∧ r.isolated = false) ∧ (curSet s 0).tstat.mcpend = false ∧ inService s = true ∧ trioRuns (trio s (trioOf 0)).state = true ∧ (lcore s 0).ckPip0 = none) :=
  ⟨by decide, by decide, by decide, ⟨_, rfl, rfl, rfl, rfl⟩, by decide⟩

theorem witness_StoreResults : ready (cached .m) 0 = true ∧ regTag (cached .m) 0 2 = Tag.addr ∧ devOf 0x100800 = none ∧ isCxl 0x100800 = false ∧
    lineOf 0x100800 < 2 ^ 45 ∧ storeHit (cached .m) 0 (lineOf 0x100800) = true ∧
    isOk (physical (cached .m) 0 0x100800#64 8 .write) = true ∧ tagIn (cached .m) 0 17 accL = true := by decide

/-- A partition with CXL memory. -/
def cxlState : State :=
  { run0 with parts := [(0, { defined := true, state := .running, ranges := [(0, (0x8000000000000, 0x100000))], lcores := 1#128 })] }

theorem witness_MemoryTraps :
    (ready run0 0 = true ∧ regTag run0 0 1 ≠ Tag.addr ∧ (regTag run0 0 19 = Tag.addr ∧ (regData run0 0 19).toNat % 8 ≠ 0) ∧
      (regTag run0 0 20 = Tag.addr ∧ isOk (physical run0 0 0x8000000000000#64 1 .read) = false)) ∧
    (ready cxlState 0 = true ∧ isOk (physical cxlState 0 0x8000000000000#64 8 .write) = true ∧ isCxl 0x8000000000000 = true ∧
      isRawUser (regTag cxlState 0 1) = false) ∧
    ((lcore run0 0).vroot.tag ≠ Tag.addr ∧ partOf run0 0 = some 0 ∧ inRanges run0 0 0x1FFFF8 8 = true ∧ inRanges run0 0 0x200000 8 = false ∧
      partOf { run0 with parts := [] } 0 = none) := by decide

theorem witness_BlockAccessResults :
    ready (cached .m) 0 = true ∧ regTag (cached .m) 0 2 = Tag.addr ∧ [0x100800, 0x100808, 0x100810, 0x100818].Nodup ∧
    (∀ pa ∈ [0x100800, 0x100808, 0x100810, 0x100818], devOf pa = none ∧ isCxl pa = false ∧ pa % 8 = 0 ∧ pa < 2 ^ 52 ∧
      (l2Data (cached .m) 0 (lineOf pa)).length = 16 ∧ storeHit (cached .m) 0 (lineOf pa) = true ∧ loadHit (cached .m) 0 (lineOf pa) = true ∧
      (lineWord (l2Data (cached .m) 0 (lineOf pa)) (wordOf pa % 16)).poison = false ∧
      vldBad (lineWord (l2Data (cached .m) 0 (lineOf pa)) (wordOf pa % 16)).w.tag = false) ∧
    isOk (blockAddrs (cached .m) 0 0x100800#64 .read) = true ∧ isOk (blockAddrs (cached .m) 0 0x100800#64 .write) = true ∧
    decBad (lane (vread { set0 with v := [(1, ofLanes [0xC#64, 0xC#64, 0xC#64, 0xC#64])] } 1) 3) = none := by decide

theorem witness_AtomicAtHome :
    (ready run0 0 = true ∧ predictorMode run0.mode.mode = false ∧ regTag run0 0 2 = Tag.addr ∧ isOk (memoryAddr run0 0 0x100800#64 8 .amo) = true ∧
      isCxl 0x100800 = false ∧ reaches run0 { agent := 0, line := 8208, r := .amo 0 0x100800 ⟨.add, gread set0 1, gread set0 1⟩, core := true } = true ∧
      homeRoom run0 8208 = true ∧ quiet run0 8208 = true ∧ (homeOf run0 8208).st = .st .i ∧ (lineWord (homeData run0 8208) 0).poison = false ∧ tagIn run0 0 1 accA = true ∧ tagIn run0 0 1 accAny = true ∧ regTag run0 0 3 = Tag.dec) ∧
    (isIntRawUser Tag.raw = true ∧ isIntRawUser Tag.addr = false ∧
      ¬((0x7FFFFFFFFFFFFFFF#64).toInt + (1#64).toInt < 2 ^ 63) ∧ (decVal 0x12C#64 + decVal 0x1C#64).natAbs ≤ 999999999999999) := by decide

theorem witness_MaintenanceResults :
    (ready run0 0 = true ∧ (curSet run0 0).tstat.priv = true ∧ modifiedLines run0 0 = []) ∧ (ready user0 0 = true ∧ (curSet user0 0).tstat.priv = false) ∧
    (isOk (memoryAddr (cached .m) 0 0x100800#64 128 .write) = true ∧ storeHit (cached .m) 0 8208 = true ∧ regTag (cached .m) 0 2 = Tag.addr ∧
      coreAsks (cached .m) 0 8208 = false) ∧
    (reaches run0 { agent := 0, line := 8208, r := .maint 0 .clean, core := true } = true ∧ (lcore run0 0).reply = none ∧
      coreAsks run0 0 8208 = false ∧ homeRoom run0 8208 = true ∧ quiet run0 8208 = true ∧ (homeOf run0 8208).st = .st .i ∧
      isOk (memoryAddr run0 0 0x100800#64 1 .read) = true ∧ isOk (memoryAddr run0 0 0x100800#64 1 .write) = true) := by decide

/-! Coherence, trios, memory and network. -/

def homed (h : HomeSt) (ls : List (Nat × L2Line)) : State :=
  { serving with coh := { l2 := ls, homes := [(8208, { st := h })] } }

theorem no_waits (h : HomeSt) (ls : List (Nat × L2Line)) (c : Nat) : (lcore (homed h ls) c).wait = none := rfl
/-- An agent's RdShared on line 8208, and its other requests there. -/
def askOf (a : Nat) (r : HomeReq) : OutReq := { agent := a, line := 8208, r := r, row := true }
/-- Every request credit of an L2 to its line's home taken (R226). -/
def spent : State :=
  { homed (.st .i) [] with coh := { out := List.replicate 4 (askOf 0 (.rdShared 0 false)) } }

set_option maxRecDepth 4000 in
/-- Each state of a home and of an L2 that a clause names; in every `homed` nothing is held, nothing is in flight and no core waits. -/
theorem witness_HomeTakesRequests :
    (isolatedFrom spent (agentHalf 0) 8208 = false ∧ hasCredit spent (askOf 0 (.rdShared 0 false)) = false ∧ inService spent = true ∧
      calm spent 128 = true ∧ (homeOf spent 8208).queue = []) ∧
    (let s := homed (.st .i) []
     calm s 128 = true ∧ noneFor s 0 8208 = true ∧ reaches s (askOf 0 (.rdShared 0 false)) = true ∧
       reaches s (askOf 0 (.amo 0 0x100800 ⟨.swap, TWord.mkInt 5#64, TWord.void⟩)) = true ∧
       reaches s { agent := 128, line := 8208, r := .wrLine 0 (List.replicate 128 0#8) 1#128 true, express := true } = true ∧
       (∀ k ∈ [MsgKind.cmpAtHome, .invalAck, .dataAtHome], passes s { kind := k, agent := 0, line := 8208 } = true)) ∧
    reaches (homed (.st (.s [0] none)) []) (askOf 0 (.upgrade 0 false)) = true ∧
    (inService (homed (.st .i) []) = true ∧ (homeOf (homed (.st .i) []) 8208).st = .st .i ∧ (homeOf (homed (.st .i) []) 8208).queue = [] ∧
      (l2Line (homed (.st .i) []) 0 8208).st = .i ∧ lineOf 0x100800 = 8208 ∧ isCxl 0x100800 = false ∧ isCxl (8208 * 128) = false ∧
      (lineWord (homeData (homed (.st .i) []) 8208) 0).poison = false ∧
      amoApply false ⟨.swap, TWord.mkInt 5#64, TWord.void⟩ (lineWord (homeData (homed (.st .i) []) 8208) 0).w = (.ok, some (TWord.mkInt 5#64)) ∧
      (List.replicate 128 (0#8 : Byte)).length = 128) ∧
    (let s := homed (.st (.s [0] none)) [(8208, { st := .st .s })]; (homeOf s 8208).st = .st (.s [0] none) ∧ (l2Line s 0 8208).st = .st .s) ∧
    (homeOf (homed (.bC 0 (.em 0)) []) 8208).st = .bC 0 (.em 0) ∧
    (homeOf (homed (.bA [0] (.upgrade 1 false) true) []) 8208).st = .bA [0] (.upgrade 1 false) true ∧
    (homeOf (homed (.bFC 0 false true (.rdShared 1 false) (.em 0) []) []) 8208).st = .bFC 0 false true (.rdShared 1 false) (.em 0) [] ∧
    (let s := homed (.st (.em 0)) [(8208, { st := .st .m })]; (l2Line s 0 8208).st = .st .m ∧ (homeOf s 8208).st = .st (.em 0)) ∧
    (l2Line (homed (.st (.em 0)) [(8208, { st := .st .e })]) 0 8208).st = .st .e := by decide

theorem witness_EvictionsAtHome :
    (let s := homed (.st (.em 0)) [(8208, { st := .st .m })]
     inService s = true ∧ calm s 128 = true ∧ noneFor s 0 8208 = true ∧ (homeOf s 8208).queue = [] ∧ isCxl (8208 * 128) = false ∧
       evictBusy s 0 8208 = false ∧ evictDead s 0 8208 = false ∧ passes s { kind := .wbDirty, agent := 0, line := 8208 } = true ∧
       (l2Line s 0 8208).st = .st .m ∧ (homeOf s 8208).st = .st (.em 0)) ∧
    (l2Line (homed (.st (.em 0)) [(8208, { st := .st .e })]) 0 8208).st = .st .e ∧
    (let s := homed (.st (.s [0] none)) [(8208, { st := .st .s })]; (l2Line s 0 8208).st = .st .s ∧ (homeOf s 8208).st = .st (.s [0] none)) := by
  decide

theorem witness_CacheAnswersMessages :
    inService (homed (.st .i) []) = true ∧ calm (homed (.st .i) []) 128 = true ∧ noneFor (homed (.st .i) []) 0 8208 = true ∧
    passes (homed (.st .i) []) { kind := .data, agent := 0, line := 8208 } = true ∧ (l2Line (homed (.st .i) [(8208, { st := .isD })]) 0 8208).st = .isD ∧ Line.zero.length = 16 ∧
    (let l := l2Line (homed (.st .i) [(8208, { st := .smG false })]) 0 8208; l.st = .smG false ∧ l.zero = false) ∧
    (l2Line (homed (.st .i) [(8208, { st := .xiA .m })]) 0 8208).st = .xiA .m ∧
    (l2Line (homed (.st .i) [(8208, { st := .st .m })]) 0 8208).st = .st .m ∧
    ((l2Line (homed (.st .i) []) 0 8208).st = .i ∧ homeSlice (homed (.st .i) []) 8208 < 64) := by decide

theorem witness_WellFormedCommandsRun : Instr.resetNAssert.wellFormed = true ∧ ([] : List Byte).length ≠ 128 ∧ ([] : Line).length ≠ 16 := by decide

/-- H0 is lost and stands behind its hull; an AmoRsp is on its way. -/
def isolated : State :=
  { homed (.st .i) [(8208, { st := .st .m })] with net := { hulls := [(0, { active := true, ever := true }), (1, { active := true, ever := true })] } }
def amoMsg : CohMsg := { kind := .amoRsp, agent := 0, line := 8208, toRequest := true }
def amoReq : HomeReq := .amo 0 0x100800 ⟨.add, TWord.mkInt 1#64, TWord.void⟩
/-- The AmoReq of agent 0 answered by the home: of a command, or of the instruction that LCORE[0] waits for. -/
def answeredTo (core : Bool) : State :=
  { serving with lcores := [(0, { core0 set0 with replay := if core then some { set := 0, rd := 3, value := TWord.void, arrived := false
                                                                                amo := some { pa := 0x100800, args := ⟨.add, TWord.mkInt 1#64, TWord.void⟩
                                                                                              near := false } }
                                                  else none })]
                 coh := { net := [amoMsg], out := [{ askOf 0 amoReq with core := core }] } }

theorem witness_ArrayErrorsAndIsolation :
    (inService isolated = true ∧ l2Holds (l2Line isolated 0 8208).st = true ∧ homeSlice isolated 8208 < 64 ∧
      isolatedFrom isolated (lcoreHalf 0) 8208 = true ∧ evictDead isolated 0 8208 = true) ∧
    (∀ b, inFlight (answeredTo b) .amoRsp 0 (lineOf 0x100800) = some amoMsg ∧ passes (answeredTo b) amoMsg = true ∧
      outFor (answeredTo b) 0 (lineOf 0x100800) 2 = some { askOf 0 amoReq with core := b }) ∧
    calm (answeredTo false) 128 = true ∧
    (let s := answeredTo true
     calm s 0 = true ∧ amoMsg.status = .ok ∧ takesInputs s 0 = true ∧ (curSet s 0).tstat.mcpend = false ∧ (lcore s 0).wait = none ∧
       (lcore s 0).replay.any (fun r => r.amo.any (fun x => !x.near) && r.vec.isNone && !r.isolated) = true) ∧
    (let s : State := { serving with cxl := [(0, { capacity := some 64 })] }
     cxlPortOf (lineOf 0x8000000000000 * 128) = some 0 ∧ (cxlPort s 0).capacity ≠ none ∧ (cxlPort s 0).lost = false) := by decide

/-- TRIO[0] 2-of-3, its first member back in lockstep since the pip given. -/
def entered (k : Nat) : State :=
  { serving with trios := [(0, { state := .voted, a := { core := .core 0, lockstep := true, entryPip := some k }
                                 b := { core := .core 1, lockstep := true }, c := { core := .core 2, lockstep := true } })]
                 time := { pip := 1040, grain := 20 } }

theorem witness_DissentAndNoMajority :
    ((trio serving 0).state = .voted ∧ lockstepSet (trio serving 0) = [0, 1, 2] ∧ timeRuns serving = true ∧ coreOf (trio serving 0) 0 = some 0 ∧
      partOf serving 0 = some 0 ∧ (member (trio serving 0) 0).entryPip = none ∧ findCore serving 0 = some (0, 0)) ∧
    ((member (trio (entered 39) 0) 0).entryPip = some 39 ∧ 39 + 1000 < pip (entered 39) ∧ (trio (entered 39) 0).state = .voted) ∧
    ((member (trio (entered 40) 0) 0).entryPip = some 40 ∧ pip (entered 40) ≤ 40 + 1000 ∧ lockstepSet (trio (entered 40) 0) = [0, 1, 2] ∧
      coreOf (trio (entered 40) 0) 0 = some 0) ∧
    (votes (trio run0 0) = true ∧ (trio run0 0).retryAt ≠ some (lcore run0 0).retired) ∧
    (let s : State := { run0 with trios := [(0, { state := .voted, retryAt := some 0 })] }
     votes (trio s 0) = true ∧ (trio s 0).retryAt = some (lcore s 0).retired ∧ (trio s 0).rebuilds = [] ∧ timeRuns s = true) := by decide

/-- TRIO[0] in checkstop since pip 20, in pip `k`. -/
def checkstop (k : Nat) (ab bc ac : Bool) : State :=
  { serving with time := { pip := k, grain := 20 }
                 trios := [(0, { state := .checkstop, ckPip0 := some 20, ckMembers := [0, 1, 2], ckLastPip := k - 1
                                 agreeAB := ab, agreeBC := bc, agreeAC := ac, a := { core := .core 0 }, b := { core := .core 1 }
                                 c := { core := .core 2 } })] }
/-- A rebuild of its position 1 whose step 1 ran in pip 10. -/
def inRebuild (k : Nat) : State :=
  { serving with time := { pip := k, grain := 20 }
                 trios := [(0, { state := .resync, a := { core := .core 0, lockstep := true }, b := { core := .core 1 }
                                 c := { core := .core 2, lockstep := true }
                                 rebuilds := [{ pos := 1, integrate := false, pip0 := 8, stamp0 := 0, started := some 10 }] })] }

theorem witness_CheckstopRecovery :
    (inService (checkstop 26 true true true) = true ∧ (trio (checkstop 26 true true true) 0).state = .checkstop ∧
      (trio (checkstop 26 true true true) 0).ckPip0 = some 20 ∧ (trio (checkstop 26 true true true) 0).ckLastPip < 26 ∧ 6 ≤ 26 - 20 ∧
      (trio (checkstop 41 true true true) 0).ckLastPip < 41 ∧ 41 - 20 ≤ 21) ∧
    (let t := trio (checkstop 22 true true true) 0
     t.ckLastPip < 22 ∧ 2 ≤ 22 - 20 ∧ coreOf t 0 = some 0 ∧ t.ckMembers = [0, 1, 2] ∧ t.ckFailed = [] ∧ 25 - 20 ≤ 5) ∧
    (20 + 22 ≤ pip (checkstop 42 true true true) ∧ agreeing (trio (checkstop 42 true true true) 0) = [(0, 1), (0, 2), (1, 2)] ∧
      agreeing (trio (checkstop 42 true false false) 0) = [(0, 1)] ∧
      (trio (checkstop 42 true false false) 0).ckMembers = [0, 1, 2] ∧ (trio (checkstop 42 true false false) 0).ckFailed = [] ∧ agreeing (trio (checkstop 42 false false false) 0) = [] ∧
      (lcore (checkstop 42 true true true) 0).replay = none) ∧
    (∀ j, (taskSet (checkstop 42 true true true) 0 j).tstat.mcpend = false) ∧
    (let r : Rebuild := { pos := 1, integrate := false, pip0 := 8, stamp0 := 0, started := some 10 }
     (trio (inRebuild 50) 0).rebuilds.find? (fun x => x.pos == 1) = some r ∧ inService (inRebuild 50) = true ∧
       (trio (inRebuild 50) 0).state ≠ .split ∧ limitPip r 10 = 49 ∧ limitPip r 10 < pip (inRebuild 50) ∧ pip (inRebuild 49) ≤ limitPip r 10) :=
  ⟨by decide, by decide, by decide, fun _ => rfl, by decide⟩

/-- TRIO[0] split, LCORE[1] at a checkpoint as given. -/
def splitAt (l : LCore) : State :=
  { serving with trios := [(0, { state := .split, splitBoot := true, a := { core := .core 0 }, b := { core := .core 1 } })], lcores := [(1, l)] }
def ckCore (k : Nat) : LCore := { core0 set0 with ckPip0 := some k }

theorem witness_SplitCoreErrors :
    ((trio (splitAt (core0 set0)) (trioOf 1)).state = .split ∧ timeRuns (splitAt (core0 set0)) = true ∧ (core0 set0).failed = false ∧
      (core0 set0).ckPip0 = none ∧ (core0 set0).splitRetryAt ≠ some (core0 set0).retired) ∧
    (lcore (splitAt { core0 set0 with splitRetryAt := some 0 }) 1).splitRetryAt = some (lcore (splitAt { core0 set0 with splitRetryAt := some 0 }) 1).retired ∧
    (inService (splitAt (ckCore 34)) = true ∧ (lcore (splitAt (ckCore 34)) 1).ckPip0 = some 34 ∧ 34 + 6 ≤ pip (splitAt (ckCore 34)) ∧
      (lcore (splitAt (ckCore 34)) 1).replay = none ∧ (curSet (splitAt (ckCore 34)) 1).tstat.mcpend = false ∧
      (∀ r ∈ (trio (splitAt (ckCore 34)) 0).rebuilds, r.pos ≠ 1 % 2)) ∧
    (35 + 5 ≤ pip (splitAt (ckCore 35)) ∧ coreOf (trio (splitAt (ckCore 35)) 0) (1 % 2) = some 1) := by decide

/-- Stack 0 as given, the rest absent. -/
def stacked (x : Stack) : State := { serving with stackTab := [(0, x)] }
def act : Stack := { state := .active }

theorem witness_MemoryErrors :
    (timeRuns serving = true ∧ stackUp serving 0 = true ∧ stackOf serving 0x100000 = some 0 ∧ partOnStack serving 0 0 = true) ∧
    (patrolOn serving 0 = true ∧ (stack serving 0).patrolNext ≤ pip serving ∧ (stack serving 0).patrolGroup + 1 < 37748736 ∧
      (stack (stacked { act with patrolGroup := 37748735 }) 0).patrolGroup + 1 = 37748736 ∧ (patrolAddr serving 0 6).bind (stackOf serving) = some 0) ∧
    ((stack (stacked { act with slowPips := 1000 }) 0).slowNow = false ∧ 1000 ≤ (stack (stacked { act with slowPips := 1000 }) 0).slowPips ∧
      (stack (stacked { act with slowPips := 999 }) 0).slowPips < 1000 ∧ (stack (stacked { act with slowNow := true }) 0).slowNow = true) ∧
    (let s : State := { stacked { act with idlePips := 1000 } with mode := { mode := 9, base := 5, parkCond := true } }
     s.mode.parkCond = true ∧ coldDie s (0 / 4) = false ∧ stackServes s 0 = true ∧ 1000 ≤ (stack s 0).idlePips) ∧
    (let s : State := { serving with cxl := [(0, { capacity := some 64 })] }
     timeRuns s = true ∧ (cxlPort s 0).lost = false ∧ (cxlPort s 0).capacity.isSome = true) := by decide

/-- Half-to-half links 0 to 2 down as given, link 3 with `k` resends in pip 40. -/
def linked (down : Bool) (k : Nat) : State :=
  { serving with net := { links := [(0, { up := !down }), (1, { up := !down }), (2, { up := !down }), (3, { resends := [(7, k)], resendPip := 40 })] } }
def oneLink (l : LinkSt) : State := { serving with net := { links := [(0, l), (1, l), (2, l), (3, l)] } }
/-- In M7, P[0] spanning and held for its evaluation, with `free` bytes free in its home half. -/
def inM7 (free : Nat) : State :=
  { oneLink { up := false } with
    mode := { mode := 7, base := 5, split := true, m7Free := (free, 0) }
    parts := [(0, { defined := true, state := .held, evaluate := true, ranges := [(0, (0x100000, 0x100000)), (1, (0x1F80000000, 0x100000))]
                    lcores := 1#128 })]
    boot := { entries := [(0x201, [1#8])] } }

set_option maxRecDepth 4000 in
theorem witness_DieLinks :
    (diesPowered serving = true ∧ (link (linked true 14) 3).up = true ∧ (link (linked true 14) 3).resendPip = pip (linked true 14) ∧
      tget 0 (link (linked true 14) 3).resends 7 < 15 ∧ tget 0 (link (linked true 15) 3).resends 7 = 15 ∧ (link serving 3).resendPip ≠ pip serving ∧
      d2dUp (linked false 15) ≠ 2 ∧ (linked true 15).net.d2dDegraded = false ∧
      d2dUp { linked true 15 with net := { links := [(0, { up := false }), (1, { up := false }), (2, {}), (3, { resends := [(7, 15)], resendPip := 40 })] } } = 2) ∧
    ((link (oneLink { up := false }) 0).downForRejoin = false ∧ (link (oneLink { up := false, retrainBy := some 44 }) 0).retrainBy.isSome = true ∧
      (link (oneLink { up := false, downForRejoin := true }) 0).downForRejoin = true ∧ (link (oneLink {}) 0).retrainBy = none ∧ (link (oneLink {}) 0).up = true) ∧
    (let s := oneLink { up := false }
     s.mode.base = 5 ∧ s.mode.mode ≠ 11 ∧ s.mode.split = false ∧ d2dUp s = 0 ∧ dieLost s 0 = false ∧ dieLost s 1 = false ∧
       actingHusk s ≠ none ∧ s.net.healthy = 3#2 ∧ (2#2).getLsbD 0 = false ∧ (2#2).getLsbD 1 = true ∧ (1#2).getLsbD 0 = true ∧ (1#2).getLsbD 1 = false ∧
       actingHusk { s with husks := {} } = none) ∧
    (let s : State := { inM7 0 with time := { pip := 1000, grain := 20 } }; inService s = true ∧ s.mode.split = true ∧ s.net.lastRetrain + 1000 ≤ pip s) ∧
    (inService (inM7 0) = true ∧ (part (inM7 0) 0).evaluate = true ∧ (part (inM7 0) 0).state = .held ∧
      partBytesIn (inM7 0) 0 0 + 0 < partBytes (inM7 0) 0) ∧
    (partBytes (inM7 0x200000) 0 ≤ partBytesIn (inM7 0x200000) 0 (part (inM7 0x200000) 0).homeHalf + (inM7 0x200000).mode.m7Free.1 ∧
      memAll8 (inM7 0x200000) = true) := by decide

def domained (d : Domain) (w : Wake) : State := setWake serving d w
def hulled (h : Hull) : State := { serving with net := { hulls := [(9, h)] } }

theorem witness_SleepAndDeadTargets :
    (inService (domained (.engine 0) .asleep) = true ∧ wakeOf (domained (.engine 0) .asleep) (.engine 0) = .asleep ∧
      (domained (.engine 0) .asleep).mode.parkCond = false ∧
      wakeOf { domained (.trio 0) .asleep with mode := { mode := 9, base := 5, parkCond := true } } (.trio 0) = .asleep ∧
      wakeOf (domained (.stack 0) (.waking 36 1)) (.stack 0) = .waking 36 1 ∧ 36 + 3 < pip (domained (.stack 0) (.waking 36 1)) ∧
      pip (domained (.stack 0) (.waking 37 1)) ≤ 37 + 3) ∧
    (let o := askOf 0 (.rdShared 0 false)
     let s : State := { serving with coh := { out := [{ o with since := 32 }] } }
     o ∈ [o] ∧ diesPowered s = true ∧ agentDie o.agent = 0 ∧ 10 ∈ lineTargets s o.line ∧ max 32 (timerFrom s 10) + 8 ≤ pip s ∧
       unanswered serving = []) ∧
    (({ serving with net := { dead := [(9, 1#2, 39)] } } : State).net.dead.find? (fun e => e.1 == 9) = some (9, 1#2, 39)) ∧
    (hull (hulled { active := true }) 9).active = true ∧
    (let s : State := { serving with time := { pip := 2101, grain := 0 } }
     2 ≤ s.mode.base ∧ s.mode.mode ≠ 11 ∧ dieLost s 2 = false ∧ tget 0 s.net.renewSeen 2 + 2100 < pip s ∧
       dieLost s 0 = false ∧ tget 0 s.net.renewSeen 0 + 2100 < pip s ∧ (stack s 0).state ≠ .fenced ∧ (stack s 0).state ≠ .unpowered) := by decide

/-! Rings, exchanges and paths. -/

def chLive : Chan := { group := some 0, pcs := true, state := .live, peer := some 7#48, lastValid := 21, epoch := 1 }
def grp : Group := { opened := true, chans := [0, 128], remote := 77#64, mask := 1#16, isProtected := true }
def pair0 : Ring := { active := true, sqBase := 0x10000, cqBase := 0x12000, source := 1400, sqTail := 2#32 }
def leaf0 : Leaf := { slice := 0, page := 0x10, shift := 12, pa := 0x110000, r := true, w := true }
def queue0 : EqQueue := { active := true, base := 0x10000, source := 1401, eqTail := 1#32 }

/-- Slice 0 of P[0] with ring pair and engine queue 0, group 0 over CH[0] LIVE, and the exchanges and jobs given. -/
def slice0 (es : List Exch) (js : List Job) : State :=
  { serving with slices := [(0, { state := .active, part := 0, pid := 3, gen := 1 })], rings := [(0, pair0)], eqs := [(0, queue0)]
                 chans := [(0, chLive)], groups := [(0, grp)], leaves := [(0, [leaf0])], exchs := es, jobs := js
                 engs := [(0, { state := .active }), (1, { state := .active })] }
def x0 : ExId := { slice := 0, pair := 0, idx := 0#32 }
def ex (op : Nat) (st : ExSt) : Exch :=
  { id := x0, part := 0, gen := 1, seqNo := 5, opcode := op, flags := 0, group := 0, length := 128, sgl := 0, sglCount := 1, timeout := 0
    remote := 0#64, arg := 6#64, cookie := 9#64, owner := 0, st := st, wireLen := 128, bufs := [(0x10000, 128)] }
def onCh (e : Exch) : Exch := { e with path := some 0, openPip := some 30, waitSince := some 30 }
def other (op : Nat) (st : ExSt) : Exch := { ex op st with id := { x0 with idx := 0xFFFFFFFF#32 }, seqNo := 6 }

theorem witness_RingCounters :
    (inService (slice0 [] []) = true ∧ pageLive (slice0 [] []) 0 0 = true ∧ queueLive (slice0 [] []) 0 0 = true) ∧
    (2 ^ 31 ≤ ((1#32 : W32) - pair0.sqTail).toNat ∧ 2 ^ pair0.sqK < ((65#32 : W32) - pair0.sqHead).toNat) ∧
    (((64#32 : W32) - pair0.sqTail).toNat < 2 ^ 31 ∧ ((64#32 : W32) - pair0.sqHead).toNat ≤ 2 ^ pair0.sqK) ∧
    (let r : Ring := { pair0 with sqWm := 3 }; r.sqWm ≠ 0 ∧ (r.sqTail - r.sqHead).toNat < r.sqWm ∧ r.sqWm ≤ ((3#32 : W32) - r.sqHead).toNat ∧
      ¬ 3 ≤ ((2#32 : W32) - r.sqHead).toNat) ∧
    (2 ^ 31 ≤ ((0xFFFFFFFF#32 : W32) - pair0.cqHead).toNat ∧ 2 ^ 31 ≤ (pair0.cqTail - (1#32 : W32)).toNat ∧ ((0#32 : W32) - pair0.cqHead).toNat < 2 ^ 31 ∧
      (pair0.cqTail - (0#32 : W32)).toNat < 2 ^ 31) ∧
    (2 ^ queue0.k < ((17#32 : W32) - queue0.eqHead).toNat ∧ ((16#32 : W32) - queue0.eqHead).toNat ≤ 2 ^ queue0.k ∧
      ((16#32 : W32) - queue0.eqTail).toNat < 2 ^ 31) ∧
    ((sliceE (slice0 [] []) 0).state ≠ .free ∧ (ring (slice0 [] []) 1).active = false ∧ (eqq (slice0 [] []) 1).active = false ∧
      (sliceE (slice0 [] []) 1).state = .free) := by decide

/-- The ring's slots read as zero, or its page does not translate. -/
def noLeaf : State := { slice0 [] [] with slices := [(0, { state := .active, part := 0, gen := 1, root := 0x100000 })], leaves := [] }

/-- The mirror link of IO[0] and IO[1] is down. -/
def noMirror (es : List Exch) : State :=
  let s := slice0 es []
  { s with net := { s.net with links := [(linkNo (.mirror 0), { up := false })] } }

theorem witness_Acceptance :
    (inService (slice0 [ex 1 .allocated] []) = true ∧ exch (slice0 [ex 1 .allocated] []) x0 = some (ex 1 .allocated) ∧ (ex 7 .mirrored).res = none ∧
      mirrors (slice0 [ex 1 .allocated] []) 0 = true ∧ mirrors (noMirror [ex 1 .allocated]) 0 = false) ∧
    (∀ op ∈ [1, 2, 3, 4, 5, 6, 7], acceptReady (slice0 [ex op .mirrored] []) (ex op .mirrored) = true ∧
      exch (slice0 [ex op .mirrored] []) x0 = some (ex op .mirrored) ∧ membersOf (slice0 [ex op .mirrored] []) x0 = []) ∧
    ((ex 1 .mirrored).dataFault = none ∧ groupOk (slice0 [{ ex 1 .mirrored with group := 1 }] []) 1 0 0 = false ∧
      acceptFault (slice0 [ex 1 .mirrored, { other 1 .accepted with seqNo := 5 }] []) (ex 1 .mirrored) = none ∧ seqLive (slice0 [ex 1 .mirrored, { other 1 .accepted with seqNo := 5 }] []) (ex 1 .mirrored) = true) ∧
    (let e : Exch := { ex 7 .mirrored with length := 0 }
     acceptReady (slice0 [e] []) e = true ∧ e.flags = 0 ∧ acceptFault (slice0 [e, other 1 .accepted] []) e = none ∧
     seqLive (slice0 [e, other 1 .accepted] []) e = false ∧
     (exch (slice0 [e, { other 1 .data with cancelledBy := some { x0 with idx := 7#32 } }] []) (other 1 .data).id).bind (·.cancelledBy) =
       some { x0 with idx := 7#32 } ∧
     (∀ o ∈ (slice0 [e] []).exchs, ¬ (o.id ≠ x0)) ∧
     (∀ st ∈ [ExSt.accepted, .remoteComplete, .inFlight, .awaitAck, .data],
       exch (slice0 [e, other 1 st] []) (other 1 st).id = some (other 1 st) ∧ (other 1 st).gen = e.gen ∧ isAccepted (other 1 st) = true ∧
       (other 1 st).seqNo = e.arg.toNat % 2 ^ 24 ∧ (∀ p ∈ (slice0 [e, other 1 st] []).exchs, p.id ≠ x0 → p = other 1 st)) ∧
     7 ≤ exRank (other 1 .remoteComplete).st ∧ (chan (slice0 [e] []) 0).state = .live ∧ windowRoom (chan (slice0 [e] []) 0) = true ∧
     (chan (slice0 [e] []) 0).queued = []) ∧
    (let s := slice0 [] []
     pageLive s 0 0 = true ∧ pair0.pairLost = false ∧ pair0.cqLost = false ∧ pair0.fetchStopped = false ∧ pair0.tearing = false ∧
     sliceServed s 0 = true ∧ ioLost s 0 = false ∧ unaccepted s 0 0 < (pair0.sqTail - pair0.sqHead).toNat ∧
     (readSlot s 0 0 0x10000 6 0).2.isSome = true ∧ 0 + 0 < (pair0.sqTail - pair0.sqHead).toNat ∧
     (pair0.sqHead - pair0.cqHead).toNat + 0 + 0 < 2 ^ pair0.cqK ∧ (readSlot noLeaf 0 0 0x10000 6 0).2 = none ∧ noLeaf.exchs = []) := by decide

theorem witness_ExchangeExpiries :
    (let s : State := { slice0 [onCh (ex 1 .accepted)] [] with time := { pip := 1000030, grain := 20 }, chans := [] }
     inService s = true ∧ exch s x0 = some (onCh (ex 1 .accepted)) ∧ (chan s 0).state ≠ .live ∧ 30 + (group s 0).noPathWait ≤ pip s) ∧
    (pip { slice0 [onCh (ex 1 .accepted)] [] with time := { pip := 1000029, grain := 20 } } < 30 + grp.noPathWait) ∧
    (∀ st ∈ [ExSt.inFlight, .awaitAck, .data], (onCh (ex 1 st)).openPip = some 30 ∧ (onCh (ex 1 st)).abort = none ∧
      (onCh (ex 1 st)).terminating = false ∧ (onCh (ex 1 st)).path = some 0) ∧
    (let s := slice0 [{ onCh (ex 1 .data) with timeout := 10 }] []; 30 + 10 ≤ pip s ∧ pip s < 31 + 10 ∧ windowRoom (chan s 0) = true ∧
       (chan s 0).queued = []) ∧
    (let s : State := { slice0 [{ onCh (ex 1 .data) with abort := some ⟨2, 3, 30⟩ }] [] with time := { pip := 230, grain := 20 } }
     30 + 200 ≤ pip s ∧ 3 < 4 ∧ pip s < 31 + 200 ∧ (chan s 0).state = .live) ∧
    (let s := slice0 [onCh (ex 1 .inFlight)] []
     0 < (chan s 0).slotsLeft ∧ openCount s 0 < (chan s 0).peerMaxOpen ∧ nextInLine s (onCh (ex 1 .inFlight)) = true ∧
     jobReady s (onCh (ex 1 .inFlight)) = true ∧ mirrors s 0 = true) ∧
    ({ onCh (ex 2 .data) with ackNew := true, wireLen := 0 } : Exch).lastSent = false ∧
    (let e : Exch := { onCh (ex 2 .data) with ackNew := true }
     e.lastSent = false ∧ job (slice0 [e] []) (.inl x0) = none ∧
     isOk (sglRead 0 0 (slice0 [e] []) (sglPieces e.bufs 0 (min (maxDataOf grp 0 chLive) 128)) []).2 = true) := by decide

def okRes : ExRes := { code := 0, detail := 0 }

theorem witness_RecordLife :
    (let e : Exch := { ex 1 .remoteComplete with res := some okRes }
     inService (slice0 [e] []) = true ∧ exch (slice0 [e] []) x0 = some e ∧ 3 ≤ exRank e.st ∧ exRank e.st < 8 ∧ e.terminating = false ∧
     ioQuiet (slice0 [e] []) 0 = true ∧ mirrors (slice0 [e] []) 0 = true) ∧
    (let e : Exch := { ex 1 .logged with res := some okRes }
     composeTurn (slice0 [e] []) e = true ∧ e.st = .logged ∧ mirrors (noMirror [e]) 0 = false) ∧
    (let e : Exch := { ex 7 .logged with res := some okRes, target := some (other 1 .accepted).id }
     composeTurn (slice0 [e, other 1 .accepted] []) e = false) ∧
    (let e : Exch := { ex 1 .composed with res := some okRes, record := List.replicate 32 0#8 }
     ioQuiet (slice0 [e] []) (serveDie 0 pair0.serve) = true ∧ e.flags.testBit 1 = false ∧ e.record ≠ [] ∧
     pair0.completionPip ≠ some (pip (slice0 [e] []))) := by decide

/-- IO[0] is lost, and its partner as given; the exchanges are of IO[0]. -/
def ioDown (b : Bool) (es : List Exch) : State := { slice0 es [] with net := { lost := [(2, true), (3, b)] } }

theorem witness_TakeoverAndReset :
    (let e : Exch := { ex 1 .logged with res := some okRes }
     let s := ioDown false [e]
     inService s = true ∧ ioLost s 0 = true ∧ ioLost s (0 ^^^ 1) = false ∧ exch s x0 = some e ∧ isAccepted e = true ∧ e.owner = 0 ∧ e.st ≠ .composed ∧
     tsorted s.rings = true ∧ (ring s 0).active = true ∧ serveDie 0 (ring s 0).serve = 0 ∧ (0, grp) ∈ s.groups ∧ grp.isProtected = true ∧
     (∃ n ∈ grp.chans, chanDie n = 0) ∧ grp.mask.getLsbD 0 = true ∧
     isAccepted (ex 1 .mirrored) = false ∧ (ex 1 .mirrored).owner = 0) ∧
    (let s := ioDown true [ex 1 .accepted]
     ioLost s (2 * 0) = true ∧ ioLost s (2 * 0 + 1) = true ∧ (0, pair0) ∈ s.rings ∧ pair0.pairLost = false ∧ (sliceE s (0 / 2)).part < 16) ∧
    (let s : State := { slice0 [{ ex 1 .data with terminating := true }] [] with slices := [(0, { state := .resetting, part := 0, gen := 1 })] }
     (sliceE s 0).state = .resetting ∧ (∀ d, d < 4 → ioQuiet s d = true) ∧ (∀ e ∈ s.exchs, e.id.slice = 0 → e.st ≠ .composed)) := by decide

/-- A frame header of type `t` that CH[0] accepts, for the exchange of `ex`. -/
def hdrOf (t : Byte) (tag : W64) : FrameHdr :=
  { ftype := t, etherType := 0x88B5#16, src := 7#48, fcsOk := true, authOk := true, version := 0x10#8, flags := 0#8, path := 0#8, epoch := 1#8
    bodyLength := 0#16, tag := tag, seq := 0#32, ackSeq := 0#32, keyEpoch := 0#32 }
def hdr (tag : W64) : FrameHdr := hdrOf 2#8 tag
def tag0 : W64 := tagOf (ex 1 .data)

theorem witness_FramesReceived :
    (inService (slice0 [onCh (ex 1 .data)] []) = true ∧ (∀ t ∈ [2, 3, 4, 5], acceptable (slice0 [onCh (ex 1 .data)] []) 0 0 t (hdrOf (BitVec.ofNat 8 t) tag0) = true) ∧
      acceptable (slice0 [] []) 0 0 3 (hdrOf 3#8 0#64) = true ∧ (hdrOf 0xFF#8 tag0).ftype.toNat ∉ [2, 3, 4, 5, 8, 9, 10] ∧
      (hdr tag0).seq.toNat = (chan (slice0 [] []) 0).rxSeq ∧ matchFrame (slice0 [onCh (ex 1 .data)] []) 0 tag0 = .of (onCh (ex 1 .data)) ∧
      (0#32 : W32).toNat = (onCh (ex 1 .data)).rcvd ∧ (onCh (ex 1 .data)).rcvd + [1#8].length ≤ (onCh (ex 1 .data)).wireLen) ∧
    (crc32c [1#8] ≠ 0#32 ∧ (chan (slice0 [] []) 0).nakFor ≠ some (chan (slice0 [] []) 0).rxSeq ∧ (chan (slice0 [] []) 0).queued = [] ∧
      (group (slice0 [] []) 0).query = none ∧ seqAfter ({ hdrOf 4#8 0#64 with seq := 3#32 } : FrameHdr).seq.toNat (chan (slice0 [] []) 0).rxSeq = true ∧
      seqAfter (hdr 0#64).seq.toNat (chan (slice0 [] []) 0).rxSeq = false) ∧
    (matchFrame (slice0 [onCh (ex 1 .awaitAck)] []) 0 tag0 = .of (onCh (ex 1 .awaitAck)) ∧ (hdr tag0).tag ≠ 0#64 ∧ (hdr 0#64).tag = 0#64 ∧
      job (slice0 [onCh (ex 1 .data)] []) (.inl x0) = none) ∧
    (matchFrame (slice0 [] []) 0 tag0 = .late ∧ matchFrame (slice0 [{ onCh (ex 1 .data) with attempt := 1 }] []) 0 tag0 = .stale) := by decide

def probing (k : Nat) : State :=
  { slice0 [] [] with chans := [(0, { chLive with state := .probing, hellos := k })] }
def hello (id : W64) (fl : Byte) : HelloBody :=
  { senderId := id, incarnation := 1#32, pathIndex := 0#8, pathCount := 2#8, helloRx := 5#8, hflags := fl, window := 16#16, maxData := 2048#16
    maxOpen := 4#16, retain := 0#32, keyEpoch := 0#32, nextEpoch := 0#32, stamp := 0#32, echo := 0#32, echoDelay := 0#32 }
def frame0 : TxFrame := { ftype := 1, seq := 0, sequenced := true, tag := 0#64, body := [] }
def unackd (k since : Nat) : State :=
  { slice0 [] [] with chans := [(0, { chLive with unacked := [frame0], rtoCount := k, oldestSince := since })] }

theorem witness_PathLiveness :
    (let h : FrameHdr := { hdrOf 9#8 0#64 with epoch := 2#8 }
     inService (probing 2) = true ∧ (chan (probing 2) 0).group = some 0 ∧ (chan (probing 2) 0).pcs = true ∧ ioLost (probing 2) (chanDie 0) = false ∧
     outerOk (probing 2) 0 9 h = true ∧ authAccepted (probing 2) 0 h = true ∧ (chan (probing 2) 0).state = .probing ∧
     (group (probing 2) 0).remote = 77#64 ∧ (group (probing 2) 0).keyValue = none ∧ helloCounts (probing 2) 0 0 h (hello 77#64 1#8) = true ∧
     (chan (probing 2) 0).hellos = 2 ∧ (chan (probing 1) 0).hellos < 2 ∧ helloCounts (probing 2) 0 0 h (hello 77#64 0#8) = false) ∧
    ((chan (slice0 [] []) 0).state = .live ∧ (hello 78#64 1#8).senderId ≠ (group (slice0 [] []) 0).remote ∧
      (hdr 0#64).epoch.toNat = (chan (slice0 [] []) 0).epoch) ∧
    (acceptable (slice0 [] []) 0 0 10 (hdrOf 10#8 0#64) = true ∧ seqAfter (hdr 0#64).seq.toNat (chan (slice0 [] []) 0).rxSeq = false ∧ (livePaths (slice0 [] []) 0).find? (fun k => (chan (slice0 [] []) k).peerIndex == 0) = some 0) ∧
    (chan (slice0 [] []) 0).helloSent = none ∧
    ((chan { slice0 [] [] with time := { pip := 41, grain := 0 } } 0).lastValid + grp.dPips ≤ 41 ∧
      pip (slice0 [] []) < (chan (slice0 [] []) 0).lastValid + grp.dPips) ∧
    ((chan (unackd 7 36) 0).unacked = [frame0] ∧ (chan (unackd 7 36) 0).oldestSince + grp.rto ≤ pip (unackd 7 36) ∧ grp.retxMax ≤ 7 + 1 ∧
      6 + 1 < grp.retxMax) ∧
    (onPath (onCh (ex 1 .data)) = true ∧ (onCh (ex 1 .data)).terminating = false ∧ (onCh (ex 1 .data)).abort = none ∧ (onCh (ex 1 .data)).pin = none ∧ 0 + 1 ≤ grp.attemptMax) := by decide

def keyed (g : Group) : State := { slice0 [] [] with groups := [(0, g)] }

theorem witness_RekeyAndOutcomeQuery :
    (let g : Group := { grp with keyValue := some 1#512, rekeyInterval := 40 }
     inService (keyed g) = true ∧ (group (keyed g) 0).opened = true ∧ g.keyPip + g.rekeyInterval ≤ pip (keyed g) ∧ g.keyValue.isSome = true ∧
     g.rekey = none) ∧
    (∀ n ∈ grp.chans, n < 512) ∧
    (let s : State := { keyed { grp with rekey := some ⟨20, 1⟩, oldSince := some 920 } with time := { pip := 1020, grain := 0 } }
     (group s 0).rekey = some ⟨20, 1⟩ ∧ 20 + 1000 ≤ pip s ∧ pip s < 21 + 1000 ∧ (group s 0).oldSince = some 920 ∧ 920 + 100 ≤ pip s ∧
     pip s < 921 + 100) ∧
    (let q : ResumeQ := { opKey := 0, queryId := 4, tags := [tag0], since := 30, incarnation := 1, sent := true }
     let s := keyed { grp with query := some q }
     acceptable s 0 0 8 (hdrOf 8#8 0#64) = true ∧ (hdr 0#64).seq.toNat = (chan s 0).rxSeq ∧ (group s 0).query = some q ∧ q.sent = true ∧
     (4#32 : W32).toNat = q.queryId) := by decide

def slotted (x : InvSlot) : State := { slice0 [] [] with invSlots := [(0, x)] }

/-- A bitmap or log write of IO0 that has no Cmp yet. -/
def wr0 : OutReq := { agent := 128, line := 0x200, r := .wrLine 0 [] 0#128 false }

theorem witness_Invalidation :
    inService (slotted {}) = true ∧ (invSlot (slotted { busy := true }) 0 0).busy = true ∧ (invSlot (slotted {}) 0 0).busy = false ∧
    ((1#64 : W64).getLsbD 0 = true ∧ (0xE#64 : W64).getLsbD 0 = false) ∧
    (sliceE (slotted { sliceNo := 1#64 }) ((invSlot (slotted { sliceNo := 1#64 }) 0 0).sliceNo.setWidth 12).toNat).state = .free ∧
    (sliceE (slotted {}) 0).state ≠ .free ∧ (sliceE (slotted {}) 0).part = 0 ∧ (sliceE (slotted {}) 0).part ≠ 1 ∧
    (2049#64 : W64).toNat % 4096 ≠ 0 ∧ 2 ^ 48 < (0x1000000001000#64 : W64).toNat ∧ (0x1000000000000#64 : W64).toNat ≤ 2 ^ 48 ∧
    leaf0 ∈ leavesOf (slotted {}) 0 ∧
    (∀ d, d < 4 → drained (slotted { busy := true }) d = true) ∧ drained { slotted { busy := true } with coh := { out := [wr0] } } 0 = false ∧
    drained { slotted {} with net := { lost := [(2, true)], lostPip := [(2, 39)] } } 0 = true ∧
    drained { slotted {} with net := { lost := [(2, true)], lostPip := [(2, 40)] } } 0 = false := by decide

/-! Engine jobs. -/

/-- A compressing inline job of the WRITE `ex 2`: 128 bytes in, room for 256 at 0x10200. -/
def compDesc : List Byte := [1#8, 0x10#8] ++ List.replicate 18 0#8 ++ [0#8, 1#8, 0#8, 0#8] ++ [0#8, 2#8, 1#8] ++ List.replicate 37 0#8
def compJob : Job := { id := .inl x0, part := 0, gen := 1, desc := compDesc, die := 0, engine := some 0, st := .running }
def compState : State := slice0 [ex 2 .accepted] [compJob]
def compIn : List Byte := List.replicate 128 0#8

theorem comp_lines : ∀ i < 4, isolatedFrom compState 2 (0x2204 + i) = false := by decide

theorem comp_reaches (n : Nat) (h : n ≤ 256) : ioIsolated compState 0 0x110200 n = false := by
  unfold ioIsolated
  rw [List.any_eq_false]
  intro i hi
  have := comp_lines i (by rw [List.mem_range] at hi; omega)
  have e : lineOf 0x110200 = 0x2204 := by decide
  simp [e, this]

theorem comp_page (n : Nat) (h : n ≤ 256) : ioTranslate compState 0 0 0x10200#64 n true = (compState, .ok 0x110200) := by
  have e : findLeaf compState 0 0 (0x10200#64).toNat = some leaf0 := by decide
  have f : field 0x10200#64 63 48 = 0 := by decide
  have r : inRanges compState 0 0x110200 n = true := by
    show List.any [(0, (0x100000, 0x100000))] _ = true
    simp; omega
  have d : devOf 0x110200 = none := by decide
  unfold ioTranslate
  simp only [f, ne_eq, not_true, if_false, e]
  show (compState, useLeaf compState 0 leaf0 0x10200 n true) = _
  unfold useLeaf
  have p : leaf0.pa + 0x10200 % 2 ^ leaf0.shift = 0x110200 := by decide
  have w : leaf0.w = true := rfl
  simp only [p, r, d, w]
  rfl

theorem comp_writes (bs : List Byte) (h : bs.length ≤ 256) : (ioWriteV compState 0 0 0x10200 bs).2 = .ok () := by
  unfold ioWriteV
  have k : bs.length / 4096 + 2 = 2 := by omega
  rw [k]
  cases bs with
  | nil => rfl
  | cons b t =>
    have m : min (b :: t).length (4096 - 0x10200 % 4096) = (b :: t).length := by omega
    simp only [ioWriteChunks, m, comp_page _ h, comp_reaches _ h, List.drop_length]
    rfl

theorem padTo_length (n : Nat) (l : List Byte) : (padTo n l).length = n := by
  simp [padTo]; omega

/-- A container is never longer than its header and its block. -/
theorem packBlock_length (lv c : Nat) (last : Bool) (blk : List Byte) (h : blk.length = 128) : (packBlock lv c last blk).length ≤ 152 := by
  have l4 : ∀ v, (leBytes 4 v).length = 4 := fun _ => rfl
  unfold packBlock
  generalize deflate lv blk = z
  have p : (if decide (blk.length < z.length) = true then blk else z).length ≤ 128 := by
    split <;> simp_all
  simp only [List.length_append, l4, padTo_length, cdiv, List.length_cons, List.length_nil]
  omega

set_option maxRecDepth 4000 in
theorem comp_chunks : chunks (blockSize 1) compIn = [compIn] := by decide

set_option maxRecDepth 4000 in
theorem packGo_one (lv c room : Nat) (blk : List Byte) (h : ¬ room < (packBlock lv c true blk).length) :
    packGo lv c room [blk] 0 [] =
      { out := packBlock lv c true blk, checked := (packBlock lv c true blk).length, consumed := blk.length, at_ := blk.length } := by
  simp [packGo, h]

set_option maxRecDepth 4000 in
theorem comp_output : ∃ o, inlineOutput compState (ex 2 .accepted) (parseDesc compDesc) compIn 256 = o ∧ o.state = 2 ∧ o.out.length ≤ 256 := by
  refine ⟨_, rfl, ?_⟩
  have hp := packBlock_length 1 1 true compIn (by decide)
  have hc : compress false 0 1 compIn 256 =
      { out := packBlock 1 1 true compIn, checked := (packBlock 1 1 true compIn).length, consumed := 128, at_ := 128 } := by
    have hl : compIn.length = 128 := by decide
    have h : ¬ 256 < (packBlock 1 1 true compIn).length := Nat.not_lt.mpr (Nat.le_trans hp (by decide))
    simp only [compress, comp_chunks, if_true, Bool.false_eq_true, if_false, packGo_one _ _ _ _ h, hl]
  generalize packBlock 1 1 true compIn = z at hp hc
  have hr : jobRun (parseDesc compDesc) [] (parseDesc compDesc).param compIn [] 256 =
      { state := 2, out := z, progress := z.length, consumed := 128, exact := 128 } := by
    have d1 : (parseDesc compDesc).decomp = false := by decide
    have d2 : (parseDesc compDesc).dec = false := by decide
    simp only [jobRun, d1, d2, Bool.or_self, Bool.false_eq_true, if_false]
    unfold outbound
    have c1 : (parseDesc compDesc).comp = true := by decide
    have c2 : (parseDesc compDesc).raw = false := by decide
    have c3 : (parseDesc compDesc).level = 0 := by decide
    have c4 : (parseDesc compDesc).block = 1 := by decide
    have c5 : (parseDesc compDesc).cipher = 0 := by decide
    have c6 : (parseDesc compDesc).dig = false := by decide
    have c7 : (parseDesc compDesc).enc = false := by decide
    simp [c1, c2, c3, c4, hc, cipherRun, c5, stageEnd, digestRun, c6, c7]
  have hj : inlineKey compState (ex 2 .accepted) (parseDesc compDesc) = some [] := by decide
  unfold inlineOutput
  simp only [hj, hr]
  simp; omega

set_option maxRecDepth 4000 in
theorem comp_read : sglRead 0 0 compState (ex 2 .accepted).bufs [] = (compState, .ok compIn) := by rfl

def qjob (st : JobSt) (e : Option Nat) : Job :=
  { id := .queued 0 0 0#32, part := 0, gen := 1, desc := List.replicate 32 0#8 ++ [0#8, 3#8, 1#8] ++ List.replicate 29 0#8, die := 0, engine := e, st := st }

theorem witness_EngineJobs :
    (let s := slice0 [] []
     inService s = true ∧ queueLive s 0 0 = true ∧ queue0.pairLost = false ∧ queue0.fetchStopped = false ∧ queue0.tearing = false ∧
     sliceServed s 0 = true ∧ ioLost s (serveDie 0 queue0.serve) = false ∧ 0 < (queue0.eqTail - queue0.eqHead).toNat ∧
     activeJobs s 0 0 = 0 ∧ queueJobs s 0 0 = [] ∧ (readSlot s 0 0 0x10000 4 0).2.isSome = true ∧ isOk (ioTranslate s 0 0 0x10300#64 128 true).2 = true ∧
     isOk (ioTranslate s 0 0 0#64 128 true).2 = false ∧ (readSlot noLeaf 0 0 0x10000 4 0).2 = none) ∧
    (let s := slice0 [] [qjob .fetched none]; job s (.queued 0 0 queue0.eqHead) = some (qjob .fetched none) ∧ mirrors s 0 = true) ∧
    mirrors (noMirror []) 0 = false ∧
    (let s := slice0 [] [qjob .accepted (some 1)]
     job s (.queued 0 0 0#32) = some (qjob .accepted (some 1)) ∧ jobStopped s (qjob .accepted (some 1)) = false ∧ jobFenceOk s (qjob .accepted (some 1)) = true ∧
     engineFree s (qjob .accepted (some 1)) 1 = true) ∧
    (let s : State := { slice0 [] [qjob .accepted (some 1)] with slices := [(0, { state := .resetting, part := 0, gen := 1 })] }
     job s (.queued 0 0 0#32) = some (qjob .accepted (some 1)) ∧ jobStopped s (qjob .accepted (some 1)) = true) ∧
    (let s := slice0 [] [qjob .running (some 1)]
     job s (.queued 0 0 0#32) = some (qjob .running (some 1)) ∧ queue0.donePip ≠ some 40 ∧
     ioQuiet (runStandalone s 0 (qjob .running (some 1))).1 0 = true) ∧
    (let s : State := { slice0 [] [qjob .running (some 1)] with coh := { out := [wr0] } }
     job s (.queued 0 0 0#32) = some (qjob .running (some 1)) ∧ ioQuiet (runStandalone s 0 (qjob .running (some 1))).1 0 = false) ∧
    (let s : State := { slice0 [] [qjob .ended none] with coh := { out := [wr0] } }
     job s (.queued 0 0 0#32) = some (qjob .ended none) ∧ ioQuiet s 0 = false ∧ ioQuiet (slice0 [] [qjob .ended none]) 0 = true) ∧
    (exch compState x0 = some (ex 2 .accepted) ∧ job compState (.inl x0) = some compJob ∧ (ex 2 .accepted).opcode = 2 ∧
      (ex 2 .accepted).res = none ∧ (ex 2 .accepted).staged = none ∧ (parseDesc compJob.desc).comp = true ∧ compJob.st = .running ∧
      (parseDesc compDesc).out = 0x10200 ∧ (parseDesc compDesc).outLen = 256) := by decide

/-- The clause of EngineJobs about staging, met by `compState` whatever the DEFLATE stream is. -/
theorem witness_EngineJobs_staging :
    (sglRead 0 0 compState (ex 2 .accepted).bufs []).2 = .ok compIn ∧
    (inlineOutput compState (ex 2 .accepted) (parseDesc compDesc) compIn 256).state = 2 ∧
    (ioWriteV compState 0 0 0x10200 ((inlineOutput compState (ex 2 .accepted) (parseDesc compDesc) compIn 256).out.take 256)).2 = .ok () := by
  obtain ⟨o, rfl, h2, h3⟩ := comp_output
  exact ⟨congrArg Prod.snd comp_read, h2, comp_writes _ (by simp only [List.length_take]; omega)⟩

/-- RFC 1951, fixed codes: the final block of "a", and of ten of them as a literal and a match of 9 at distance 1. -/
theorem test_deflate_fixed :
    packBits ([true, true, false] ++ fixedBody [.lit 0x61#8]) = [0x4B#8, 0x04#8, 0x00#8] ∧
    packBits ([true, true, false] ++ fixedBody [.lit 0x61#8, .ref 9 1]) = [0x4B#8, 0x84#8, 0x03#8, 0x00#8] := by decide

/-! Command packets. -/

/-- A request from bus 1, address `a`, with the flags and parameters given. -/
def rqOf (a fl : Byte) (ps : List Byte) : Request :=
  { source := 1#8, addr := a, seq := 3#16, nonce := 1#8, flags := fl, paramLength := BitVec.ofNat 16 ps.length, params := ps, arrival := 0#64 }
/-- One from the privileged address, at expert level. -/
def rq (ps : List Byte) : Request := rqOf 8#8 1#8 ps
def basic (ps : List Byte) : Request := rqOf 8#8 0#8 ps
def withOps (l : List LongOp) : State := { serving with husks := { serving.husks with longOps := l } }
def op0 (b : Bool) : LongOp := { key := 0, opcode := 0x0405, source := 1, addr := 8, seq := 3, nonce := 1, kind := .park, done := b }
def keptOne : State :=
  { serving with husks := { serving.husks with kept := [(0x108, { opcode := 0x0101, seq := 3, nonce := 1, flags := 0, status := 0, readyAt := 30 })] } }
def noHolder (l : List QReq) : State := { serving with husks := { mbA := { queue := l } } }

theorem witness_PacketRow : PacketRow (rq []) 0x0101 (.identity (rq [])) (rq []) ∧
    PacketRow (rq []) 0x0807 (.imageStatus (rq [])) (rq []) := by unfold PacketRow; decide

theorem witness_RequestChecks :
    ((actingHusk serving).isSome = true ∧ timeRuns serving = true ∧ fresh serving (rq []) = true ∧ privileged serving 0x0101 (rq []) = true) ∧
    (malformed { rq [] with paramLength := 49#16 } = true ∧ malformed { rq [] with paramLength := 48#16 } = false) ∧
    (malformed (rq []) = false ∧ isPoll (rq []) = false ∧ infoOf 0x0405 (params48 (rq [])) = some { expert := false, modes := .s, long := true } ∧
      inModes 4 .s = false ∧ inModes serving.mode.mode .s = true ∧ isExpert (basic []) = false ∧
      infoOf 0x0404 (params48 (rq [])) = some { expert := true, modes := .s, long := false } ∧ 16 ≤ openOps (withOps (List.replicate 16 (op0 false)))) ∧
    (isPoll (rqOf 8#8 2#8 []) = true ∧ opOf serving 0x0405 (rqOf 8#8 2#8 []) = none) ∧
    (privileged serving 0x0405 (rqOf 9#8 0#8 []) = false) ∧
    (tfind keptOne.husks.kept (senderKey (rq [])) = some { opcode := 0x0101, seq := 3, nonce := 1, flags := 0, status := 0, readyAt := 30 } ∧
      (rq []).nonce.toNat = 1 ∧ (rq []).seq.toNat = 3) ∧
    (timeRuns (noHolder []) = true ∧ taking (noHolder []) (rq []) = false ∧ taking { serving with time := { pip := 40, grain := 16 } } (rq []) = false ∧
      taking serving { rq [] with arrival := 0xA010#64 } = false ∧ taking serving { rq [] with arrival := 0xA00F#64 } = true ∧ busOf (rq []) = some .mbA ∧ (mbus (noHolder []) .mbA).queue.length < 8 ∧
      8 ≤ (mbus (noHolder (List.replicate 8 { opcode := 0x0101, q := rq [] })) .mbA).queue.length ∧
      (mbus (noHolder []) .mbA).failed = false ∧
      (let s : State := { serving with husks := { serving.husks with mbA := { failed := true } } }
       (mbus s .mbA).failed = true ∧ taking s (rq []) = false ∧ timeRuns s = true)) ∧
    (let q : Request := { rq [] with source := 16#8, addr := 0#8 }
     busOf q = none ∧ senderPart q = some 0 ∧ (cmdMbx (noHolder []) 0).queued = none ∧ taking (noHolder []) q = false) ∧
    timeRuns State.reset = false ∧
    ((handlerOf 0x0999).isNone = true ∧ privileged serving 0x0999 (rq []) = true) ∧
    (opOf (withOps [op0 false]) 0x0405 { rq [] with flags := (rq []).flags ||| 2#8 } = some (op0 false) ∧
      opOf (withOps [op0 true]) 0x0405 { rq [] with flags := (rq []).flags ||| 2#8 } = some (op0 true)) := by decide

def reading : State :=
  { slice0 [] [] with faults := { head := 2#32, kept := 2, log := [(0, List.replicate 48 1#8)] }
                      husks := { serving.husks with privLog := [{ stamp := 5#64, sender := List.replicate 8 0#8, opcode := 0x0405, reason := 0x11 }] }
                      boot := { keys := [(0x100, { kind := 3, dirs := 1, mask := 1#16, value := 5#512, inst := 0#32, stored := true })] } }

/-- Zero parameters read place 0 of everything; the other bounds are met beside. -/
theorem witness_ReadCommands :
    (∀ op ∈ [0x0101, 0x0102, 0x0301, 0x0302, 0x0303, 0x0305, 0x0306, 0x0402, 0x0403, 0x0701, 0x0703, 0x0707, 0x0708, 0x020C, 0x020B, 0x0507,
        0x0604, 0x0804, 0x0806, 0x0807], granted reading op (rq []) = true) ∧ par (rq []) 0 1 = 0 ∧
    (par (rq [0x02#8, 0x02#8]) 0 2 = 0x202 ∧ entryValue reading 0x202 = some [24#8]) ∧
    par (rq (List.replicate 4 0xFF#8)) 0 4 % 2 ^ 32 = 0xFFFFFFFF ∧
    ((1#32 : W32).toNat = par (rq [1#8]) 0 4 ∧ (reading.faults.head - 1#32 - 1#32).toNat < reading.faults.kept ∧
      (reading.faults.head - 1#32 - 0#32).toNat < reading.faults.kept) ∧
    par (rq [31#8]) 0 1 ≤ 31 ∧ par (rq [63#8, 31#8]) 0 1 < 64 ∧ par (rq [63#8, 31#8]) 1 1 < 32 ∧ par (rq [0xFF#8]) 0 2 < 256 ∧
    par (rq [0x3F#8, 1#8]) 0 2 < 320 ∧ (classRow 4).isSome = true ∧ reading.husks.privLog[par (rq []) 0 1]?.isSome = true ∧
    par (rq [15#8]) 0 1 < 16 ∧ par (rq [0xFF#8, 0xF#8]) 0 2 < 4096 ∧ (group reading (par (rq []) 0 2)).opened = true ∧
    (0 < par (rq [0#8, 0#8, 2#8]) 2 1 ∧ par (rq [0#8, 0#8, 2#8]) 2 1 ≤ (group reading 0).chans.length) ∧
    (taking serving (rqOf 9#8 0#8 []) = true ∧ fresh serving (rqOf 9#8 0#8 []) = true ∧ privileged serving 0x0402 (rqOf 9#8 0#8 []) = false) ∧
    (par (rq [5#8, 63#8]) 1 1 < (if (trio (splitAt (core0 set0)) 0).state = .split then 64 else 32)) ∧
    (par (rq [3#8, 1#8]) 0 1 < 4 ∧ par (rq [3#8, 1#8]) 1 1 < 2) ∧ (keyE reading (par (rq [0#8, 1#8]) 0 2)).isSome = true ∧
    par (rq [7#8]) 0 1 < 8 := by decide

def le (n v : Nat) : List Byte := leBytes n v
/-- P[0] stopped, with START in its range. -/
def stopped : State :=
  { slice0 [] [] with parts := [(0, { defined := true, ranges := [(0, (0x100000, 0x100000))], lcores := 1#128, start := 0x100000#64 })]
                      rings := [], eqs := [], groups := [], chans := [] }

set_option maxRecDepth 4000 in
theorem witness_SettingCommands :
    (∀ op ∈ [0x0103, 0x0104, 0x0304, 0x0307, 0x0401, 0x0404, 0x0201, 0x0202, 0x0205, 0x0207, 0x0208, 0x020A, 0x0501, 0x0503, 0x0504, 0x0505,
        0x0601, 0x0605, 0x0704, 0x0801, 0x0802, 0x0803], granted stopped op (rq []) = true) ∧
    (∀ op ∈ [0x0501, 0x0505, 0x0601], granted stopped op (basic []) = true) ∧
    (let q := rq ([0x02#8, 0x02#8] ++ List.replicate 6 0#8 ++ [1#8])
     granted stopped 0x0103 q = true ∧ entryLen (par q 0 2) = some 1 ∧ runTimeEntry (par q 0 2) = true ∧
     entryInRange (par q 0 2) (slice (params48 q) 8 1) = true) ∧
    (par (rq [7#8, 8#8]) 0 1 < 8 ∧ par (rq [7#8, 8#8]) 1 1 ≤ 8 ∧
      (∃ i ∈ (rangeStacks (memAll8 stopped) 0).1, i ≠ 1 ∧ nextWeight stopped i ≠ 0)) ∧
    (par (rq [63#8]) 0 1 < 64 ∧ par (rq [255#8]) 0 1 = 255) ∧
    (let q := rq ([4#8, 1#8, 0#8, 0#8] ++ le 4 1048576); classSettable (par q 0 1) = true ∧ classValueOk (par q 1 1) (par q 4 4) = true) ∧
    (1000 ≤ par (rq (le 2 1000)) 0 2 ∧ par (rq (le 2 2500)) 0 2 ≤ 2500) ∧
    (let q := rq ([63#8, 0#8] ++ le 2 4800); par q 0 1 < 64 ∧ 1200 ≤ par q 2 2 ∧ par q 2 2 ≤ 4800 ∧ par q 2 2 % 25 = 0) ∧
    (let q := rq ([0#8, 1#8] ++ List.replicate 6 0#8 ++ le 8 0x100000 ++ le 16 1)
     par q 0 1 < 16 ∧ par q 1 1 ≤ 1 ∧ par q 8 8 % 2 = 0 ∧ (part stopped 0).state = .stopped ∧ BitVec.ofNat 128 (par q 16 16) = 1#128 ∧
     lcoreExists stopped 0 = true ∧ (∀ o, o < 16 → o ≠ 0 → (part stopped o).lcores &&& BitVec.ofNat 128 (par q 16 16) = 0#128)) ∧
    (startable stopped 0 = true ∧ startingCores stopped 0 ≠ []) ∧ (tget (0, 0) (part stopped 0).ranges (par (rq []) 1 1)).2 ≠ 0 ∧
    (let q := rq ([0#8, 1#8, 0#8, 0#8] ++ le 4 7)
     par q 1 1 ≤ 1 ∧ par q 4 4 < 2 ^ 20 ∧ (∀ m ∈ slicesOf stopped 0, (sliceE stopped m).pid ≠ par q 4 4) ∧ freeSlice stopped = some 1) ∧
    ((sliceE stopped 0).state ≠ .free ∧ (sliceE stopped 0).state ≠ .resetting ∧ hasRings stopped 0 = false) ∧
    (let qa := withAction (rq (List.replicate 16 0#8 ++ le 8 1024 ++ le 8 0x100000 ++ le 8 0x100200)) 0
     par qa 0 2 = 0 ∧ par qa 8 8 % 4096 = 0 ∧ 0 < par qa 16 8 ∧ par qa 16 8 ≤ 2 ^ 28 ∧ par qa 24 8 % 128 = 0 ∧ par qa 32 8 % 128 = 0 ∧
     inRanges stopped 0 (par qa 24 8) (4 * logAreaBytes (par qa 16 8)) = true ∧ inRanges stopped 0 (par qa 32 8) (4 * logAreaBytes (par qa 16 8)) = true ∧
     (sliceE stopped 0).logOn = false ∧ granted stopped 0x020A qa = true) := by decide +kernel

/-- Channel lists, rings, clocks and keys. -/
def rfcKey : KeyE :=
  { kind := 4, dirs := 2, mask := 1#16, value := BitVec.ofNat 512 (ofBE ((List.range 32).map (BitVec.ofNat 8) ++ List.replicate 32 0#8)), inst := 0#32
    stored := true }
def keyStore : State := { stopped with boot := { keys := [(0x100, rfcKey)] } }
/-- The wrapped key data of RFC 3394, 4.6. -/
def rfcWrapped : List Byte := beBytes 40 0x28C9F404C4B810F4CBCCB35CFB87F8263F5786E2D80ED326CBC7F0E71A99F43BFB988B9B7A02DD21

set_option maxRecDepth 8000 in
set_option exponentiation.threshold 600 in
theorem witness_SettingCommands_groups :
    (let q := basic ([2#8, 0#8, 0#8, 0#8] ++ le 2 4 ++ le 2 132 ++ List.replicate 20 0#8 ++ le 2 1)
     par q 0 1 = 2 ∧ isExpert q = false ∧ BitVec.ofNat 16 (par q 28 2) ≠ 0#16 ∧ listOk stopped (channelList q) = true ∧ par q 30 2 = 0 ∧
     bothDies ({ chans := channelList q : Group }) = true ∧ freeGroup stopped = some 0) ∧
    linkKeyOk reading 0x100 1#16 = true ∧
    (let q := rq ([1#8, 1#8] ++ le 2 1000 ++ le 2 4 ++ List.replicate 22 0#8 ++ le 2 1)
     par q 1 1 = 1 ∧ 5 ≤ par q 2 2 ∧ par q 2 2 ≤ 1000 ∧ listOk stopped (channelList q) = true ∧ par q 30 2 = 0 ∧
     bothDies ({ chans := channelList q : Group }) = false) ∧
    (par (rq []) 0 1 = 0 ∧ bothDies ({ chans := channelList (basic [1#8]) : Group }) = false) ∧
    ((group reading 0).opened = true ∧ (setGroupParam (group reading 0) 1 5).isSome = true ∧ (setChanParam (chan reading 0) 1 16).isSome = true ∧
      (chan reading 0).group.isSome = true) ∧
    (let q := basic ([0#8, 0#8, 1#8, 6#8, 16#8] ++ List.replicate 19 0#8 ++ le 2 1)
     par q 2 1 < 2 ∧ 6 ≤ par q 3 1 ∧ par q 4 1 ≤ 16 ∧ par q 8 8 % 4096 = 0 ∧ (ring stopped (pairKey 0 1)).active = false ∧
     sourceOk stopped 0 (par q 24 2) = true ∧ ioLost stopped (2 * 1 + 0 % 2) = false) ∧
    (let q := basic ([0#8, 0#8, 1#8, 12#8] ++ List.replicate 12 0#8 ++ le 2 1)
     4 ≤ par q 3 1 ∧ par q 3 1 ≤ 12 ∧ (eqq stopped (pairKey 0 1)).active = false ∧ sourceOk stopped 0 (par q 16 2) = true) ∧
    (par (rq [31#8, 1#8, 1#8]) 0 1 < 32) ∧
    (let s : State := { serving with husks := { serving.husks with b := { stat := .ready, matchPips := 100 } } }
     holderId s = some .a ∧ (huskOf s (otherHusk .a)).stat = .ready ∧ 100 ≤ (huskOf s (otherHusk .a)).matchPips ∧ rebuilding s = false ∧
     s.husks.swapReq = none ∧ (huskOf serving (otherHusk .a)).matchPips < 100 ∧ (s.mode.mode = 5 ∨ s.mode.mode = 6)) ∧
    (let q := rq [4#8, 3#8, 1#8, 0#8]; 1 ≤ par q 0 1 ∧ par q 0 1 ≤ 4 ∧ par q 1 1 ≤ 3 ∧ freeHandle stopped = some 0x100) ∧
    (keyE keyStore 0x100 = some rfcKey ∧ rfcKey.kind = 4 ∧ rfcKey.dirs.testBit 1 = true ∧ freeHandle keyStore = some 0x101) := by decide

theorem witness_SettingCommands_unwrap : unwrapKey ((keyBytes rfcKey).take 32) rfcWrapped =
    some (beBytes 32 0x00112233445566778899AABBCCDDEEFF000102030405060708090A0B0C0D0E0F) := by decide +kernel

def mode9 : State := { serving with mode := { mode := 9, base := 5, parkCond := true } }
def quiesced : State := { serving with parts := [(0, { defined := true, state := .quiesced, lcores := 1#128 })] }
def heldSpan : State := { inM7 0 with mode := serving.mode }
def logging : State := { slice0 [] [] with slices := [(0, { state := .active, part := 0, gen := 1, logOn := true })] }

set_option maxRecDepth 4000 in
theorem witness_LongCommands :
    (∀ op ∈ [0x0203, 0x0204, 0x0206, 0x0209, 0x020A, 0x0405, 0x0502, 0x0506, 0x0508, 0x0602, 0x0603, 0x0702, 0x0705, 0x0709, 0x0805],
      granted (slice0 [] []) op (rq []) = true) ∧ granted mode9 0x0406 (rq []) = true ∧ granted quiesced 0x0706 (rq [1#8]) = true ∧
    granted logging 0x020A (withAction (rq []) 1) = true ∧ granted logging 0x020A (withAction (rq []) 2) = true ∧
    ((part serving 0).state ≠ .stopped ∧ (part serving 0).state ≠ .resetting ∧ (part serving 0).state = .running) ∧
    (let q := rq (List.replicate 8 0#8 ++ le 8 0x400000 ++ le 8 0x200000)
     rangeOk (par q 8 8) (par q 16 8) = true ∧ rangeTaken serving (par q 8 8) (par q 16 8) = false ∧ (freeRange serving 0).isSome = true) ∧
    (let s : State := { serving with parts := [(0, { defined := true, state := .held, ranges := [(0, (0, 0x1F80000000)), (1, (0x1F80000000, 0x1F80000000))]
                                                     lcores := 1#128 })] }
     (part s 0).state = .held ∧ partBytesIn s 0 (part s 0).homeHalf + freeHbm s (part s 0).homeHalf < partBytes s 0) ∧
    ((sliceE (slice0 [] []) 0).state ≠ .free ∧ (sliceE (slice0 [] []) 0).state ≠ .resetting ∧ (ring (slice0 [] []) (pairKey 0 0)).active = true ∧
      (ring (slice0 [] []) (pairKey 0 0)).tearing = false ∧ (eqq (slice0 [] []) (pairKey 0 0)).active = true ∧
      (eqq (slice0 [] []) (pairKey 0 0)).tearing = false ∧ (sliceE logging 0).logOn = true) ∧
    (serving.mode.parkReq = false ∧ serving.mode.parkCond = false ∧ serving.mode.quiesceReq = 0#16 ∧ serving.mode.mode = 5 ∧
      mode9.mode.parkCond = true ∧ mode9.mode.unparkReq = false) ∧
    ((group (slice0 [] []) 0).opened = true ∧ (group (slice0 [] []) 0).closing = false ∧ (group (slice0 [] []) 0).query = none ∧
      (livePaths (slice0 [] []) 0).any (fun n => windowRoom (chan (slice0 [] []) n)) = true ∧
      par (rq (List.replicate 8 0#8 ++ [4#8])) 8 1 = 4) ∧
    (let q := rq (le 8 0x100000 ++ le 8 1024)
     par q 0 8 % 1024 = 0 ∧ par q 8 8 % 1024 = 0 ∧ 0 < par q 8 8 ∧ par q 0 8 + par q 8 8 ≤ hbmTop ∧
     rangeOnStack serving (par q 0 8, par q 8 8) 0 = true) ∧
    ((BitVec.ofNat 16 (par (rq [1#8]) 0 2)).getLsbD 0 = true ∧ (part quiesced 0).state = .quiesced) ∧
    (let s : State := { serving with net := { lost := [(2, true)] } }; dieLost s 2 = true ∧ 2 ∉ s.mode.rejoining ∧ granted s 0x0709 (rq [2#8]) = true) ∧
    ((huskOf serving (huskOfUnit 7)).stat = .ready) ∧
    (let s := keyed { grp with keyValue := some 1#512 }; (group s 0).opened = true ∧ (group s 0).keyValue.isSome = true ∧ (group s 0).rekey = none) := by
  decide

/-! Husks, events, faults, time, power and the boot. -/

def standby : State := { State.reset with pins := { resetN := true } }
def husked (a b : Husk) (k due : Nat) : State :=
  { serving with husks := { seed := { holder := 1, epoch := 1, lastRenew := 0, due := due }, a := a, b := b }, time := { pip := k, grain := 767 } }

theorem witness_SeedAndHusks :
    (timeRuns standby = true ∧ standby.mode.base = 1 ∧ standby.husks.seed.epoch = 0 ∧ standby.husks.a.stat = .idle ∧ standby.husks.b.stat = .idle) ∧
    (let s := husked { stat := .holder } { stat := .ready } 40 40
     (actingHusk s).isSome = true ∧ s.husks.seed.due ≤ pip s ∧ overran s 4 = false ∧ s.time.grain ≤ 767) ∧
    (let s := husked { stat := .holder } { stat := .ready } 2100 0
     holderId s = some .a ∧ (huskOf s (otherHusk .a)).stat = .ready ∧ s.husks.seed.lastRenew + 2100 ≤ pip s ∧ (huskOf s .a).stat = .holder ∧
     pip (husked { stat := .holder } { stat := .ready } 2099 0) < 0 + 2100 ∧
     checkRuns s .a 0 = true ∧ checkRuns s .b 5 = true ∧ (huskOf s .a).failures < 2 ∧ holdsSeed s .a = true) ∧
    2 ≤ (huskOf (husked { stat := .holder, failures := 2 } {} 40 40) .a).failures ∧
    (let s := husked { stat := .holder } { stat := .selfTest } 40 40
     (huskOf s .b).stat = .selfTest ∧ s.mode.base = 5 ∧ s.mode.split = false ∧ s.mode.mode ≠ 11) ∧
    (let s := husked { stat := .holder } { stat := .rejoin } 40 40; (huskOf s .b).stat = .rejoin ∧ actingHusk s = some (otherHusk .b)) := by decide

def bused (b : MBus) : State := { serving with husks := { serving.husks with mbA := b } }
def boxed (m : CmdMbx) : State := { serving with husks := { serving.husks with mailboxes := [(0, m)] } }

theorem witness_RequestArrival :
    (timeRuns serving = true ∧ (mbus serving .mbA).failed = false ∧ (List.replicate 64 (0#8 : Byte)).length = 64 ∧
      (mbus (bused { i3c := some 9 }) .mbA).i3c.isSome = true ∧ (mbus serving .mbA).queue.length < 8 ∧ (mbus serving .mbA).i3c = none ∧
      (List.replicate 63 (0#8 : Byte)).length ≠ 64) ∧
    (inService serving = true ∧ (1#64 : W64).getLsbD 0 = true ∧ (cmdMbx serving 0).queued = none ∧ (cmdMbx serving 0).area.length = 64 ∧
      (cmdMbx (boxed { queued := some { opcode := 0x0101, q := rq [] } }) 0).queued.isSome = true) ∧
    ((mbus (bused { recovering := true }) .mbA).recovering = true ∧ (mbus (bused { failed := true }) .mbA).failed = true) := by decide

def parking : State := { serving with mode := { mode := 5, base := 5, parkReq := true } }
def rejoin (l : List Nat) : State := { serving with mode := { mode := 10, base := 5, rejoining := l }, net := { lost := [(0, true), (2, true)] } }

theorem witness_ParkingAndRejoin :
    (inService parking = true ∧ parking.mode.parkReq = true ∧ Machine.rebuilding parking = false ∧ (∀ e ∈ parking.trios, e.2.state ≠ .checkstop) ∧
      parking.mode.split = false ∧ parking.mode.rejoining = []) ∧ serving.mode.parkReq = false ∧ Machine.rebuilding (inRebuild 40) = true ∧
    (let s : State := { serving with trios := [(0, { state := .voted, idlePips := 1000 })] }
     s.mode.mode = 5 ∧ coldDie s (0 / 32) = false ∧ (trio s 0).parked = false ∧ votes (trio s 0) = true ∧ 1000 ≤ (trio s 0).idlePips) ∧
    trioUnowned { serving with parts := [] } 0 = true ∧
    (2 ∈ (rejoin [2]).mode.rejoining ∧ timeRuns (rejoin [2]) = true ∧ 0 ∈ (rejoin [0]).mode.rejoining) ∧
    (let s := husked { stat := .holder } { stat := .rejoin } 40 40; (huskOf s .b).stat = .rejoin ∧ actingHusk s = some (otherHusk .b)) ∧
    (huskOf (husked { stat := .holder } { stat := .selfTest } 40 40) .b).stat = .selfTest := by decide

theorem witness_EventsAndMailboxes :
    (inService serving = true ∧ srcOwner serving 1296 = some 0 ∧ srcOwner serving 0 = some 0 ∧ srcOwner serving 1535 = some 15 ∧ srcOwner serving 1296 ≠ some 1 ∧
      1296 ≤ (1296 : Nat) ∧ (0 : Nat) < 1296) ∧
    (let v : W64 := 0x4001000000000001#64
     partOf serving (v.extractLsb' 32 7).toNat = some 0 ∧ v.getLsbD 62 = true ∧ v.extractLsb' 48 8 ≠ 0#8 ∧
     partOf serving ((0x100000000#64 : W64).extractLsb' 32 7).toNat ≠ some 0 ∧ (0x4000000000000000#64 : W64).extractLsb' 48 8 = 0#8) ∧
    (let s : State := { serving with events := { sources := [(1296, { pending := 1#32, enable := 0#32 })] } }
     (0x4001000000000001#64 : W64).setWidth 32 &&& ~~~(evSource s 1296).enable &&& (evSource s 1296).pending ≠ 0#32 ∧ (evSource s 1296).due = none) ∧
    (partOf serving 0 = some 0 ∧ mbxOpenTo serving ((0#64 : W64).extractLsb' 0 7).toNat 0 = true ∧ serving.events.sendQ.length < 512 ∧
      mbxOpenTo serving ((8#64 : W64).extractLsb' 0 7).toNat 0 = false ∧ mbxOwner serving 0 = 0 ∧ mbxOwner serving 8 ≠ 0) := by decide

/-- One event in the pip, of the point given, waits for the close. -/
def reported1 (pt : Nat) : State := { serving with faults := { inbox := [{ stamp := 0xA009#64, point := pt, detail := 0#16 }] } }
def rec0 : FRecord :=
  { sealStamp := 5#64, cls := 1, action := 0, point := 208, detail := 0#16, count := 1, mode := 5, w := 1, last := 5#64, close := 6#64 }

theorem witness_FaultCollection :
    (timeRuns serving = true ∧ serving.faults.inbox = [] ∧ (1838 : Nat) < 1839 ∧ pipOf (0xA009#64) = pipOf (stampAt (reported1 5) (ptDie 5)) ∧
      serving.faults.selfOk = true ∧ serving.mode.mode ≠ 11 ∧ field serving.faults.safeCause 23 16 = 0 ∧ pip serving < 2 ^ 32) ∧
    (let s : State := { serving with faults := { waiting := [rec0] } }; s.faults.wrotePip ≠ pip s ∧ s.faults.waiting = [rec0]) ∧
    (let s : State := { serving with faults := { wrotePip := 40, wrote := 16 } }; s.faults.wrotePip = pip s ∧ s.faults.wrote = 16) ∧
    ({ serving with faults := { selfOk := false } } : State).faults.selfOk = false ∧
    (∀ e ∈ (reported1 0).faults.inbox, isTaken { (reported1 0).faults with taken := [(0, 40)] } e = true ∧
      isTaken { (reported1 0).faults with taken := [(0, 39), (1, 40)] } e = false) ∧
    ((reported1 0).faults.counts = [] ∧ pipOf (0xA009#64) = pip (reported1 0) ∧
      1 < (classCfg (reported1 0) (classOf 0)).n ∧ (classCfg (reported1 208) (classOf 208)).n ≤ 1 ∧ 0 < (classCfg (reported1 208) (classOf 208)).w ∧
      (classCfg (reported1 1830) (classOf 1830)).n ≤ 1 ∧ 0 < (classCfg (reported1 1830) (classOf 1830)).w ∧
      (classRow (classOf 1830)).map (·.action) = some 6) := by decide

theorem witness_RegisterWrites : timeRuns serving = true ∧ inService serving = true := by decide

theorem witness_PipAndWindows :
    timeRuns serving = true ∧ timeRuns State.reset = false ∧ (actingHusk serving).isSome = true ∧
    (let s : State := { serving with time := { pip := 40, grain := 895 } }; s.time.eventPip ≠ some (pip s) ∧ s.time.grain ≤ 895) ∧
    (let s : State := { serving with time := { pip := 40, grain := 15 } }; s.time.loopPip ≠ some (pip s) ∧ s.time.grain ≤ 15) ∧
    (let s : State := { serving with time := { pip := 40, grain := 1007 } }; s.time.commitPip ≠ some (pip s) ∧ s.time.grain ≤ 1007 ∧
      s.time.overruns.contains 8 = false) ∧
    (let s : State := { serving with power := { armed := some { clocks := [(0, 4800)], cap := 2000, pump := 100, fan := 50 } } }
     timeRuns s = true ∧ (s.power.armed.map (·.clocks)) = some [(0, 4800)]) ∧
    (let s : State := { serving with time := { pip := 40, grain := 1007, overruns := [2] } }; s.time.overruns.contains 2 = true ∧ s.time.grain ≤ 1007) ∧
    (let s := husked { stat := .holder, refused := true } { stat := .ready } 40 40
     timeRuns s = true ∧ (holderId s).isSome = true ∧ actingHusk s = none) ∧
    (let s : State := { serving with time := { pip := 40, grain := 1007, overruns := [8], loopPip := some 40 } }
     s.time.overruns.contains 8 = true ∧ s.time.loopPip = some (pip s)) ∧
    (let s : State := { serving with time := { pip := 40, grain := 1007, commitPip := some 40 } }; s.time.commitPip = some (pip s)) := by decide

def edge500 : State := { serving with time := { pip := 500, grain := 0 } }

theorem witness_ClockAndPowerPins :
    (timeRuns serving = true ∧ (2 : Fin 10) ≠ 0 ∧ (2 : Fin 10) ≠ 1 ∧ (2 : Fin 10) ≠ 8 ∧ serving.time.overruns.contains 2 = false ∧
      actingHusk serving = some .a ∧ serving.time.overruns.contains 8 = false ∧ serving.time.holdover = false) ∧
    ({ serving with time := { holdover := true } } : State).time.holdover = true ∧
    ({ serving with time := { overruns := [2] } } : State).time.overruns.contains (2 : Fin 10).val = true ∧ (2 : Fin 10) ≠ 9 ∧
    (edge500.time.grain = 0 ∧ pip edge500 ≠ 0 ∧ edge500.pins.aliveAt ≠ pip edge500 ∧ 1 ≤ edge500.mode.mode ∧ edge500.mode.mode ≤ 10 ∧
      edge500.faults.selfOk = true ∧ edge500.faults.huskNone = false ∧ edge500.pins.aliveStopped = false ∧ pip edge500 % 500 = 0 ∧
      pip serving % 500 ≠ 0) ∧
    (serving.pins.pwrOk = true ∧ 2 ≤ serving.mode.mode ∧ serving.mode.mode ≤ 10 ∧ standby.mode.mode ≤ 1 ∧ timeRuns standby = true) ∧
    (let s : State := { standby with husks := { seed := { holder := 1 } } }; s.mode.mode = 1 ∧ s.mode.base = 1 ∧ (holderId s).isSome = true) ∧
    (standby.mode.mode = 1 ∧ holderId standby = none ∧ 2 ≤ serving.mode.base) ∧
    (State.reset.pins.standbyGood = true ∧ State.reset.pins.resetN = false) := by decide

set_option maxRecDepth 4000 in
set_option exponentiation.threshold 600 in
theorem witness_ResetAndPower :
    (serving.pins.resetN = true ∧ serving.pins.standbyGood = true ∧ serving.faults.waiting = [] ∧ serving.faults.selfOk = true) ∧
    (let s : State := { serving with faults := { waiting := [rec0] }, boot := { keys := [(0x100, rfcKey)] } }
     s.faults.waiting = [rec0] ∧ s.faults.selfOk = true ∧ keyE s 0x100 = some rfcKey ∧ rfcKey.stored = true) ∧
    (let s : State := { serving with pins := { resetN := true, standbyGood := false } }; s.pins.resetN = true ∧ s.pins.standbyGood = false) ∧
    (State.reset.pins.resetN = false ∧ State.reset.pins.standbyGood = true) ∧
    (let s : State := { State.reset with pins := { standbyGood := false } }; s.pins.standbyGood = false ∧ s.pins.resetN = false) := by decide

def cold (k : Nat) : State := { serving with mode := { mode := 4, base := 4 }, power := { warmPips := k } }

theorem witness_FusesAtLockPoint :
    (State.reset.boot.defaulted = false ∧ ({ defaulted := true } : Boot).defaulted = true ∧
      (let b : Boot := { advance := true, svn := 2, svnFused := 1 }; b.advance = true ∧ b.svnFused < b.svn) ∧ State.reset.boot.advance = false) ∧
    (timeRuns (cold 100) = true ∧ (cold 100).mode.base = 4 ∧ (cold 100).mode.mode ≠ 11 ∧ 100 ≤ (cold 100).power.warmPips ∧
      (cold 99).power.warmPips < 100 ∧ State.reset.boot.locked = false) ∧
    step serving = .next (passGrain serving) := ⟨by decide, by decide, rfl⟩

theorem serving_sound : Sound serving := ⟨by decide, by decide, by decide, by decide⟩
theorem reset_sound : Sound State.reset := ⟨by decide, by decide, by decide, by decide⟩

def unsafeState : State := { serving with mode := { mode := 11, base := 5 } }

theorem witness_ModeFollowsConditions : modeOk serving = true ∧ modeShown serving = true ∧ step serving = .next (passGrain serving) :=
  ⟨by decide, by decide, rfl⟩
theorem witness_MemoryStaysCanonical : memOk run0 = true ∧ ringsOk run0 = true ∧ step run0 = .next (passGrain run0) := ⟨by decide, by decide, rfl⟩
theorem witness_SafeStateHolds : unsafeState.mode.mode = 11 ∧ (∀ c ∈ unsafeState.pending.head?, leavesSafe c = false) ∧
    step unsafeState = .next (passGrain unsafeState) := ⟨by decide, by decide, rfl⟩
theorem witness_QueueAndIdentityKept : ∃ t, exec .resetNAssert serving = .next t := ⟨_, rfl⟩

/-! The image. -/

/-- A copy of the smallest image, of the VERSION and CRC given: empty sections HUSK_FW, CONFIG and DIE_FW, no keys. -/
def copyOf (version crc : Nat) : CopyIn :=
  { readOk := true, keyHashMatches := true, signatureOk := true, keysUnwrap := true
    bytes := [0x50#8, 0x4B#8, 0x49#8, 0x4D#8, 1#8, 0#8, 3#8, 0#8] ++ leBytes 4 1024 ++ leBytes 4 version ++ List.replicate 12 0#8 ++ [3#8] ++
      List.replicate 227 0#8 ++ [1#8, 0#8, 0#8, 0#8] ++ leBytes 4 304 ++ leBytes 4 16 ++ leBytes 4 0 ++
      [2#8, 0#8, 0#8, 0#8] ++ leBytes 4 320 ++ leBytes 4 16 ++ leBytes 4 0 ++ [3#8, 0#8, 0#8, 0#8] ++ leBytes 4 336 ++ leBytes 4 16 ++ leBytes 4 0 ++
      List.replicate 524 0#8 ++ leBytes 4 crc ++ List.replicate 192 0#8 }

def copy1 : CopyIn := copyOf 1 2688432444
def copy2 : CopyIn := copyOf 2 519065322

/-- The CRC register after each 36 bytes of the 828 checked. -/
def marks1 : List W32 :=
  [0xA75AA77B#32, 0x7A3CF89A#32, 0xE094508E#32, 0x79EA7067#32, 0x5EE789BB#32, 0x0CA76670#32, 0xA4683E9E#32, 0x49AD2BEC#32,
   0xFE4DBB39#32, 0x3BC7369E#32, 0x8BA01EEC#32, 0x5FB072F5#32, 0x42A604A6#32, 0xE48659E4#32, 0x67CA0F06#32, 0x1167D0E0#32,
   0x634D6CD5#32, 0x820BE43F#32, 0x4E06B20B#32, 0xC557411D#32, 0x13951362#32, 0x3A0863DD#32, 0x5FC1C6C3#32]
def marks2 : List W32 :=
  [0x6C669618#32, 0xE4F01477#32, 0xA8D9F7D6#32, 0xD672A6A8#32, 0x343ED608#32, 0xF5AD6616#32, 0xA1ECBF25#32, 0xB9CAB3AE#32,
   0x34E6CA45#32, 0xB7E1F10C#32, 0x8A5464BD#32, 0x7B6AEE85#32, 0x7B83F690#32, 0xBC11CAE1#32, 0xD07CBE2A#32, 0xFEE69EBD#32,
   0xD24F0374#32, 0x3548528E#32, 0x67D2D064#32, 0xCDD3B624#32, 0x59DD123D#32, 0x6C3706E2#32, 0xE10FB115#32]

/-- Each piece takes the CRC register from one mark to the next. -/
def crcWalk (c : W32) : List (List Byte) → List W32 → Bool
  | p :: ps, x :: xs => p.foldl crc32cByte c == x && crcWalk x ps xs
  | [], [] => true
  | _, _ => false

theorem crcWalk_sound : ∀ (ps : List (List Byte)) (xs : List W32) (c : W32), crcWalk c ps xs = true →
    ps.flatten.foldl crc32cByte c = xs.getLastD c
  | [], [], c, _ => rfl
  | p :: ps, x :: xs, c, h => by
    simp only [crcWalk, Bool.and_eq_true, beq_iff_eq] at h
    rw [List.flatten_cons, List.foldl_append, h.1, crcWalk_sound ps xs x h.2]
    cases xs <;> rfl
  | [], _ :: _, _, h => by simp [crcWalk] at h
  | _ :: _, [], _, h => by simp [crcWalk] at h

def pieces (b : List Byte) : List (List Byte) := (List.range 23).map (fun i => slice b (36 * i) 36)

theorem crc_holds (b : List Byte) (xs : List W32) (hp : (pieces b).flatten = b.take 828) (hn : Img.length b - tailBytes = 828)
    (hw : crcWalk 0xFFFFFFFF#32 (pieces b) xs = true) (hx : (~~~(xs.getLastD 0xFFFFFFFF#32)).toNat = leAt b 828 4) : crcOk b = true := by
  unfold crcOk
  simp only [hn, crc32c, ← hp, crcWalk_sound _ _ _ hw, hx, decide_true]

theorem copy1_crc : crcOk copy1.bytes = true :=
  crc_holds _ marks1 (by decide +kernel) (by decide +kernel) (by decide +kernel) (by decide +kernel)
theorem copy2_crc : crcOk copy2.bytes = true :=
  crc_holds _ marks2 (by decide +kernel) (by decide +kernel) (by decide +kernel) (by decide +kernel)

/-- M2 and M3, with nothing found yet. -/
def checking : State := { State.reset with pins := { resetN := true, pwrOk := true }, mode := { mode := 2, base := 2 } }
def testing : State := { State.reset with pins := { resetN := true, pwrOk := true }, mode := { mode := 3, base := 3 }, power := { sensors := [(5, -8)] } }

/-- All the checks of R463 but the CRC. -/
def otherChecks (s : State) (c : CopyIn) : Bool :=
  c.readOk && decide (256 ≤ c.bytes.length) && magicOk c.bytes && lengthOk c.bytes && decide (Img.length c.bytes ≤ c.bytes.length) &&
  headerOk c.bytes && tableOk c.bytes && c.keyHashMatches && !s.boot.revoked.getLsbD (Img.keySlot c.bytes) && c.signatureOk &&
  targetOk s c.bytes && decide (s.boot.svnFused ≤ Img.svn c.bytes) && configOk s c.bytes && keysOk s c

theorem passes (s : State) (c : CopyIn) (h : otherChecks s c = true) (hc : crcOk c.bytes = true) : checkCopy s c = 0 := by
  simp only [otherChecks, Bool.and_eq_true, decide_eq_true_eq, Bool.not_eq_true'] at h
  obtain ⟨⟨⟨⟨⟨⟨⟨⟨⟨⟨⟨⟨⟨h1, h2⟩, h3⟩, h4⟩, h5⟩, h6⟩, h7⟩, h8⟩, h9⟩, h10⟩, h11⟩, h12⟩, h13⟩, h14⟩ := h
  have a : ¬ c.bytes.length < headerBytes := by unfold headerBytes; omega
  have b : ¬ c.bytes.length < Img.length c.bytes := by omega
  have d : ¬ Img.svn c.bytes < s.boot.svnFused := by omega
  simp [checkCopy, h1, a, h3, h4, b, h6, h7, hc, h8, h9, h10, h11, d, h13, h14, Chk.pass]

theorem witness_Boot :
    (timeRuns checking = true ∧ checking.mode.base = 2 ∧ checking.mode.mode = 2 ∧ checking.mode.rejoining = []) ∧
    (checkCopy checking copy1 = 0 ∧ checkCopy checking copy2 = 0 ∧ versionOf copy1 < versionOf copy2 ∧
      checkCopy checking { copy1 with readOk := false } ≠ 0) ∧
    (timeRuns testing = true ∧ testing.mode.base = 3 ∧ testing.mode.mode = 3 ∧ testing.mode.rejoining = [] ∧ testing.mode.split = false ∧
      testing.net.lost = [] ∧ testing.power.sensors = [(5, -8)] ∧ testing.power.invalid = [] ∧ testing.trios = [] ∧ testing.cores = [] ∧
      testing.boot.entries = [] ∧
      ({ noBist with trims := [(0, 3)] } : BistIn).trims = [(0, 3)] ∧ (∃ i ∈ ({ noBist with failedDies := [0, 1] } : BistIn).failedDies, i.val = 1)) :=
  ⟨by decide, ⟨passes _ _ (by decide +kernel) copy1_crc, passes _ _ (by decide +kernel) copy2_crc, by decide +kernel, by decide⟩, by decide⟩

end Sys2Proof.Tests
end

section
/-! Writes of the status registers that no device window holds (R12). -/

namespace Sys2Proof.Machine

@[simp] theorem stack_modStack_same (s : State) (j : Nat) (f : Stack → Stack) : stack (modStack s j f) j = f (stack s j) := tget_tmod_same ..
@[simp] theorem hull_modHull_same (s : State) (h : Nat) (f : Hull → Hull) : hull (modHull s h f) h = f (hull s h) := tget_tmod_same ..
@[simp] theorem sliceE_modSlice_same (s : State) (n : Nat) (f : SliceE → SliceE) : sliceE (modSlice s n f) n = f (sliceE s n) :=
  tget_tmod_same ..

/-- While time runs, a write of a register that no device window holds takes effect. -/
theorem exec_registerWrite_outside {s : State} {r : RegName} (v : W64) (ht : timeRuns s = true) (hr : inWindow r = false) :
    exec (.registerWrite r v) s = .next (registerWrite s r v) := by
  simp [exec, execRegisterWrite, hr, ht]

/-- In service, a write of a register of a device window takes effect. -/
theorem exec_registerWrite_window {s : State} {r : RegName} (v : W64) (hs : inService s = true) (hr : inWindow r = true) :
    exec (.registerWrite r v) s = .next (registerWrite s r v) := by
  simp [exec, execRegisterWrite, hr, whenServing_on hs]

/-- Settles O51: each write takes effect, and each register's own update clears the bit where the value written has a 1. -/
theorem registerWrites : Obligations.RegisterWrites := by
  intro s v ht
  have outside := fun (r : RegName) (hr : inWindow r = false) => exec_registerWrite_outside v ht hr
  refine ⟨?pipStatus, fun j => ?stackStatus, fun h => ?hullStatus, ?modeStatus, ?seed, fun sl => ?sliceStatus, ?readOnly,
    fun p hs => ?cmdStatus⟩
  case pipStatus => exact ⟨_, outside .pipStatus rfl, rfl, rfl, rfl, rfl⟩
  case stackStatus => exact ⟨_, outside (.stackStatus j) rfl, by simp [registerWrite, bitOf]⟩
  case hullStatus => exact ⟨_, outside (.hullStatus h) rfl, by simp [registerWrite, bitOf]⟩
  case modeStatus => exact ⟨_, outside .modeStatus rfl, rfl, rfl⟩
  case seed => exact ⟨_, outside .seed rfl, rfl, rfl⟩
  case sliceStatus => exact ⟨_, outside (.sliceStatus sl) rfl, by simp [registerWrite, bitOf]⟩
  case readOnly => exact outside .readOnly rfl
  case cmdStatus => exact ⟨_, exec_registerWrite_window v hs rfl, rfl, rfl⟩

end Sys2Proof.Machine
end

section
/-! SUPPORT. What no command touches, and how it is read off a state that may come with something else: an outcome, a pair, an option, a
memory instruction's result, a handler's answer. -/

namespace Sys2Proof.Machine

/-- What no command touches: the commands that wait behind it, and what the part was made as, its ordering code and module ID. -/
def untouched (s : State) : List Instr × OrderingCode × W64 := (s.pending, s.ident.code, s.ident.moduleId)

theorem untouched_eq_iff {s t : State} : untouched t = untouched s ↔
    t.pending = s.pending ∧ t.ident.code = s.ident.code ∧ t.ident.moduleId = s.ident.moduleId := by
  simp only [untouched, Prod.mk.injEq]

@[simp] theorem untouched_mk (i : Ident) (x1 x2 x3 x4 x5 x6 x7 x8 x9 x10 x11 x12 x13 x14 x15 x16 x17 x18 x19 x20 x21 x22 x23 x24 x25 x26 x27
    x28 x29 x30 x31 x32 x33 x34) (p : List Instr) :
    untouched ⟨i, x1, x2, x3, x4, x5, x6, x7, x8, x9, x10, x11, x12, x13, x14, x15, x16, x17, x18, x19, x20, x21, x22, x23, x24, x25, x26, x27,
      x28, x29, x30, x31, x32, x33, x34, p⟩ = (p, i.code, i.moduleId) := rfl

@[simp] theorem untouched_fields (s : State) : (s.pending, s.ident.code, s.ident.moduleId) = untouched s := rfl

@[simp] theorem untouched_ite {p : Prop} [Decidable p] (s t : State) :
    untouched (if p then s else t) = if p then untouched s else untouched t := apply_ite untouched p s t

@[simp] theorem untouched_foldl {α : Type} (f : State → α → State) (l : List α) (s : State)
    (hf : ∀ s x, untouched (f s x) = untouched s) : untouched (l.foldl f s) = untouched s := by
  induction l generalizing s with
  | nil => rfl
  | cons x l ih => rw [List.foldl_cons, ih, hf]

@[simp] theorem untouched_forEach (s : State) (l : List Nat) (f : State → Nat → State) (hf : ∀ s n, untouched (f s n) = untouched s) :
    untouched (forEach s l f) = untouched s := untouched_foldl f l s hf

/-- For the first of a pair that a `match` has taken apart. -/
theorem untouched_fst {α : Type} {s t : State} {p : State × α} {x : α} (h : p = (t, x)) (hp : untouched p.1 = untouched s) :
    untouched t = untouched s := by subst h; exact hp

/-- For the state that a `match` has found in an option. -/
theorem untouched_some {s t : State} {o : Option State} (h : o = some t) (ho : untouched (o.getD s) = untouched s) :
    untouched t = untouched s := by subst h; exact ho

/-- The state of an outcome: `s` where the command ends in none. -/
def outcomeState (s : State) : Res → State
  | .next t => t
  | .fault _ => s
  | .refused _ => s

@[simp] theorem outcomeState_next (s t : State) : outcomeState s (.next t) = t := rfl
@[simp] theorem outcomeState_fault (s : State) (f : Fault) : outcomeState s (.fault f) = s := rfl

/-- The state in which a memory instruction completes, traps or waits. -/
def MemRes.state : MemRes → State
  | .done s => s
  | .trap s _ => s
  | .wait s _ => s

@[simp] theorem MemRes.state_done (s : State) : (MemRes.done s).state = s := rfl
@[simp] theorem MemRes.state_trap (s : State) (r : TrapRec) : (MemRes.trap s r).state = s := rfl
@[simp] theorem MemRes.state_wait (s : State) (n : Nat) : (MemRes.wait s n).state = s := rfl

/-- The state that an answer leaves: `s` where it refuses. -/
def Answer.stateOr (s : State) : Answer → State
  | .ok t _ => t
  | .no _ => s
  | .long t _ => t

@[simp] theorem Answer.stateOr_ok (s t : State) (r : List Byte) : (Answer.ok t r).stateOr s = t := rfl
@[simp] theorem Answer.stateOr_no (s : State) (n : Nat) : (Answer.no n).stateOr s = s := rfl
@[simp] theorem Answer.stateOr_long (s t : State) (k : LongKind) : (Answer.long t k).stateOr s = t := rfl

/-- A handler that touches none of it. -/
def LeavesUntouched (h : Handler) : Prop := ∀ s q, untouched ((h s q).stateOr s) = untouched s

end Sys2Proof.Machine
end

section
/-! SUPPORT. Untouched by the shared operations. -/

namespace Sys2Proof.Machine

@[simp] theorem untouched_modLCore (s : State) (c : Nat) (f : LCore → LCore) : untouched (modLCore s c f) = untouched s := by rfl
@[simp] theorem untouched_modTrio (s : State) (n : Nat) (f : Trio → Trio) : untouched (modTrio s n f) = untouched s := by rfl
@[simp] theorem untouched_modChan (s : State) (n : Nat) (f : Chan → Chan) : untouched (modChan s n f) = untouched s := by rfl
@[simp] theorem untouched_modGroup (s : State) (g : Nat) (f : Group → Group) : untouched (modGroup s g f) = untouched s := by rfl
@[simp] theorem untouched_modPart (s : State) (p : Nat) (f : PartE → PartE) : untouched (modPart s p f) = untouched s := by rfl
@[simp] theorem untouched_modSlice (s : State) (n : Nat) (f : SliceE → SliceE) : untouched (modSlice s n f) = untouched s := by rfl
@[simp] theorem untouched_modRing (s : State) (k : Nat) (f : Ring → Ring) : untouched (modRing s k f) = untouched s := by rfl
@[simp] theorem untouched_modEq (s : State) (k : Nat) (f : EqQueue → EqQueue) : untouched (modEq s k f) = untouched s := by rfl
@[simp] theorem untouched_modStack (s : State) (j : Nat) (f : Stack → Stack) : untouched (modStack s j f) = untouched s := by rfl
@[simp] theorem untouched_modCxl (s : State) (k : Nat) (f : CxlPort → CxlPort) : untouched (modCxl s k f) = untouched s := by rfl
@[simp] theorem untouched_modEng (s : State) (e : Nat) (f : Eng → Eng) : untouched (modEng s e f) = untouched s := by rfl
@[simp] theorem untouched_modNet (s : State) (f : Net → Net) : untouched (modNet s f) = untouched s := by rfl
@[simp] theorem untouched_modHull (s : State) (h : Nat) (f : Hull → Hull) : untouched (modHull s h f) = untouched s := by rfl
@[simp] theorem untouched_modLink (s : State) (l : Nat) (f : LinkSt → LinkSt) : untouched (modLink s l f) = untouched s := by rfl
@[simp] theorem untouched_modHusks (s : State) (f : Husks → Husks) : untouched (modHusks s f) = untouched s := by rfl
@[simp] theorem untouched_modEvents (s : State) (f : Events → Events) : untouched (modEvents s f) = untouched s := by rfl
@[simp] theorem untouched_modFaults (s : State) (f : Faults → Faults) : untouched (modFaults s f) = untouched s := by rfl
@[simp] theorem untouched_modBoot (s : State) (f : Boot → Boot) : untouched (modBoot s f) = untouched s := by rfl
@[simp] theorem untouched_modPower (s : State) (f : Power → Power) : untouched (modPower s f) = untouched s := by rfl
@[simp] theorem untouched_modPins (s : State) (f : Pins → Pins) : untouched (modPins s f) = untouched s := by rfl
@[simp] theorem untouched_modTime (s : State) (f : TimeB → TimeB) : untouched (modTime s f) = untouched s := by rfl
@[simp] theorem untouched_modModeS (s : State) (f : ModeS → ModeS) : untouched (modModeS s f) = untouched s := by rfl
@[simp] theorem untouched_modCoh (s : State) (f : Coh → Coh) : untouched (modCoh s f) = untouched s := by rfl
@[simp] theorem untouched_modSource (s : State) (e : Nat) (f : EvSource → EvSource) : untouched (modSource s e f) = untouched s := by rfl
@[simp] theorem untouched_modMailbox (s : State) (m : Nat) (f : Mailbox → Mailbox) : untouched (modMailbox s m f) = untouched s := by rfl

@[simp] theorem untouched_modBlock (s : State) (c k : Nat) (f : SendBlock → SendBlock) :
    untouched (modBlock s c k f) = untouched s := by rfl

@[simp] theorem untouched_modExch (s : State) (x : ExId) (f : Exch → Exch) : untouched (modExch s x f) = untouched s := by rfl
@[simp] theorem untouched_modJob (s : State) (j : JobId) (f : Job → Job) : untouched (modJob s j f) = untouched s := by rfl
@[simp] theorem untouched_useFree (s : State) : untouched (useFree s).1 = untouched s := by simp [useFree]
@[simp] theorem untouched_toGrain (s : State) (g : Nat) : untouched (toGrain s g) = untouched s := by rfl
@[simp] theorem untouched_setMode (s : State) (m : Nat) : untouched (setMode s m) = untouched s := by simp [setMode]
@[simp] theorem untouched_settle (s : State) : untouched (settle s) = untouched s := by simp [settle]

@[simp] theorem untouched_whenServing (s x : State) (h : untouched x = untouched s) : untouched (whenServing s x) = untouched s := by
  simp [whenServing, h]

@[simp] theorem untouched_whenPowered (s x : State) (h : untouched x = untouched s) : untouched (whenPowered s x) = untouched s := by
  simp [whenPowered, h]

@[simp] theorem untouched_modHusk (s : State) (h : HuskId) (f : Husk → Husk) : untouched (modHusk s h f) = untouched s := by rfl
@[simp] theorem untouched_report (s : State) (pt detail : Nat) : untouched (report s pt detail) = untouched s := by simp [report]

@[simp] theorem untouched_raiseMaskAt (s : State) (k die src : Nat) (m : W32) :
    untouched (raiseMaskAt s k die src m) = untouched s := by rfl

@[simp] theorem untouched_raiseMask (s : State) (src : Nat) (m : W32) : untouched (raiseMask s src m) = untouched s := by simp [raiseMask]

@[simp] theorem untouched_raiseFrom (s : State) (die src cause : Nat) : untouched (raiseFrom s die src cause) = untouched s := by
  simp [raiseFrom]

@[simp] theorem untouched_raise (s : State) (src cause : Nat) : untouched (raise s src cause) = untouched s := by simp [raise]

@[simp] theorem untouched_notice (s : State) (p cause object : Nat) : untouched (notice s p cause object) = untouched s := by
  simp [notice]

@[simp] theorem untouched_noticeAll (s : State) (cause object : Nat) : untouched (noticeAll s cause object) = untouched s := by
  simp [noticeAll]

@[simp] theorem untouched_modSet (s : State) (c k : Nat) (f : TaskSet → TaskSet) : untouched (modSet s c k f) = untouched s := by rfl
@[simp] theorem untouched_modCur (s : State) (c : Nat) (f : TaskSet → TaskSet) : untouched (modCur s c f) = untouched s := by rfl

end Sys2Proof.Machine
end

section
/-! SUPPORT. Untouched by caches, homes and the messages between them. -/

namespace Sys2Proof.Machine

@[simp] theorem untouched_l1Clear (s : State) (k : Nat) : untouched (l1Clear s k) = untouched s := by rfl
@[simp] theorem untouched_l1Drop (s : State) (a ln : Nat) : untouched (l1Drop s a ln) = untouched s := by simp [l1Drop]
@[simp] theorem untouched_pickLine (s : State) (l : List Nat) : untouched (pickLine s l).1 = untouched s := by simp [pickLine]
@[simp] theorem untouched_setL1 (s : State) (inst : Bool) (n : Nat) (l : List Nat) : untouched (setL1 s inst n l) = untouched s := by rfl

@[simp] theorem untouched_l1Put (ln : Nat) (inst : Bool) (s : State) (n : Nat) : untouched (l1Put ln inst s n) = untouched s := by
  unfold l1Put; dsimp only; (repeat' split) <;> simp

@[simp] theorem untouched_l1Into (s : State) (a ln : Nat) (inst : Bool) : untouched (l1Into s a ln inst) = untouched s := by simp [l1Into]
@[simp] theorem untouched_l1Fill (s : State) (a ln : Nat) : untouched (l1Fill s a ln) = untouched s := by simp [l1Fill]

@[simp] theorem untouched_l1Invalidate (s : State) (a : Nat) (both : Bool) : untouched (l1Invalidate s a both) = untouched s := by
  simp [l1Invalidate]

@[simp] theorem untouched_setL2 (s : State) (a ln : Nat) (x : L2Line) : untouched (setL2 s a ln x) = untouched s := by simp [setL2]
@[simp] theorem untouched_setL2St (s : State) (a ln : Nat) (x : L2St) : untouched (setL2St s a ln x) = untouched s := by simp [setL2St]
@[simp] theorem untouched_modHome (s : State) (ln : Nat) (f : Home → Home) : untouched (modHome s ln f) = untouched s := by rfl
@[simp] theorem untouched_setHomeSt (s : State) (ln : Nat) (x : HomeSt) : untouched (setHomeSt s ln x) = untouched s := by rfl

@[simp] theorem untouched_domainPacket (s : State) (k : Nat) : untouched (domainPacket s k) = untouched s := by
  unfold domainPacket; split <;> simp

@[simp] theorem untouched_linePacket (s : State) (ln : Nat) : untouched (linePacket s ln) = untouched s := by
  unfold linePacket; split <;> simp

@[simp] theorem untouched_memWriteLine (s0 : State) (ln : Nat) (l : Line) : untouched (memWriteLine s0 ln l) = untouched s0 := by
  unfold memWriteLine; dsimp only; (repeat' split) <;> simp

@[simp] theorem untouched_fillL3 (s : State) (ln : Nat) : untouched (fillL3 s ln) = untouched s := by rfl
@[simp] theorem untouched_writeL3 (s : State) (ln : Nat) (l : Line) : untouched (writeL3 s ln l) = untouched s := by rfl

@[simp] theorem untouched_cleanL3 (s : State) (ln : Nat) : untouched (cleanL3 s ln) = untouched s := by
  unfold cleanL3; dsimp only; split <;> simp

@[simp] theorem untouched_dropL3 (s : State) (ln : Nat) : untouched (dropL3 s ln) = untouched s := by rfl
@[simp] theorem untouched_sendAll (s : State) (ms : List CohMsg) : untouched (sendAll s ms) = untouched s := by rfl
@[simp] theorem untouched_send (s : State) (m : CohMsg) : untouched (send s m) = untouched s := by simp [send]

@[simp] theorem untouched_impossible (s : State) (k : MsgKind) (agent ln : Nat) (atHome : Bool) :
    untouched (impossible s k agent ln atHome) = untouched s := by
  simp [impossible]

@[simp] theorem untouched_returnCredit (s : State) (a ln k : Nat) : untouched (returnCredit s a ln k) = untouched s := by
  unfold returnCredit; split <;> simp

@[simp] theorem untouched_coreReply (s : State) (c ln : Nat) (isolated : Bool) : untouched (coreReply s c ln isolated) = untouched s := by
  unfold coreReply; split <;> simp

@[simp] theorem untouched_predMove (s : State) (a pa : Nat) (up : Bool) : untouched (predMove s a pa up) = untouched s := by
  simp [predMove]

@[simp] theorem untouched_amoAnswer (s : State) (m : CohMsg) : untouched (amoAnswer s m) = untouched s := by
  unfold amoAnswer; (repeat' split) <;> simp

@[simp] theorem untouched_l2Recv (s : State) (m : CohMsg) : untouched (l2Recv s m) = untouched s := by
  unfold l2Recv; dsimp only; (repeat' split) <;> simp

@[simp] theorem untouched_invalAll (s : State) (ln : Nat) (l : List Nat) : untouched (invalAll s ln l) = untouched s := by simp [invalAll]

@[simp] theorem untouched_performTake (s : State) (ln : Nat) (r : HomeReq) : untouched (performTake s ln r) = untouched s := by
  unfold performTake; dsimp only; (repeat' split) <;> simp

@[simp] theorem untouched_homeRdOwn (s : State) (ln : Nat) (a : Nat) (zero : Bool) (x : HStable) :
    untouched (homeRdOwn s ln a zero x) = untouched s := by
  unfold homeRdOwn; split <;> simp

@[simp] theorem untouched_homeTake (s : State) (ln : Nat) (r : HomeReq) (x : HStable) : untouched (homeTake s ln r x) = untouched s := by
  unfold homeTake; split <;> simp

@[simp] theorem untouched_homeRequest (s : State) (ln : Nat) (r : HomeReq) (x : HStable) :
    untouched (homeRequest s ln r x) = untouched s := by
  unfold homeRequest; (repeat' split) <;> simp

@[simp] theorem untouched_drainFrom (n : Nat) (s : State) (ln : Nat) : untouched (drainFrom n s ln) = untouched s := by
  induction n generalizing s with
  | zero => rfl
  | succ n ih => unfold drainFrom; dsimp only; (repeat' split) <;> simp [ih]

@[simp] theorem untouched_drainHome (s : State) (ln : Nat) : untouched (drainHome s ln) = untouched s := by simp [drainHome]

@[simp] theorem untouched_homeRecvReq (s : State) (ln : Nat) (r : HomeReq) : untouched (homeRecvReq s ln r) = untouched s := by
  unfold homeRecvReq; split <;> simp

@[simp] theorem untouched_homeBecomes (s : State) (ln : Nat) (x : HStable) : untouched (homeBecomes s ln x) = untouched s := by
  simp [homeBecomes]

@[simp] theorem untouched_applyEvict (s : State) (ln : Nat) (m : CohMsg) : untouched (applyEvict s ln m) = untouched s := by
  unfold applyEvict; split <;> simp

@[simp] theorem untouched_homeEvict (s : State) (m : CohMsg) : untouched (homeEvict s m) = untouched s := by
  unfold homeEvict; dsimp only; split <;> simp

@[simp] theorem untouched_fwdDone (s : State) (ln : Nat) (r : HomeReq) (base : HStable) (gone : List Nat) :
    untouched (fwdDone s ln r base gone) = untouched s := by
  unfold fwdDone; split <;> simp

@[simp] theorem untouched_homeInvalAck (s : State) (a ln : Nat) : untouched (homeInvalAck s a ln) = untouched s := by
  unfold homeInvalAck; (repeat' split) <;> simp

@[simp] theorem untouched_homeDataRecv (s : State) (m : CohMsg) : untouched (homeDataRecv s m) = untouched s := by
  unfold homeDataRecv; dsimp only; split <;> simp

@[simp] theorem untouched_homeCmpRecv (s : State) (a ln : Nat) : untouched (homeCmpRecv s a ln) = untouched s := by
  unfold homeCmpRecv; split <;> simp

@[simp] theorem untouched_isoEnd (s : State) (r : HomeReq) (ln : Nat) : untouched (isoEnd s r ln) = untouched s := by
  unfold isoEnd; dsimp only; (repeat' split) <;> simp

@[simp] theorem untouched_homeAnswerIso (s : State) (a ln : Nat) : untouched (homeAnswerIso s a ln) = untouched s := by
  unfold homeAnswerIso; split <;> simp

@[simp] theorem untouched_atHull (s : State) (l : List Nat) (f : Hull → Hull) : untouched (atHull s l f) = untouched s := by
  unfold atHull; split <;> simp

@[simp] theorem untouched_countIso (s : State) (h ln : Nat) : untouched (countIso s h ln) = untouched s := by simp [countIso]

@[simp] theorem untouched_evictIsolated (s : State) (a ln : Nat) : untouched (evictIsolated s a ln) = untouched s := by
  simp [evictIsolated]

@[simp] theorem untouched_removeMsg (s : State) (m : CohMsg) : untouched (removeMsg s m) = untouched s := by rfl

@[simp] theorem untouched_deliver (s : State) (m : CohMsg) : untouched (deliver s m) = untouched s := by
  unfold deliver; split <;> simp

@[simp] theorem untouched_move (s : State) (m : CohMsg) : untouched ((move s m).getD s) = untouched s := by
  unfold move; dsimp only; (repeat' split) <;> simp

@[simp] theorem untouched_runLine (n : Nat) (s : State) (ln : Nat) : untouched (runLine n s ln) = untouched s := by
  induction n generalizing s with
  | zero => rfl
  | succ n ih =>
    unfold runLine; split
    · rfl
    · next s1 h =>
      obtain ⟨m, -, hm⟩ := List.exists_of_findSome?_eq_some h
      split at hm
      · rw [ih, untouched_some hm (untouched_move s m)]
      · cases hm

@[simp] theorem untouched_arriveInOrder (s : State) (m : CohMsg) : untouched (arriveInOrder s m) = untouched s := by simp [arriveInOrder]

@[simp] theorem untouched_l2Store (s : State) (a ln k : Nat) (c : CWord) : untouched (l2Store s a ln k c) = untouched s := by
  simp [l2Store]

@[simp] theorem untouched_victimTake (s : State) (ln : Nat) : untouched (victimTake s ln) = untouched s := by
  unfold victimTake; split <;> simp

@[simp] theorem untouched_trimL3 (s : State) (ln : Nat) : untouched (trimL3 s ln) = untouched s := by
  unfold trimL3; dsimp only; (repeat' split) <;> simp

@[simp] theorem untouched_trimDir (s : State) (ln : Nat) : untouched (trimDir s ln) = untouched s := by
  unfold trimDir; dsimp only; (repeat' split) <;> simp

@[simp] theorem untouched_settleLine (s : State) (ln : Nat) : untouched (settleLine s ln) = untouched s := by simp [settleLine]

@[simp] theorem untouched_startEvict (s : State) (a ln : Nat) : untouched (startEvict s a ln) = untouched s := by
  unfold startEvict; dsimp only; split <;> simp

@[simp] theorem untouched_evictRun (s : State) (a ln : Nat) : untouched (evictRun s a ln) = untouched s := by simp [evictRun]

@[simp] theorem untouched_makeRoom (s : State) (a ln : Nat) : untouched ((makeRoom s a ln).getD s) = untouched s := by
  unfold makeRoom; dsimp only; (repeat' split) <;> simp

@[simp] theorem untouched_requestState (s : State) (o : OutReq) : untouched (requestState s o) = untouched s := by
  unfold requestState; dsimp only; split <;> simp

@[simp] theorem untouched_bounce (s : State) (o : OutReq) : untouched (bounce s o) = untouched s := by simp [bounce]

@[simp] theorem untouched_inject (s : State) (o : OutReq) : untouched ((inject s o).getD s) = untouched s := by
  unfold inject; dsimp only; split
  · simp
  · split
    · rfl
    · split
      · rfl
      · next s1 h =>
        have h1 : untouched s1 = untouched s := by
          split at h
          · exact untouched_some h (by simp)
          · cases h; rfl
        simp [h1]

@[simp] theorem untouched_launch (s : State) (o : OutReq) : untouched (launch s o) = untouched s := by
  unfold launch; dsimp only; split
  · next s1 h =>
    have h1 := untouched_some h (untouched_inject s o)
    split <;> simp [h1]
  · simp

@[simp] theorem untouched_pump (s : State) : untouched (pump s) = untouched s := by
  refine untouched_foldl _ _ _ fun s o => ?_
  dsimp only; split
  · next s1 h =>
    have h1 := untouched_some h (untouched_inject _ o)
    split <;> simp [h1]
  · rfl

@[simp] theorem untouched_obtain (s : State) (c ln : Nat) (own zero : Bool) : untouched (obtain s c ln own zero) = untouched s := by
  unfold obtain; dsimp only; (repeat' split) <;> simp

@[simp] theorem untouched_ioPackets (s : State) (pa n : Nat) : untouched (ioPackets s pa n) = untouched s := by simp [ioPackets]

@[simp] theorem untouched_ioWriteLine (s : State) (d ln : Nat) (bs : List Byte) (mask : BitVec 128) (alloc : Bool) :
    untouched (ioWriteLine s d ln bs mask alloc) = untouched s := by
  simp [ioWriteLine]

@[simp] theorem untouched_ioWrite (alloc : Bool) (n : Nat) (s : State) (d pa : Nat) (bs : List Byte) :
    untouched (ioWrite alloc n s d pa bs) = untouched s := by
  induction n generalizing s pa bs with
  | zero => rfl
  | succ n ih => cases bs with
    | nil => rfl
    | cons b bs => simp [ioWrite, ih]

@[simp] theorem untouched_ioWriteBytes (s : State) (d pa : Nat) (bs : List Byte) (alloc : Bool) :
    untouched (ioWriteBytes s d pa bs alloc) = untouched s := by
  simp [ioWriteBytes]

@[simp] theorem untouched_cutHome (gone : Nat → Nat → Bool) (forget : Bool) (s : State) (ln : Nat) :
    untouched (cutHome gone forget s ln) = untouched s := by
  unfold cutHome; dsimp only; split <;> simp

@[simp] theorem untouched_cutRequests (gone : Nat → Nat → Bool) (s : State) : untouched (cutRequests gone s) = untouched s := by
  simp [cutRequests]

end Sys2Proof.Machine
end

section
/-! SUPPORT. Untouched by traps and the issue of instructions. -/

namespace Sys2Proof.Machine

@[simp] theorem untouched_fetchNext (s : State) (c : Nat) : untouched (fetchNext s c) = untouched s := by
  unfold fetchNext; dsimp only; split <;> simp

@[simp] theorem untouched_doubleTrap (s : State) (c : Nat) : untouched (doubleTrap s c).1 = untouched s := by
  unfold doubleTrap; dsimp only; (repeat' split) <;> simp

@[simp] theorem untouched_advance (s : State) (c : Nat) : untouched (advance s c) = untouched s := by simp [advance]

@[simp] theorem untouched_takeTrap (n : Nat) (s : State) (c : Nat) (r : TrapRec) (tepc : W64) (long : Bool) :
    untouched (takeTrap n s c r tepc long) = untouched s := by
  induction n generalizing s r tepc long with
  | zero => rfl
  | succ n ih => unfold takeTrap; dsimp only; (repeat' split) <;> simp [ih]

@[simp] theorem untouched_enterPending (s : State) (c : Nat) (passed : Bool) : untouched (enterPending s c passed) = untouched s := by
  unfold enterPending; split <;> simp

@[simp] theorem untouched_retire (s : State) (c k : Nat) : untouched (retire s c k) = untouched s := by simp [retire]

@[simp] theorem untouched_raiseTrap (s : State) (c : Nat) (z : Size) (r : TrapRec) : untouched (raiseTrap s c z r) = untouched s := by
  simp [raiseTrap]

@[simp] theorem untouched_takeFpTrap (s : State) (c : Nat) (z : Size) : untouched (takeFpTrap s c z) = untouched s := by simp [takeFpTrap]

/-- An issued instruction touches what its body does. -/
theorem untouched_issue (s : State) (c : Nat) (z : Size) (body : State → Ex State) (hb : ∀ t, body s = .ok t → untouched t = untouched s) :
    untouched (issue s c z body) = untouched s := by
  unfold issue; split
  · rfl
  · split
    · next s1 h => split <;> simp [hb s1 h]
    · simp

@[simp] theorem untouched_issueSet (s : State) (c : Nat) (z : Size) (f : TaskSet → Ex TaskSet) :
    untouched (issueSet s c z f) = untouched s := by
  refine untouched_issue s c z _ fun t h => ?_
  cases hf : f (curSet s c) with
  | error r => rw [hf] at h; cases h
  | ok x => rw [hf] at h; cases h; simp

theorem untouched_issueNext (s : State) (c : Nat) (z : Size) (body : State → Ex State)
    (hb : ∀ t, body s = .ok t → untouched t = untouched s) :
    untouched (issueNext s c z body) = untouched s := by
  refine untouched_issue s c z _ fun t h => ?_
  cases hf : body s with
  | error r => rw [hf] at h; cases h
  | ok x => rw [hf] at h; cases h; simp [hb x hf]

@[simp] theorem untouched_rformA (s : State) (c : LC) (f : RForm) (op : Int → Int → Ex Int) :
    untouched (rformA s c f op) = untouched s := by
  simp [rformA]

@[simp] theorem untouched_rformL (s : State) (c : LC) (f : RForm) (op : W64 → W64 → W64) : untouched (rformL s c f op) = untouched s := by
  simp [rformL]

@[simp] theorem untouched_execAddi (c : LC) (f : IForm) (s : State) : untouched (outcomeState s (execAddi c f s)) = untouched s := by
  unfold execAddi; split <;> simp

@[simp] theorem untouched_execTget (c : LC) (f : UForm) (s : State) : untouched (outcomeState s (execTget c f s)) = untouched s := by
  unfold execTget; split <;> simp

@[simp] theorem untouched_issuePc (s : State) (c : Nat) (z : Size) (f : TaskSet → Ex TaskSet) : untouched (issuePc s c z f) = untouched s := by
  refine untouched_issue s c z _ fun t h => ?_
  cases hf : f (curSet s c) with
  | error r => rw [hf] at h; cases h
  | ok x => rw [hf] at h; cases h; simp

end Sys2Proof.Machine
end

section
/-! SUPPORT. Untouched by events, translation and engine jobs. -/

namespace Sys2Proof.Machine

@[simp] theorem untouched_dropWrite (s : State) (p : Nat) : untouched (dropWrite s p) = untouched s := by rfl
@[simp] theorem untouched_withRead (s : State) (v : W64) : untouched (withRead s v) = untouched s := by rfl

@[simp] theorem untouched_evPendingWrite (s : State) (p e : Nat) (v : W64) : untouched (evPendingWrite s p e v) = untouched s := by
  simp [evPendingWrite]

@[simp] theorem untouched_evTake (s : State) (p e : Nat) : untouched (evTake s p e).1 = untouched s := by
  unfold evTake; split <;> simp

@[simp] theorem untouched_evBindWrite (s : State) (p e : Nat) (v : W64) : untouched (evBindWrite s p e v) = untouched s := by
  simp [evBindWrite]

@[simp] theorem untouched_mbxSend (s : State) (c k : Nat) (v : W64) : untouched (mbxSend s c k v) = untouched s := by
  unfold mbxSend; split <;> simp

@[simp] theorem untouched_sendStatusClear (s : State) (c k : Nat) (v : W64) : untouched (sendStatusClear s c k v) = untouched s := by rfl

@[simp] theorem untouched_sendStageWrite (s : State) (c k w : Nat) (v : W64) :
    untouched (sendStageWrite s c k w v) = untouched s := by rfl

@[simp] theorem untouched_mbxDbTake (s : State) (p m : Nat) : untouched (mbxDbTake s p m).1 = untouched s := by
  unfold mbxDbTake; split <;> simp

@[simp] theorem untouched_mbxRelease (s : State) (m : Nat) (v : W64) : untouched (mbxRelease s m v) = untouched s := by rfl

@[simp] theorem untouched_abortOne (s : State) (m : Nat) (x : Sender) (sentEpoch : Nat) :
    untouched (abortOne s m x sentEpoch) = untouched s := by
  simp [abortOne]

@[simp] theorem untouched_mbxReset (s : State) (m : Nat) : untouched (mbxReset s m) = untouched s := by simp [mbxReset]
@[simp] theorem untouched_mbxCtrl (s : State) (p m : Nat) (v : W64) : untouched (mbxCtrl s p m v) = untouched s := by simp [mbxCtrl]

@[simp] theorem untouched_mbxStatusClear (s : State) (p m : Nat) (v : W64) : untouched (mbxStatusClear s p m v) = untouched s := by
  simp [mbxStatusClear]

@[simp] theorem untouched_mbxDbMaskWrite (s : State) (p m : Nat) (v : W64) : untouched (mbxDbMaskWrite s p m v) = untouched s := by
  simp [mbxDbMaskWrite]

@[simp] theorem untouched_deliverSend (s : State) (q : Send) : untouched (deliverSend s q) = untouched s := by simp [deliverSend]
@[simp] theorem untouched_queueVector (s : State) (c k v : Nat) : untouched (queueVector s c k v) = untouched s := by rfl

@[simp] theorem untouched_deliverVector (s : State) (e : Nat) : untouched (deliverVector s e) = untouched s := by
  unfold deliverVector; (repeat' split) <;> simp

@[simp] theorem untouched_stageSet (s : State) (c k : Nat) : untouched (stageSet s c k) = untouched s := by
  unfold stageSet; dsimp only; (repeat' split) <;> simp

@[simp] theorem untouched_stageAll (s : State) : untouched (stageAll s) = untouched s := by simp [stageAll]
@[simp] theorem untouched_deliveryWindow (s : State) : untouched (deliveryWindow s) = untouched s := by simp [deliveryWindow]
@[simp] theorem untouched_eventWindow (s : State) : untouched (eventWindow s) = untouched s := by simp [eventWindow]

@[simp] theorem untouched_ioTranslate (s : State) (d sl : Nat) (iova : W64) (n : Nat) (wr : Bool) :
    untouched (ioTranslate s d sl iova n wr).1 = untouched s := by
  unfold ioTranslate; dsimp only; (repeat' split) <;> simp

@[simp] theorem untouched_noteFault (s : State) (sl reason : Nat) : untouched (noteFault s sl reason) = untouched s := by rfl

@[simp] theorem untouched_ioCount (s : State) (d pa n : Nat) : untouched (ioCount s d pa n) = untouched s := by
  unfold ioCount; split <;> simp

@[simp] theorem untouched_ioReadChunks (k : Nat) (s : State) (d sl iova n : Nat) (acc : List Byte) :
    untouched (ioReadChunks k s d sl iova n acc).1 = untouched s := by
  induction k generalizing s iova n acc with
  | zero => rfl
  | succ k ih =>
    unfold ioReadChunks; split
    · rfl
    · dsimp only; split
      · next s1 r h => simp [untouched_fst h (untouched_ioTranslate ..)]
      · next s1 pa h =>
        have h1 := untouched_fst h (untouched_ioTranslate ..)
        split <;> simp [ih, h1]

@[simp] theorem untouched_ioReadV (s : State) (d sl iova n : Nat) : untouched (ioReadV s d sl iova n).1 = untouched s := by simp [ioReadV]
@[simp] theorem untouched_logPage (s : State) (d sl iova : Nat) : untouched (logPage s d sl iova) = untouched s := by simp [logPage]

@[simp] theorem untouched_ioWriteChunks (alloc : Bool) (k : Nat) (s : State) (d sl iova : Nat) (bs : List Byte) :
    untouched (ioWriteChunks alloc k s d sl iova bs).1 = untouched s := by
  induction k generalizing s iova bs with
  | zero => rfl
  | succ k ih => cases bs with
    | nil => rfl
    | cons b bs =>
      unfold ioWriteChunks; dsimp only; split
      · next s1 r h => simp [untouched_fst h (untouched_ioTranslate ..)]
      · next s1 pa h =>
        have h1 := untouched_fst h (untouched_ioTranslate ..)
        split <;> simp [ih, h1]

@[simp] theorem untouched_ioWriteV (s : State) (d sl iova : Nat) (bs : List Byte) (alloc : Bool) :
    untouched (ioWriteV s d sl iova bs alloc).1 = untouched s := by
  simp [ioWriteV]

@[simp] theorem untouched_modInv (s : State) (p k : Nat) (f : InvSlot → InvSlot) : untouched (modInv s p k f) = untouched s := by rfl
@[simp] theorem untouched_dropLeaves (s : State) (sl iova pages : Nat) : untouched (dropLeaves s sl iova pages) = untouched s := by rfl

@[simp] theorem untouched_invCsrWrite (s : State) (p k : Nat) (v : W64) : untouched (invCsrWrite s p k v) = untouched s := by
  simp [invCsrWrite]

@[simp] theorem untouched_invWrite (s : State) (p k which : Nat) (v : W64) : untouched (invWrite s p k which v) = untouched s := by
  simp [invWrite]

@[simp] theorem untouched_drawIv (s : State) (h : Nat) : untouched (drawIv s h).1 = untouched s := by
  unfold drawIv; split <;> simp

@[simp] theorem untouched_ioWriteParts (s : State) (d sl : Nat) (l : List (Nat × List Byte)) :
    untouched (ioWriteParts s d sl l).1 = untouched s := by
  induction l generalizing s with
  | nil => rfl
  | cons p l ih =>
    unfold ioWriteParts; split
    · next s1 h => rw [ih, untouched_fst h (untouched_ioWriteV ..)]
    · simp

@[simp] theorem untouched_writeResult (s : State) (d sl base : Nat) (parts : List (Nat × List Byte)) (stamp : W64) (word : Nat) :
    untouched (writeResult s d sl base parts stamp word).1 = untouched s := by
  simp [writeResult]

@[simp] theorem untouched_checkResume (s : State) (die sl : Nat) (desc : List Byte) (d : Desc) :
    untouched (checkResume s die sl desc d).1 = untouched s := by
  unfold checkResume; split
  · next s1 e h => exact untouched_fst h (untouched_ioReadV ..)
  · next s1 r h =>
    have h1 := untouched_fst h (untouched_ioReadV ..)
    split
    · split
      · next s2 h2 => exact (untouched_fst h2 (untouched_ioWriteV ..)).trans h1
      · next s2 e h2 => exact (untouched_fst h2 (untouched_ioWriteV ..)).trans h1
    · exact h1

@[simp] theorem untouched_readInput (s : State) (die sl : Nat) (d : Desc) : untouched (readInput s die sl d).1 = untouched s := by
  unfold readInput; split
  · next s1 e h => exact untouched_fst h (untouched_ioReadV ..)
  · next s1 bs h => split <;> exact untouched_fst h (untouched_ioReadV ..)

@[simp] theorem untouched_writeOutput (s : State) (die sl : Nat) (desc : List Byte) (d : Desc) (o : JobOut) (prev : Nat) (iv inp : List Byte) :
    untouched (writeOutput s die sl desc d o prev iv inp).1 = untouched s := by
  unfold writeOutput; split
  · next s1 e h => exact untouched_fst h (untouched_ioWriteV ..)
  · next s1 h =>
    have h1 := untouched_fst h (untouched_ioWriteV ..)
    split
    · dsimp only; split
      · next s3 e h3 => simp [untouched_fst h3 (untouched_ioWriteV ..), h1]
      · next s3 h3 => simp [untouched_fst h3 (untouched_ioWriteV ..), h1]
    · exact h1

@[simp] theorem untouched_takeKey (s : State) (j : Job) : untouched (takeKey s j).1 = untouched s := by
  unfold takeKey; dsimp only; split <;> simp

@[simp] theorem untouched_beginJob (s : State) (sl : Nat) (j : Job) : untouched (beginJob s sl j).1 = untouched s := by
  unfold beginJob; dsimp only; split
  · simp
  · split
    · simp
    · split
      · next s1 c h => exact untouched_fst h (by (repeat' split) <;> simp)
      · next s1 prev iv h =>
        have h1 : untouched s1 = untouched s := untouched_fst h (by (repeat' split) <;> simp)
        split
        · split
          · next s2 e h2 => exact (untouched_fst h2 (untouched_ioReadV ..)).trans h1
          · next s2 e h2 => exact (untouched_fst h2 (untouched_ioReadV ..)).trans h1
        · exact h1

@[simp] theorem untouched_jobOutput (s : State) (sl : Nat) (j : Job) : untouched (jobOutput s sl j).1 = untouched s := by
  unfold jobOutput; dsimp only; split
  · rfl
  · rfl
  · split
    · next s1 c h => exact untouched_fst h (untouched_readInput ..)
    · next s1 inp h => exact untouched_fst h (untouched_readInput ..)

@[simp] theorem untouched_runStandalone (s : State) (sl : Nat) (j : Job) : untouched (runStandalone s sl j).1 = untouched s := by
  unfold runStandalone; dsimp only; split <;> simp

end Sys2Proof.Machine
end

section
/-! SUPPORT. Untouched by paths and frames. -/

namespace Sys2Proof.Machine

@[simp] theorem untouched_choosePath (s : State) (g : Nat) (except_ : Option Nat) :
    untouched (choosePath s g except_).1 = untouched s := by
  unfold choosePath; dsimp only; split <;> simp

@[simp] theorem untouched_resetCur (s : State) (g : Nat) : untouched (resetCur s g) = untouched s := by simp [resetCur]
@[simp] theorem untouched_startRekey (s : State) (g : Nat) : untouched (startRekey s g) = untouched s := by simp [startRekey]

@[simp] theorem untouched_putFrame (s : State) (n : Nat) (f : TxFrame) : untouched (putFrame s n f) = untouched s := by
  unfold putFrame; dsimp only; split <;> simp

@[simp] theorem untouched_sendFrame (s : State) (n ftype : Nat) (sequenced : Bool) (tag : W64) (body : List Byte) (last : Bool) :
    untouched (sendFrame s n ftype sequenced tag body last) = untouched s := by
  simp [sendFrame]

@[simp] theorem untouched_sendOrQueue (s : State) (n ftype : Nat) (tag : W64) (body : List Byte) :
    untouched (sendOrQueue s n ftype tag body) = untouched s := by
  simp [sendOrQueue]

@[simp] theorem untouched_sendQueued (s : State) (n : Nat) : untouched (sendQueued s n) = untouched s := by simp [sendQueued]
@[simp] theorem untouched_sendAck (s : State) (n : Nat) : untouched (sendAck s n) = untouched s := by simp [sendAck]
@[simp] theorem untouched_sendNak (s : State) (n reason : Nat) : untouched (sendNak s n reason) = untouched s := by simp [sendNak]
@[simp] theorem untouched_resendFrom (s : State) (n seq : Nat) : untouched (resendFrom s n seq) = untouched s := by simp [resendFrom]
@[simp] theorem untouched_takeAck (s : State) (n ackSeq : Nat) : untouched (takeAck s n ackSeq) = untouched s := by rfl

@[simp] theorem untouched_noteChain (s : State) (e : Exch) (r : ExRes) : untouched (noteChain s e r) = untouched s := by
  unfold noteChain; split <;> simp

@[simp] theorem untouched_decideWith (s : State) (x : ExId) (r : ExRes) : untouched (decideWith s x r) = untouched s := by
  unfold decideWith; split <;> simp

@[simp] theorem untouched_decide_ (s : State) (x : ExId) (code detail : Nat) : untouched (decide_ s x code detail) = untouched s := by
  simp [decide_]

@[simp] theorem untouched_setChainPath (s : State) (e : Exch) (k : Nat) : untouched (setChainPath s e k) = untouched s := by
  unfold setChainPath; split <;> simp

@[simp] theorem untouched_moveTo (s : State) (e : Exch) (k : Nat) : untouched (moveTo s e k) = untouched s := by simp [moveTo]

@[simp] theorem untouched_promote (s : State) (x : ExId) : untouched (promote s x) = untouched s := by
  unfold promote; split
  · rfl
  · split
    · rfl
    · split
      · rfl
      · split
        · simp
        · split
          · split
            · split <;> simp
            · split
              · rfl
              · split
                · next s1 k h => simp [untouched_fst h (untouched_choosePath ..)]
                · rfl
          · split
            · next s1 k h => simp [untouched_fst h (untouched_choosePath ..)]
            · rfl

@[simp] theorem untouched_abortLater (s : State) (e : Exch) : untouched (abortLater s e) = untouched s := by
  unfold abortLater; split <;> simp

@[simp] theorem untouched_promoteAll (s : State) : untouched (promoteAll s) = untouched s := by simp [promoteAll]

@[simp] theorem untouched_sendAbort (s : State) (x : ExId) (cause : Nat) : untouched (sendAbort s x cause) = untouched s := by
  unfold sendAbort; split <;> simp

@[simp] theorem untouched_sendAborts (s : State) (n : Nat) : untouched (sendAborts s n) = untouched s := by simp [sendAborts]
@[simp] theorem untouched_rerunInline (s : State) (e : Exch) : untouched (rerunInline s e) = untouched s := by simp [rerunInline]

@[simp] theorem untouched_restartOn (s : State) (x : ExId) (k : Option Nat) : untouched (restartOn s x k) = untouched s := by
  unfold restartOn; dsimp only; (repeat' split) <;> simp

@[simp] theorem untouched_redrive (s : State) (lost : Option Nat) (x : ExId) : untouched (redrive s lost x) = untouched s := by
  unfold redrive; split
  · rfl
  · split
    · simp
    · split
      · split
        · next s1 k h => simp [untouched_fst h (untouched_choosePath ..)]
        · simp
      · split <;> simp

@[simp] theorem untouched_sendGone (s : State) (n : Nat) : untouched (sendGone s n) = untouched s := by
  unfold sendGone; dsimp only; split <;> simp

@[simp] theorem untouched_sendQuery (s : State) (g : Nat) : untouched (sendQuery s g) = untouched s := by
  unfold sendQuery; split <;> simp

@[simp] theorem untouched_requeue (s : State) (g n : Nat) : untouched (requeue s g n) = untouched s := by rfl

@[simp] theorem untouched_losePath (s : State) (n reason shown : Nat) : untouched (losePath s n reason shown) = untouched s := by
  unfold losePath; dsimp only; split <;> simp

@[simp] theorem untouched_farRestart (s : State) (g : Nat) : untouched (farRestart s g) = untouched s := by simp [farRestart]

@[simp] theorem untouched_wakeWaiters (s : State) (g : Nat) : untouched (wakeWaiters s g) = untouched s := by
  unfold wakeWaiters; dsimp only
  rw [untouched_promoteAll]
  refine untouched_foldl _ _ _ fun s x => ?_
  split
  · rfl
  · split
    · next s1 k h =>
      have h1 := untouched_fst h (untouched_choosePath ..)
      split <;> simp [h1]
    · rfl

@[simp] theorem untouched_goLive (s : State) (n g : Nat) : untouched (goLive s n g) = untouched s := by simp [goLive]

@[simp] theorem untouched_noteHello (s : State) (n : Nat) (src : BitVec 48) (b : HelloBody) :
    untouched (noteHello s n src b) = untouched s := by rfl

@[simp] theorem untouched_setIncarnation (s : State) (g : Nat) (inc : Nat) : untouched (setIncarnation s g inc) = untouched s := by
  simp [setIncarnation]

@[simp] theorem untouched_discard (s : State) (n : Nat) : untouched (discard s n) = untouched s := by rfl
@[simp] theorem untouched_authFailed (s : State) (n : Nat) : untouched (authFailed s n) = untouched s := by simp [authFailed]
@[simp] theorem untouched_noteEpoch (s : State) (g : Nat) (h : FrameHdr) : untouched (noteEpoch s g h) = untouched s := by rfl
@[simp] theorem untouched_acked (s : State) (n g ackSeq : Nat) : untouched (acked s n g ackSeq) = untouched s := by simp [acked]

@[simp] theorem untouched_admitFrame (s : State) (n ft : Nat) (h : FrameHdr) : untouched (admitFrame s n ft h).1 = untouched s := by
  unfold admitFrame; dsimp only; (repeat' split) <;> simp

@[simp] theorem untouched_inOrder (s : State) (n : Nat) (h : FrameHdr) : untouched (inOrder s n h).1 = untouched s := by
  unfold inOrder; dsimp only; (repeat' split) <;> simp

@[simp] theorem untouched_checkGap (s : State) (n : Nat) (h : FrameHdr) : untouched (checkGap s n h).1 = untouched s := by
  unfold checkGap; split <;> simp

@[simp] theorem untouched_pathHello (s : State) (n : Nat) (h : FrameHdr) (b : HelloBody) : untouched (pathHello s n h b) = untouched s := by
  unfold pathHello; dsimp only; split
  · split <;> simp
  · split
    · rfl
    · split
      · simp
      · split
        · split <;> simp
        · split
          · split <;> simp
          · split
            · split
              · simp
              · split <;> next s1 hg => simp [untouched_fst hg (untouched_checkGap ..)]
            · (repeat' split) <;> simp

/-- A frame that is not admitted ends where its admission left it. -/
theorem untouched_admitted {s : State} {f : State → Nat → State} (hf : ∀ t g, untouched (f t g) = untouched t) (p : State × Option Nat) :
    untouched p.1 = untouched s → untouched (match p with | (t, some g) => f t g | (t, none) => t) = untouched s :=
  match p with
  | (t, some g) => fun hp => (hf t g).trans hp
  | (_, none) => id

@[simp] theorem untouched_execPathGone (ch : ChanNo) (h : FrameHdr) (b : GoneBody) (s : State) :
    untouched (outcomeState s (execPathGone ch h b s)) = untouched s := by
  refine untouched_whenServing _ _ (untouched_admitted (fun t g => ?_) _ (untouched_admitFrame ..))
  split
  · next u hg =>
    have hu := untouched_fst hg (untouched_checkGap ..)
    split <;> simp [hu]
  · next u hg => exact untouched_fst hg (untouched_checkGap ..)

@[simp] theorem untouched_execNak (ch : ChanNo) (h : FrameHdr) (nakSeq : W32) (reason : Byte) (s : State) :
    untouched (outcomeState s (execNak ch h nakSeq reason s)) = untouched s := by
  refine untouched_whenServing _ _ (untouched_admitted (fun t g => ?_) _ (untouched_admitFrame ..))
  split <;> next u hg => simp [untouched_fst hg (untouched_checkGap ..)]

@[simp] theorem untouched_execRtoExpiry (ch : ChanNo) (s : State) : untouched (outcomeState s (execRtoExpiry ch s)) = untouched s := by
  unfold execRtoExpiry; dsimp only; split <;> simp

@[simp] theorem untouched_execPathHelloSend (ch : ChanNo) (s : State) : untouched (outcomeState s (execPathHelloSend ch s)) = untouched s := by
  unfold execPathHelloSend; dsimp only; split <;> simp

@[simp] theorem untouched_execPathSilence (ch : ChanNo) (s : State) : untouched (outcomeState s (execPathSilence ch s)) = untouched s := by
  unfold execPathSilence; split <;> simp

@[simp] theorem untouched_execRekeyTimeout (g : GroupNo) (s : State) : untouched (outcomeState s (execRekeyTimeout g s)) = untouched s := by
  unfold execRekeyTimeout; split <;> simp

@[simp] theorem untouched_execOldKeyErase (g : GroupNo) (s : State) : untouched (outcomeState s (execOldKeyErase g s)) = untouched s := by
  unfold execOldKeyErase; split <;> simp

@[simp] theorem untouched_rekeySwitch (s : State) (g : Nat) : untouched (rekeySwitch s g) = untouched s := by
  unfold rekeySwitch; dsimp only; (repeat' split) <;> simp

@[simp] theorem untouched_noteCompletion (s : State) (n t : Nat) : untouched (noteCompletion s n t) = untouched s := by rfl

@[simp] theorem untouched_demotionPath (s : State) (g m : Nat) (only : Bool) (n : Nat) :
    untouched (demotionPath s g m only n) = untouched s := by
  simp [demotionPath]

@[simp] theorem untouched_demotionCheck (s : State) (g : Nat) : untouched (demotionCheck s g) = untouched s := by
  unfold demotionCheck; dsimp only; split <;> simp

@[simp] theorem untouched_pathsEdge (s : State) : untouched (pathsEdge s) = untouched s := by simp [pathsEdge]

end Sys2Proof.Machine
end

section
/-! SUPPORT. Untouched by rings, exchanges and engine queues. -/

namespace Sys2Proof.Machine

@[simp] theorem untouched_raiseRing (s : State) (key cause : Nat) : untouched (raiseRing s key cause) = untouched s := by simp [raiseRing]

@[simp] theorem untouched_raiseQueue (s : State) (key cause : Nat) : untouched (raiseQueue s key cause) = untouched s := by
  simp [raiseQueue]

@[simp] theorem untouched_modCounters (s : State) (key : Nat) (f : Ring → Ring) : untouched (modCounters s key f) = untouched s := by
  simp [modCounters]

@[simp] theorem untouched_sqTailWrite (s : State) (key : Nat) (v : W64) : untouched (sqTailWrite s key v) = untouched s := by
  simp [sqTailWrite]

@[simp] theorem untouched_cqHeadWrite (s : State) (key : Nat) (v : W64) : untouched (cqHeadWrite s key v) = untouched s := by
  simp [cqHeadWrite]

@[simp] theorem untouched_doorbell (s : State) (sl r : Nat) (f : State → Nat → State) (hf : ∀ k, untouched (f s k) = untouched s) :
    untouched (doorbell s sl r f) = untouched s := by
  unfold doorbell; split
  · exact hf _
  · split <;> simp

@[simp] theorem untouched_sqWmClear (s : State) (key : Nat) (v : W64) : untouched (sqWmClear s key v) = untouched s := by rfl
@[simp] theorem untouched_cqWmClear (s : State) (key : Nat) (v : W64) : untouched (cqWmClear s key v) = untouched s := by rfl
@[simp] theorem untouched_eqWmClear (s : State) (key : Nat) (v : W64) : untouched (eqWmClear s key v) = untouched s := by rfl

@[simp] theorem untouched_execWmStatusClear (sl : SliceNo) (r : PairNo) (w : WhichWm) (v : W64) (s : State) :
    untouched (outcomeState s (execWmStatusClear sl r w v s)) = untouched s := by
  unfold execWmStatusClear; split <;> simp

@[simp] theorem untouched_ringStatusClear (s : State) (key : Nat) (v : W64) : untouched (ringStatusClear s key v) = untouched s := by rfl
@[simp] theorem untouched_fetchFault (s : State) (key : Nat) : untouched (fetchFault s key) = untouched s := by simp [fetchFault]

@[simp] theorem untouched_readSlot (s : State) (die sl base k c : Nat) : untouched (readSlot s die sl base k c).1 = untouched s := by
  unfold readSlot; dsimp only; split <;> next s1 _ h => exact untouched_fst h (untouched_ioReadV ..)

@[simp] theorem untouched_readSlots (die sl base k n : Nat) (s : State) (c : W32) (acc : List (List Byte)) :
    untouched (readSlots die sl base k n s c acc).1 = untouched s := by
  induction n generalizing s c acc with
  | zero => rfl
  | succ n ih =>
    unfold readSlots; split
    · next s1 h => exact untouched_fst h (untouched_readSlot ..)
    · next s1 bs h => rw [ih, untouched_fst h (untouched_readSlot ..)]

@[simp] theorem untouched_allocate (s : State) (sl : SliceNo) (pr : PairNo) (c : W32) (ds : List (List Byte)) :
    untouched (allocate s sl pr c ds) = untouched s := by
  unfold allocate; dsimp only; (repeat' split) <;> simp

@[simp] theorem untouched_noteStall (s : State) (key : Nat) (table : Bool) : untouched (noteStall s key table) = untouched s := by rfl

@[simp] theorem untouched_descriptorFetch (s : State) (sl : SliceNo) (pr : PairNo) : untouched (descriptorFetch s sl pr) = untouched s := by
  unfold descriptorFetch; extract_lets; split
  · rfl
  · split
    · next s1 h => simp [untouched_fst h (untouched_readSlot ..)]
    · next s1 hd h =>
      have h1 := untouched_fst h (untouched_readSlot ..)
      extract_lets n members; split
      · rfl
      · split
        · simp
        · split
          · next s2 h2 => simp [untouched_fst h2 (untouched_readSlots ..), h1]
          · next s2 ms h2 =>
            have h3 := (untouched_fst h2 (untouched_readSlots ..)).trans h1
            dsimp only; split <;> simp [h3]

@[simp] theorem untouched_readSgl (s : State) (e : Exch) : untouched (readSgl s e).1 = untouched s := by
  unfold readSgl; split
  · rfl
  · split
    · next s1 _ h => exact untouched_fst h (untouched_ioReadV ..)
    · next s1 bs h => split <;> exact untouched_fst h (untouched_ioReadV ..)

@[simp] theorem untouched_readInline (s : State) (e : Exch) : untouched (readInline s e) = untouched s := by
  unfold readInline; dsimp only; split
  · next s1 x h => simp [untouched_fst h (untouched_ioReadV ..)]
  · next s1 bs h =>
    have h1 := untouched_fst h (untouched_ioReadV ..)
    split <;> simp [h1]

@[simp] theorem untouched_acceptOne (s : State) (x : ExId) : untouched (acceptOne s x) = untouched s := by
  unfold acceptOne; split
  · rfl
  · dsimp only; split
    · split <;> simp
    · split
      · simp
      · split
        · split <;> simp
        · split <;> simp

@[simp] theorem untouched_cancelActs (s : State) (x : ExId) : untouched (cancelActs s x) = untouched s := by
  unfold cancelActs; dsimp only; (repeat' split) <;> simp

@[simp] theorem untouched_chainDone (s : State) (h : ExId) : untouched (chainDone s h) = untouched s := by
  unfold chainDone; (repeat' split) <;> simp

@[simp] theorem untouched_accept (s : State) (x : ExId) : untouched (accept s x) = untouched s := by
  unfold accept; split
  · rfl
  · split <;> simp

@[simp] theorem untouched_execRow (x : ExId) (op : Nat) (s : State) : untouched (execRow x op s) = untouched s := by
  unfold execRow; split <;> simp

@[simp] theorem untouched_execMirrorConfirm (x : ExId) (s : State) : untouched (outcomeState s (execMirrorConfirm x s)) = untouched s := by
  unfold execMirrorConfirm; rw [outcomeState_next]
  refine untouched_whenServing _ _ ?_
  split
  · rfl
  · dsimp only; split
    · split <;> simp
    · simp

@[simp] theorem untouched_sglRead (d sl : Nat) (s : State) (l : List (Nat × Nat)) (acc : List Byte) :
    untouched (sglRead d sl s l acc).1 = untouched s := by
  induction l generalizing s acc with
  | nil => rfl
  | cons p l ih =>
    unfold sglRead; split
    · next s1 e h => exact untouched_fst h (untouched_ioReadV ..)
    · next s1 bs h =>
      have h1 := untouched_fst h (untouched_ioReadV ..)
      split <;> simp [ih, h1]

@[simp] theorem untouched_sglWrite (d sl : Nat) (alloc : Bool) (s : State) (l : List (Nat × Nat)) (bs : List Byte) :
    untouched (sglWrite d sl alloc s l bs).1 = untouched s := by
  induction l generalizing s bs with
  | nil => rfl
  | cons p l ih =>
    unfold sglWrite; split
    · next s1 e h => exact untouched_fst h (untouched_ioWriteV ..)
    · next s1 h => rw [ih, untouched_fst h (untouched_ioWriteV ..)]

@[simp] theorem untouched_openExch (s : State) (x : ExId) : untouched (openExch s x) = untouched s := by
  unfold openExch; dsimp only; (repeat' split) <;> simp

@[simp] theorem untouched_dpError (s : State) (x : ExId) (code : Nat) : untouched (dpError s x code) = untouched s := by
  unfold dpError; split <;> simp

@[simp] theorem untouched_wireBytes (s : State) (e : Exch) (off n : Nat) : untouched (wireBytes s e off n).1 = untouched s := by
  unfold wireBytes; split
  · simp
  · split
    · rfl
    · split
      · next s1 r h => exact untouched_fst h (untouched_sglRead ..)
      · next s1 inp h =>
        have h1 := untouched_fst h (untouched_sglRead ..)
        dsimp only; split <;> simp [h1]

@[simp] theorem untouched_dataSend (s : State) (x : ExId) : untouched (dataSend s x) = untouched s := by
  unfold dataSend; split
  · rfl
  · split
    · rfl
    · dsimp only; split
      · rfl
      · split
        · next s1 r h =>
          have h1 := untouched_fst h (untouched_wireBytes ..)
          split <;> simp [h1]
        · next s1 bs h => simp [untouched_fst h (untouched_wireBytes ..)]

@[simp] theorem untouched_stagingEnd (s : State) (x : ExId) : untouched (stagingEnd s x) = untouched s := by
  unfold stagingEnd; split
  · dsimp only; split
    · rfl
    · split
      · next s1 r h => simp [untouched_fst h (untouched_sglRead ..)]
      · next s1 inp h =>
        have h1 := untouched_fst h (untouched_sglRead ..)
        split
        · simp [h1]
        · split
          · simp [h1]
          · split <;> next s2 h2 => simp [untouched_fst h2 (untouched_ioWriteV ..), h1]
  · rfl

@[simp] theorem untouched_exFrame (s : State) (n ft : Nat) (h : FrameHdr) (f : State → Exch → State)
    (hf : ∀ t e, untouched (f t e) = untouched t) : untouched (exFrame s n ft h f) = untouched s := by
  unfold exFrame; split
  · next s1 ha => exact untouched_fst ha (untouched_admitFrame ..)
  · next s1 g ha =>
    have h1 := untouched_fst ha (untouched_admitFrame ..)
    split
    · next s2 ho => exact (untouched_fst ho (untouched_inOrder ..)).trans h1
    · next s2 ho =>
      have h2 := (untouched_fst ho (untouched_inOrder ..)).trans h1
      split <;> simp [hf, h2]

@[simp] theorem untouched_takeData (s : State) (e : Exch) (b : DataBody) (last : Bool) : untouched (takeData s e b last) = untouched s := by
  unfold takeData; split
  · simp
  · split
    · rfl
    · dsimp only; split
      · simp
      · split
        · simp
        · split <;> next s1 h => simp [untouched_fst h (untouched_sglWrite ..)]

@[simp] theorem untouched_expressEarly (s : State) (n : Nat) (h : FrameHdr) (b : DataBody) :
    untouched (expressEarly s n h b) = untouched s := by
  unfold expressEarly; dsimp only; (repeat' split) <;> simp

@[simp] theorem untouched_execDataFrame (ch : ChanNo) (h : FrameHdr) (b : DataBody) (s : State) :
    untouched (outcomeState s (execDataFrame ch h b s)) = untouched s := by
  refine untouched_whenServing _ _ ?_
  rw [← untouched_expressEarly s ch h b]
  dsimp only; split
  · refine untouched_admitted (fun t g => ?_) _ (untouched_admitFrame ..)
    split <;> simp
  · simp

@[simp] theorem untouched_takeDisposition (s : State) (e : Exch) (disposition : Byte) :
    untouched (takeDisposition s e disposition) = untouched s := by
  unfold takeDisposition; split <;> simp

@[simp] theorem untouched_execAck (ch : ChanNo) (h : FrameHdr) (disposition : Byte) (s : State) :
    untouched (outcomeState s (execAck ch h disposition s)) = untouched s := by
  refine untouched_whenServing _ _ ?_
  split
  · exact untouched_admitted (fun _ _ => untouched_checkGap ..) _ (untouched_admitFrame ..)
  · simp

@[simp] theorem untouched_finishInlineRead (s : State) (e : Exch) (r : ExRes) : untouched (finishInlineRead s e r).1 = untouched s := by
  unfold finishInlineRead; split
  · rfl
  · split
    · rfl
    · extract_lets; split
      · rfl
      · extract_lets; split
        · rfl
        · split
          · rfl
          · split <;> next s1 _ h => simp [untouched_fst h (untouched_sglWrite ..)]

@[simp] theorem untouched_takeComplete (s : State) (n : Nat) (e : Exch) (b : CompleteBody) :
    untouched (takeComplete s n e b) = untouched s := by
  simp [takeComplete]

@[simp] theorem untouched_execNoPathWaitExpiry (x : ExId) (s : State) :
    untouched (outcomeState s (execNoPathWaitExpiry x s)) = untouched s := by
  unfold execNoPathWaitExpiry; split <;> simp

@[simp] theorem untouched_execExchangeTimeout (x : ExId) (s : State) : untouched (outcomeState s (execExchangeTimeout x s)) = untouched s := by
  unfold execExchangeTimeout; (repeat' split) <;> simp

@[simp] theorem untouched_execAbortWaitExpiry (x : ExId) (s : State) : untouched (outcomeState s (execAbortWaitExpiry x s)) = untouched s := by
  unfold execAbortWaitExpiry; (repeat' split) <;> simp

@[simp] theorem untouched_endInline (s : State) (e : Exch) (r : ExRes) : untouched (endInline s e r) = untouched s := by
  unfold endInline; (repeat' split) <;> simp

@[simp] theorem untouched_execExchangeLogged (x : ExId) (s : State) : untouched (outcomeState s (execExchangeLogged x s)) = untouched s := by
  unfold execExchangeLogged; (repeat' split) <;> simp

@[simp] theorem untouched_recordLost (s : State) (key : Nat) : untouched (recordLost s key) = untouched s := by simp [recordLost]

@[simp] theorem untouched_writeRecord (s : State) (x : ExId) (count : W32) (bs : List Byte) :
    untouched (writeRecord s x count bs).1 = untouched s := by
  unfold writeRecord; dsimp only; split <;> next s1 h => exact untouched_fst h (untouched_ioWriteV ..)

@[simp] theorem untouched_compose (s : State) (x : ExId) : untouched (compose s x) = untouched s := by
  unfold compose; (repeat' split) <;> simp

@[simp] theorem untouched_execRecordComposed (x : ExId) (s : State) : untouched (outcomeState s (execRecordComposed x s)) = untouched s := by
  unfold execRecordComposed; split <;> simp

@[simp] theorem untouched_raiseCompletion (s : State) (key : Nat) : untouched (raiseCompletion s key) = untouched s := by
  simp [raiseCompletion]

@[simp] theorem untouched_settleCancel (s : State) (e : Exch) : untouched (settleCancel s e) = untouched s := by
  unfold settleCancel; (repeat' split) <;> simp

@[simp] theorem untouched_execRecordPosted (x : ExId) (s : State) : untouched (outcomeState s (execRecordPosted x s)) = untouched s := by
  unfold execRecordPosted; (repeat' split) <;> simp

@[simp] theorem untouched_startSliceReset (s : State) (sl : Nat) : untouched (startSliceReset s sl) = untouched s := by
  simp [startSliceReset]

@[simp] theorem untouched_finishJob (s : State) (j : Job) (parts : List (Nat × List Byte)) (word : Nat) :
    untouched (finishJob s j parts word) = untouched s := by
  unfold finishJob; dsimp only; (repeat' split) <;> simp

@[simp] theorem untouched_abortJob (s : State) (j : Job) : untouched (abortJob s j) = untouched s := by simp [abortJob]
@[simp] theorem untouched_drainEnd (s : State) (sl : Nat) : untouched (drainEnd s sl) = untouched s := by simp [drainEnd]

@[simp] theorem untouched_takeOver (s : State) (partner : Nat) (x : ExId) : untouched (takeOver s partner x) = untouched s := by
  unfold takeOver; split
  · rfl
  · dsimp only; split
    · split
      · split
        · split <;> next s3 h => simp [untouched_fst h (untouched_writeRecord ..)]
        · simp
      · simp
    · (repeat' split) <;> simp

@[simp] theorem untouched_takeOverJobs (s : State) (lost partner : Nat) : untouched (takeOverJobs s lost partner) = untouched s := by
  simp [takeOverJobs]

@[simp] theorem untouched_takeover (s : State) (d : Nat) : untouched (takeover s d) = untouched s := by simp [takeover]
@[simp] theorem untouched_pairLoss (s : State) (pr : Nat) : untouched (pairLoss s pr) = untouched s := by simp [pairLoss]

@[simp] theorem untouched_modEqCounters (s : State) (key : Nat) (f : EqQueue → EqQueue) :
    untouched (modEqCounters s key f) = untouched s := by
  simp [modEqCounters]

@[simp] theorem untouched_eqTailWrite (s : State) (key : Nat) (v : W64) : untouched (eqTailWrite s key v) = untouched s := by
  simp [eqTailWrite]

@[simp] theorem untouched_eqDoorbell (s : State) (sl r : Nat) (f : State → Nat → State) (hf : ∀ k, untouched (f s k) = untouched s) :
    untouched (eqDoorbell s sl r f) = untouched s := by
  unfold eqDoorbell; split
  · exact hf _
  · split <;> simp

@[simp] theorem untouched_eqStatusClear (s : State) (key : Nat) (v : W64) : untouched (eqStatusClear s key v) = untouched s := by rfl
@[simp] theorem untouched_queueFault (s : State) (key : Nat) : untouched (queueFault s key) = untouched s := by simp [queueFault]

@[simp] theorem untouched_jobFetch (s : State) (sl : SliceNo) (r : PairNo) : untouched (jobFetch s sl r) = untouched s := by
  unfold jobFetch; dsimp only; split
  · rfl
  · split
    · next s1 h => simp [untouched_fst h (untouched_readSlot ..)]
    · next s1 bs h =>
      have h1 := untouched_fst h (untouched_readSlot ..)
      split <;> next s2 _ h2 => simp [untouched_fst h2 (untouched_ioTranslate ..), h1]

@[simp] theorem untouched_jobAccept (s : State) (sl : SliceNo) (r : PairNo) : untouched (jobAccept s sl r) = untouched s := by
  unfold jobAccept; dsimp only; split <;> simp

@[simp] theorem untouched_writeStatus (s : State) (j : Job) (w : Nat) : untouched (writeStatus s j w) = untouched s := by
  unfold writeStatus; split
  · next s1 h => exact untouched_fst h (untouched_ioWriteV ..)
  · next s1 _ h =>
    have h1 := untouched_fst h (untouched_ioWriteV ..)
    split <;> simp [h1]

@[simp] theorem untouched_jobStart (s : State) (x : JobId) : untouched (jobStart s x) = untouched s := by
  unfold jobStart; dsimp only; (repeat' split) <;> simp

@[simp] theorem untouched_jobProgress (s : State) (o : ProgressObs) : untouched (jobProgress s o) = untouched s := by
  unfold jobProgress; split
  · rfl
  · dsimp only; split
    · rfl
    · split
      · rfl
      · split
        · next s2 _ h => simp [untouched_fst h (untouched_ioWriteV ..)]
        · next s2 h =>
          have h1 := untouched_fst h (untouched_ioWriteV ..)
          split <;> simp [h1]

@[simp] theorem untouched_jobFinal (s : State) (x : JobId) : untouched (jobFinal s x) = untouched s := by
  unfold jobFinal; split <;> simp

@[simp] theorem untouched_jobEnd (s : State) (x : JobId) : untouched (jobEnd s x) = untouched s := by
  unfold jobEnd; split <;> simp

@[simp] theorem untouched_selfCheckFail (s : State) (x : JobId) (stage : Nat) : untouched (selfCheckFail s x stage) = untouched s := by
  unfold selfCheckFail; (repeat' split) <;> simp

@[simp] theorem untouched_fenceEngine (s : State) (e : Nat) : untouched (fenceEngine s e) = untouched s := by rfl
@[simp] theorem untouched_markBusy (s : State) : untouched (markBusy s) = untouched s := by simp [markBusy]
@[simp] theorem untouched_abortQueue (s : State) (sl r : Nat) : untouched (abortQueue s sl r) = untouched s := by simp [abortQueue]

end Sys2Proof.Machine
end

section
/-! SUPPORT. Untouched by trios and spares. -/

namespace Sys2Proof.Machine

@[simp] theorem untouched_setSafeCause (s : State) (cause point : Nat) : untouched (setSafeCause s cause point) = untouched s := by
  simp [setSafeCause]

@[simp] theorem untouched_setCore (s : State) (n : Nat) (x : CoreStat) : untouched (setCore s n x) = untouched s := by rfl
@[simp] theorem untouched_setClk (s : State) (k : Nat) (x : CoreClk) : untouched (setClk s k x) = untouched s := by rfl
@[simp] theorem untouched_stopClk (s : State) (k : Nat) : untouched (stopClk s k) = untouched s := by simp [stopClk]
@[simp] theorem untouched_powerSpare (s : State) (k : Nat) : untouched (powerSpare s k) = untouched s := by simp [powerSpare]
@[simp] theorem untouched_tuneSpare (s : State) (k n : Nat) : untouched (tuneSpare s k n) = untouched s := by simp [tuneSpare]
@[simp] theorem untouched_joinClk (s : State) (k n : Nat) : untouched (joinClk s k n) = untouched s := by simp [joinClk]

@[simp] theorem untouched_trioNotice (s : State) (n cause : Nat) : untouched (trioNotice s n cause) = untouched s := by
  unfold trioNotice; split <;> simp

@[simp] theorem untouched_retireAt (s : State) (n p : Nat) : untouched (retireAt s n p) = untouched s := by
  unfold retireAt; split <;> simp

@[simp] theorem untouched_integrateAt (s : State) (n p k : Nat) : untouched (integrateAt s n p k) = untouched s := by simp [integrateAt]

@[simp] theorem untouched_dissent (s : State) (n p lane : Nat) (parity : Bool) : untouched (dissent s n p lane parity) = untouched s := by
  unfold dissent; dsimp only; split <;> simp

@[simp] theorem untouched_pendMc (s : State) (c cause : Nat) : untouched (pendMc s c cause) = untouched s := by rfl

@[simp] theorem untouched_abandonRebuild (s : State) (n : Nat) (r : Rebuild) : untouched (abandonRebuild s n r) = untouched s := by
  unfold abandonRebuild; (repeat' split) <;> simp

@[simp] theorem untouched_abandonWait (s : State) (c : Nat) : untouched (abandonWait s c) = untouched s := by simp [abandonWait]
@[simp] theorem untouched_checkstop (s : State) (n : Nat) : untouched (checkstop s n) = untouched s := by simp [checkstop]
@[simp] theorem untouched_noMajority (s : State) (n : Nat) : untouched (noMajority s n) = untouched s := by simp [noMajority]
@[simp] theorem untouched_splitError (s : State) (c : Nat) : untouched (splitError s c) = untouched s := by simp [splitError]

@[simp] theorem untouched_execL1ParityError (core : CoreNo) (s : State) :
    untouched (outcomeState s (execL1ParityError core s)) = untouched s := by
  unfold execL1ParityError; split <;> simp

@[simp] theorem untouched_arrayReport (s : State) (core arr occasion : Nat) :
    untouched (arrayReport s core arr occasion) = untouched s := by
  simp [arrayReport]

@[simp] theorem untouched_ckFail (s : State) (n p : Nat) (f : Option (BitVec 4)) : untouched (ckFail s n p f) = untouched s := by
  unfold ckFail; dsimp only; split <;> simp

@[simp] theorem untouched_execCheckstopRecoveryPip (t : TrioNo) (o : CheckObs) (s : State) :
    untouched (outcomeState s (execCheckstopRecoveryPip t o s)) = untouched s := by
  unfold execCheckstopRecoveryPip; dsimp only; split <;> simp

@[simp] theorem untouched_loseLCore (s : State) (c : Nat) : untouched (loseLCore s c) = untouched s := by
  unfold loseLCore; split <;> simp

@[simp] theorem untouched_deliverReplay (s : State) (c : Nat) : untouched (deliverReplay s c) = untouched s := by
  unfold deliverReplay; (repeat' split) <;> simp

@[simp] theorem untouched_enterMc (s : State) (c : Nat) : untouched (enterMc s c) = untouched s := by simp [enterMc]
@[simp] theorem untouched_resumeCore (s : State) (c : Nat) : untouched (resumeCore s c) = untouched s := by simp [resumeCore]

@[simp] theorem untouched_execCheckstopResume (t : TrioNo) (s : State) :
    untouched (outcomeState s (execCheckstopResume t s)) = untouched s := by
  unfold execCheckstopResume; dsimp only; (repeat' split) <;> simp

@[simp] theorem untouched_splitFence (s : State) : untouched (splitFence s) = untouched s := by simp [splitFence]

@[simp] theorem untouched_execSplitCoreResume (c : LC) (arrayFail : Option (BitVec 4)) (shadowOk : Bool) (s : State) :
    untouched (outcomeState s (execSplitCoreResume c arrayFail shadowOk s)) = untouched s := by
  unfold execSplitCoreResume; dsimp only; (repeat' split) <;> simp

@[simp] theorem untouched_putRebuild (s : State) (n : Nat) (r : Rebuild) : untouched (putRebuild s n r) = untouched s := by rfl
@[simp] theorem untouched_poolEmpty (s : State) (n p : Nat) : untouched (poolEmpty s n p) = untouched s := by simp [poolEmpty]

@[simp] theorem untouched_rebuildStep1 (s : State) (n : Nat) (r : Rebuild) : untouched (rebuildStep1 s n r) = untouched s := by
  unfold rebuildStep1; (repeat' split) <;> simp

@[simp] theorem untouched_lockstepEntry (s : State) (n : Nat) (r : Rebuild) : untouched (lockstepEntry s n r) = untouched s := by
  unfold lockstepEntry; dsimp only; (repeat' split) <;> simp

@[simp] theorem untouched_onSpare (s : State) (r : Rebuild) (f : State → Nat → State) (hf : ∀ k, untouched (f s k) = untouched s) :
    untouched (onSpare s r f) = untouched s := by
  unfold onSpare; split
  · exact hf _
  · rfl

@[simp] theorem untouched_rebuildStep (s : State) (n : Nat) (r : Rebuild) (arrayFail : Option (BitVec 4)) (mismatches : Nat) :
    untouched (rebuildStep s n r arrayFail mismatches) = untouched s := by
  unfold rebuildStep; dsimp only; (repeat' split) <;> simp

@[simp] theorem untouched_rebuildMissed (s : State) : untouched (rebuildMissed s) = untouched s := by simp [rebuildMissed]

@[simp] theorem untouched_rebuildPip (s : State) (obs : List RebuildObs) : untouched (rebuildPip s obs) = untouched s := by
  refine untouched_foldl _ _ _ fun s x => ?_
  dsimp only; split <;> simp

@[simp] theorem untouched_execRebuildLimit (t : TrioNo) (p : Pos) (s : State) :
    untouched (outcomeState s (execRebuildLimit t p s)) = untouched s := by
  unfold execRebuildLimit; (repeat' split) <;> simp

@[simp] theorem untouched_retireCore (s : State) (k : Nat) : untouched (retireCore s k) = untouched s := by
  unfold retireCore; split <;> simp

@[simp] theorem untouched_restartRebuilds (s : State) : untouched (restartRebuilds s) = untouched s := by rfl

end Sys2Proof.Machine
end

section
/-! SUPPORT. Untouched by partitions, units, memory and links. -/

namespace Sys2Proof.Machine

@[simp] theorem untouched_countDropped (s : State) (base size : Nat) : untouched (countDropped s base size) = untouched s := by rfl
@[simp] theorem untouched_zeroFill (s0 : State) (base size : Nat) : untouched (zeroFill s0 base size) = untouched s0 := by simp [zeroFill]
@[simp] theorem untouched_emptyCore (s : State) (c : Nat) : untouched (emptyCore s c) = untouched s := by simp [emptyCore]
@[simp] theorem untouched_startCore (s : State) (c p : Nat) : untouched (startCore s c p) = untouched s := by simp [startCore]
@[simp] theorem untouched_holdCores (s : State) (p : Nat) : untouched (holdCores s p) = untouched s := by simp [holdCores]

@[simp] theorem untouched_holdSlices (s : State) (p : Nat) (on : Bool) : untouched (holdSlices s p on) = untouched s := by
  simp [holdSlices]

@[simp] theorem untouched_moveHome (s : State) (p h : Nat) : untouched ((moveHome s p h).getD s) = untouched s := by
  unfold moveHome; split
  · rfl
  · split <;> simp

@[simp] theorem untouched_resetMailboxes (s : State) (p : Nat) : untouched (resetMailboxes s p) = untouched s := by simp [resetMailboxes]

@[simp] theorem untouched_beginReset (s : State) (p : Nat) (after : PartState) : untouched (beginReset s p after) = untouched s := by
  simp [beginReset]

@[simp] theorem untouched_beginRestart (s : State) (p : Nat) : untouched (beginRestart s p) = untouched s := by simp [beginRestart]
@[simp] theorem untouched_startPart (s : State) (p : Nat) : untouched (startPart s p) = untouched s := by simp [startPart]

@[simp] theorem untouched_endReset (s : State) (p : Nat) : untouched (endReset s p) = untouched s := by
  unfold endReset; split <;> simp

@[simp] theorem untouched_partProgress (s : State) : untouched (partProgress s) = untouched s := by simp [partProgress]
@[simp] theorem untouched_stopOrphans (s : State) : untouched (stopOrphans s) = untouched s := by simp [stopOrphans]
@[simp] theorem untouched_holdPart (s : State) (p : Nat) : untouched (holdPart s p) = untouched s := by simp [holdPart]

@[simp] theorem untouched_evaluate (s : State) (p free : Nat) : untouched (evaluate s p free) = untouched s := by
  unfold evaluate; dsimp only; split
  · split
    · next s2 h => simp [untouched_some h (untouched_moveHome ..)]
    · simp
  · simp

@[simp] theorem untouched_declareDead (s : State) (h : Nat) (cause : BitVec 2) : untouched (declareDead s h cause) = untouched s := by
  simp [declareDead]

@[simp] theorem untouched_cutHomes (gone : Nat → Nat → Bool) (forget : Bool) (s : State) :
    untouched (cutHomes gone forget s) = untouched s := by
  simp [cutHomes]

@[simp] theorem untouched_placeHull (s : State) (h : Nat) : untouched (placeHull s h) = untouched s := by
  unfold placeHull; split <;> simp

@[simp] theorem untouched_removeHull (s : State) (h : Nat) : untouched (removeHull s h) = untouched s := by simp [removeHull]
@[simp] theorem untouched_fenceStack (s : State) (j why : Nat) : untouched (fenceStack s j why) = untouched s := by simp [fenceStack]

@[simp] theorem untouched_enterSafe (s : State) (cause point reason : Nat) :
    untouched (enterSafe s cause point reason) = untouched s := by
  simp [enterSafe]

@[simp] theorem untouched_dropHalf (s : State) (h : Nat) : untouched (dropHalf s h) = untouched s := by simp [dropHalf]
@[simp] theorem untouched_stopPartsOf (s : State) (h : Nat) : untouched (stopPartsOf s h) = untouched s := by simp [stopPartsOf]
@[simp] theorem untouched_loseDie (s : State) (d : Nat) : untouched (loseDie s d) = untouched s := by simp [loseDie]
@[simp] theorem untouched_bootCores (s : State) (n : Nat) : untouched (bootCores s n) = untouched s := by simp [bootCores]

@[simp] theorem untouched_bootMember (s : State) (n p : Nat) : untouched (bootMember s n p).1 = untouched s := by
  unfold bootMember; (repeat' split) <;> simp

@[simp] theorem untouched_bootTrio (s : State) (n : Nat) : untouched (bootTrio s n) = untouched s := by
  unfold bootTrio; dsimp only; (repeat' split) <;> simp

@[simp] theorem untouched_bootHalf (s : State) (h : Nat) : untouched (bootHalf s h) = untouched s := by simp [bootHalf]
@[simp] theorem untouched_d2dFlag (s : State) : untouched (d2dFlag s) = untouched s := by rfl
@[simp] theorem untouched_rejoinHalf (s : State) (h : Nat) : untouched (rejoinHalf s h) = untouched s := by simp [rejoinHalf]
@[simp] theorem untouched_rejoinIo (s : State) (d : Nat) : untouched (rejoinIo s d) = untouched s := by rfl
@[simp] theorem untouched_returnDie (s : State) (d : Nat) : untouched (returnDie s d) = untouched s := by simp [returnDie]
@[simp] theorem untouched_dropCross (s : State) : untouched (dropCross s) = untouched s := by simp [dropCross]
@[simp] theorem untouched_rejoinHalves (s : State) : untouched (rejoinHalves s) = untouched s := by simp [rejoinHalves]
@[simp] theorem untouched_enterSplit (s : State) : untouched (enterSplit s) = untouched s := by simp [enterSplit]

@[simp] theorem untouched_lineCorrected (s : State) (pa : Nat) : untouched (lineCorrected s pa) = untouched s := by
  unfold lineCorrected; split <;> simp

@[simp] theorem untouched_linePoisoned (s : State) (pa : Nat) : untouched (linePoisoned s pa) = untouched s := by
  unfold linePoisoned; split <;> simp

@[simp] theorem untouched_execHbmCaParityError (pa : PAddr) (persists : Bool) (s : State) :
    untouched (outcomeState s (execHbmCaParityError pa persists s)) = untouched s := by
  unfold execHbmCaParityError; split <;> simp

@[simp] theorem untouched_forAddrs (s : State) (l : List (Option Nat)) (f : State → Nat → State)
    (hf : ∀ t k, untouched (f t k) = untouched t) : untouched (forAddrs s l f) = untouched s := by
  refine untouched_foldl _ _ _ fun s a => ?_
  split
  · exact hf ..
  · rfl

@[simp] theorem untouched_stackObserved (s : State) (o : StackObs) : untouched (stackObserved s o) = untouched s := by rfl

@[simp] theorem untouched_linksChanged (s : State) (l : LinkId) : untouched (linksChanged s l) = untouched s := by
  unfold linksChanged; split <;> simp

@[simp] theorem untouched_resendFirst (s : State) (i : Nat) : untouched (resendFirst s i) = untouched s := by simp [resendFirst]

@[simp] theorem untouched_linkDown (s : State) (l : LinkId) (detail : Nat) : untouched (linkDown s l detail) = untouched s := by
  unfold linkDown; split <;> simp

@[simp] theorem untouched_retrainFailed (s : State) (l : LinkId) : untouched (retrainFailed s l) = untouched s := by simp [retrainFailed]

@[simp] theorem untouched_execLinkTrainingEnd (l : LinkId) (ok : Bool) (s : State) :
    untouched (outcomeState s (execLinkTrainingEnd l ok s)) = untouched s := by
  unfold execLinkTrainingEnd; dsimp only; (repeat' split) <;> simp

@[simp] theorem untouched_linksEdge (s : State) : untouched (linksEdge s) = untouched s := by simp [linksEdge]
@[simp] theorem untouched_setWake (s : State) (d : Domain) (w : Wake) : untouched (setWake s d w) = untouched s := by rfl
@[simp] theorem untouched_domainWake (s : State) (d : Domain) : untouched (domainWake s d) = untouched s := by simp [domainWake]
@[simp] theorem untouched_unparkTrio (s : State) (n : Nat) : untouched (unparkTrio s n) = untouched s := by simp [unparkTrio]
@[simp] theorem untouched_stackRequests (s : State) (j : Nat) : untouched (stackRequests s j) = untouched s := by simp [stackRequests]

@[simp] theorem untouched_domainAwake (s : State) (d : Domain) : untouched (domainAwake s d) = untouched s := by
  unfold domainAwake; split <;> simp

@[simp] theorem untouched_execDomainWakeDone (d : Domain) (s : State) : untouched (outcomeState s (execDomainWakeDone d s)) = untouched s := by
  unfold execDomainWakeDone; split <;> simp

@[simp] theorem untouched_execWakeOverrun (d : Domain) (s : State) : untouched (outcomeState s (execWakeOverrun d s)) = untouched s := by
  unfold execWakeOverrun; split <;> simp

@[simp] theorem untouched_stopHalf (s : State) (h : Nat) : untouched (stopHalf s h) = untouched s := by simp [stopHalf]

end Sys2Proof.Machine
end

section
/-! SUPPORT. Untouched by the requests of command packets. -/

namespace Sys2Proof.Machine

@[simp] theorem untouched_postReply (s : State) (opcode : Nat) (q : Request) (status progress : Nat) (result : List Byte)
    (delay : Nat) (keep : Bool) : untouched (postReply s opcode q status progress result delay keep) = untouched s := by
  simp [postReply]

@[simp] theorem untouched_reply (s : State) (opcode : Nat) (q : Request) (status progress : Nat) (result : List Byte) :
    untouched (reply s opcode q status progress result) = untouched s := by
  simp [reply]

@[simp] theorem untouched_countIgnored (s : State) : untouched (countIgnored s) = untouched s := by rfl

@[simp] theorem untouched_startOp (s : State) (opcode : Nat) (q : Request) (k : LongKind) :
    untouched (startOp s opcode q k) = untouched s := by
  simp [startOp]

@[simp] theorem untouched_dropFinished (s : State) (q : Request) : untouched (dropFinished s q) = untouched s := by rfl

theorem untouched_serveOpen (s : State) (opcode : Nat) (q : Request) (h : Handler) (hh : LeavesUntouched h) :
    untouched (serveOpen s opcode q h) = untouched s := by
  have hq := hh s q
  unfold serveOpen; split
  · split <;> simp
  · split
    · split
      · split <;> simp
      · rfl
    · split
      · next ha => rw [ha] at hq; simpa using hq
      · split <;> simp
      · next ha => rw [ha] at hq; simpa using hq

@[simp] theorem untouched_refuse (s : State) (opcode : Nat) (q : Request) (status : Nat) :
    untouched (refuse s opcode q status) = untouched s := by
  simp [refuse]

theorem untouched_takeRequest (s : State) (opcode : Nat) (q : Request) (h : Handler) (hh : LeavesUntouched h) :
    untouched (takeRequest s opcode q h) = untouched s := by
  have hs := fun t => untouched_serveOpen t opcode q h hh
  unfold takeRequest; dsimp only; (repeat' split) <;> simp [hs]

@[simp] theorem untouched_modBus (s : State) (b : Bus) (f : MBus → MBus) : untouched (modBus s b f) = untouched s := by rfl
@[simp] theorem untouched_modCmdMbx (s : State) (p : Nat) (f : CmdMbx → CmdMbx) : untouched (modCmdMbx s p f) = untouched s := by rfl

@[simp] theorem untouched_enqueue (s : State) (r : QReq) : untouched (enqueue s r) = untouched s := by
  unfold enqueue; split <;> simp

@[simp] theorem untouched_serve (s : State) (opcode : Nat) (q : Request) (h : Handler) (hh : LeavesUntouched h) :
    untouched (serve s opcode q h) = untouched s := by
  simp [serve, untouched_takeRequest s opcode q h hh]

end Sys2Proof.Machine
end

section
/-! SUPPORT. Untouched by the command packets. -/

namespace Sys2Proof.Machine

@[simp] theorem untouched_joinGroup (s : State) (g i n : Nat) : untouched (joinGroup s g i n) = untouched s := by rfl

@[simp] theorem leavesUntouched_cmdPgOpen : LeavesUntouched cmdPgOpen := by
  intro s q
  unfold cmdPgOpen; dsimp only; (repeat' split) <;> simp

@[simp] theorem leavesUntouched_cmdPgClose : LeavesUntouched cmdPgClose := by
  intro s q
  unfold cmdPgClose; (repeat' split) <;> simp

@[simp] theorem leavesUntouched_cmdPgSet : LeavesUntouched cmdPgSet := by
  intro s q
  unfold cmdPgSet; (repeat' split) <;> simp

@[simp] theorem leavesUntouched_cmdChSet : LeavesUntouched cmdChSet := by
  intro s q
  unfold cmdChSet; dsimp only; (repeat' split) <;> simp

@[simp] theorem leavesUntouched_cmdPgStatus : LeavesUntouched cmdPgStatus := by
  intro s q
  unfold cmdPgStatus; dsimp only; (repeat' split) <;> simp

@[simp] theorem leavesUntouched_cmdResumeQuery : LeavesUntouched cmdResumeQuery := by
  intro s q
  unfold cmdResumeQuery; dsimp only; (repeat' split) <;> simp

@[simp] theorem leavesUntouched_cmdRingSetup : LeavesUntouched cmdRingSetup := by
  intro s q
  unfold cmdRingSetup; dsimp only; (repeat' split) <;> simp

@[simp] theorem leavesUntouched_cmdRingTeardown : LeavesUntouched cmdRingTeardown := by
  intro s q
  unfold cmdRingTeardown; (repeat' split) <;> simp

@[simp] theorem leavesUntouched_cmdEngqSetup : LeavesUntouched cmdEngqSetup := by
  intro s q
  unfold cmdEngqSetup; dsimp only; (repeat' split) <;> simp

@[simp] theorem leavesUntouched_cmdEngqTeardown : LeavesUntouched cmdEngqTeardown := by
  intro s q
  unfold cmdEngqTeardown; (repeat' split) <;> simp

@[simp] theorem leavesUntouched_cmdEngqAbort : LeavesUntouched cmdEngqAbort := by
  intro s q
  unfold cmdEngqAbort; (repeat' split) <;> simp

@[simp] theorem leavesUntouched_cmdEngStatus : LeavesUntouched cmdEngStatus := by
  intro s q
  unfold cmdEngStatus; split <;> simp

@[simp] theorem leavesUntouched_cmdEngSet : LeavesUntouched cmdEngSet := by
  intro s q
  unfold cmdEngSet; dsimp only; split <;> simp

@[simp] theorem untouched_storeKey (s t : State) (k : KeyE) (h : untouched t = untouched s) :
    untouched ((storeKey t k).stateOr s) = untouched s := by
  unfold storeKey; split
  · rfl
  · simp [h]

@[simp] theorem leavesUntouched_cmdKeyGenerate : LeavesUntouched cmdKeyGenerate := by
  intro s q
  unfold cmdKeyGenerate; split <;> simp

@[simp] theorem leavesUntouched_cmdKeyImport : LeavesUntouched cmdKeyImport := by
  intro s q
  unfold cmdKeyImport; dsimp only; (repeat' split) <;> simp

@[simp] theorem leavesUntouched_cmdKeyDestroy : LeavesUntouched cmdKeyDestroy := by
  intro s q
  unfold cmdKeyDestroy; dsimp only; split <;> simp

@[simp] theorem leavesUntouched_cmdKeyInfo : LeavesUntouched cmdKeyInfo := by
  intro s q
  unfold cmdKeyInfo; split <;> simp

@[simp] theorem leavesUntouched_cmdRekey : LeavesUntouched cmdRekey := by
  intro s q
  unfold cmdRekey; dsimp only; (repeat' split) <;> simp

@[simp] theorem leavesUntouched_cmdMeasurementRead : LeavesUntouched cmdMeasurementRead := by
  intro s q
  unfold cmdMeasurementRead; split <;> simp

@[simp] theorem leavesUntouched_cmdImageStatus : LeavesUntouched cmdImageStatus := by
  intro s q
  simp [cmdImageStatus]

@[simp] theorem leavesUntouched_cmdPartDefine : LeavesUntouched cmdPartDefine := by
  intro s q
  unfold cmdPartDefine; dsimp only; (repeat' split) <;> simp

@[simp] theorem leavesUntouched_cmdPartStart : LeavesUntouched cmdPartStart := by
  intro s q
  unfold cmdPartStart; (repeat' split) <;> simp

@[simp] theorem leavesUntouched_cmdPartStop : LeavesUntouched cmdPartStop := by
  intro s q
  unfold cmdPartStop; (repeat' split) <;> simp

@[simp] theorem leavesUntouched_cmdPartRangeAdd : LeavesUntouched cmdPartRangeAdd := by
  intro s q
  unfold cmdPartRangeAdd; dsimp only; (repeat' split) <;> simp

@[simp] theorem leavesUntouched_cmdPartRangeRemove : LeavesUntouched cmdPartRangeRemove := by
  intro s q
  unfold cmdPartRangeRemove; dsimp only; (repeat' split) <;> simp

@[simp] theorem leavesUntouched_cmdPartRestart : LeavesUntouched cmdPartRestart := by
  intro s q
  unfold cmdPartRestart; (repeat' split) <;> simp

@[simp] theorem leavesUntouched_cmdPartStatus : LeavesUntouched cmdPartStatus := by
  intro s q
  unfold cmdPartStatus; split <;> simp

@[simp] theorem leavesUntouched_cmdSliceCreate : LeavesUntouched cmdSliceCreate := by
  intro s q
  unfold cmdSliceCreate; dsimp only; (repeat' split) <;> simp

@[simp] theorem leavesUntouched_cmdSliceDestroy : LeavesUntouched cmdSliceDestroy := by
  intro s q
  unfold cmdSliceDestroy; (repeat' split) <;> simp

@[simp] theorem leavesUntouched_cmdSliceReset : LeavesUntouched cmdSliceReset := by
  intro s q
  unfold cmdSliceReset; (repeat' split) <;> simp

@[simp] theorem leavesUntouched_cmdSliceStatus : LeavesUntouched cmdSliceStatus := by
  intro s q
  unfold cmdSliceStatus; split <;> simp

@[simp] theorem leavesUntouched_cmdSliceLogStart : LeavesUntouched cmdSliceLogStart := by
  intro s q
  unfold cmdSliceLogStart; dsimp only; (repeat' split) <;> simp

@[simp] theorem leavesUntouched_cmdSliceLogSwitch : LeavesUntouched cmdSliceLogSwitch := by
  intro s q
  unfold cmdSliceLogSwitch; (repeat' split) <;> simp

@[simp] theorem leavesUntouched_cmdSliceLogStop : LeavesUntouched cmdSliceLogStop := by
  intro s q
  unfold cmdSliceLogStop; (repeat' split) <;> simp

@[simp] theorem leavesUntouched_cmdSliceLog : LeavesUntouched cmdSliceLog := by
  intro s q
  unfold cmdSliceLog; split
  · exact leavesUntouched_cmdSliceLogStart s q
  · exact leavesUntouched_cmdSliceLogSwitch s q
  · exact leavesUntouched_cmdSliceLogStop s q
  · rfl

@[simp] theorem leavesUntouched_cmdIdentity : LeavesUntouched cmdIdentity := by
  intro s q
  unfold cmdIdentity; dsimp only; (repeat' split) <;> simp

@[simp] theorem leavesUntouched_cmdConfigRead : LeavesUntouched cmdConfigRead := by
  intro s q
  unfold cmdConfigRead; split <;> simp

@[simp] theorem leavesUntouched_cmdConfigWrite : LeavesUntouched cmdConfigWrite := by
  intro s q
  unfold cmdConfigWrite; dsimp only; (repeat' split) <;> simp

@[simp] theorem leavesUntouched_cmdStackWeightSet : LeavesUntouched cmdStackWeightSet := by
  intro s q
  unfold cmdStackWeightSet; dsimp only; (repeat' split) <;> simp

@[simp] theorem leavesUntouched_cmdFaultLogRead : LeavesUntouched cmdFaultLogRead := by
  intro s q
  unfold cmdFaultLogRead; dsimp only; (repeat' split) <;> simp

@[simp] theorem leavesUntouched_cmdHistoryRead : LeavesUntouched cmdHistoryRead := by
  intro s q
  unfold cmdHistoryRead; dsimp only; split <;> simp

@[simp] theorem leavesUntouched_cmdTrioStatusRead : LeavesUntouched cmdTrioStatusRead := by
  intro s q
  unfold cmdTrioStatusRead; dsimp only; split <;> simp

@[simp] theorem untouched_clearCounters (s : State) (n : Nat) : untouched (clearCounters s n) = untouched s := by rfl

@[simp] theorem leavesUntouched_cmdCounterClear : LeavesUntouched cmdCounterClear := by
  intro s q
  unfold cmdCounterClear; dsimp only; (repeat' split) <;> simp

@[simp] theorem leavesUntouched_cmdHullStatusRead : LeavesUntouched cmdHullStatusRead := by
  intro s q
  unfold cmdHullStatusRead; dsimp only; split <;> simp

@[simp] theorem leavesUntouched_cmdClassRead : LeavesUntouched cmdClassRead := by
  intro s q
  unfold cmdClassRead; dsimp only; split <;> simp

@[simp] theorem leavesUntouched_cmdClassSet : LeavesUntouched cmdClassSet := by
  intro s q
  unfold cmdClassSet; dsimp only; split <;> simp

@[simp] theorem leavesUntouched_cmdCapSet : LeavesUntouched cmdCapSet := by
  intro s q
  unfold cmdCapSet; dsimp only; split <;> simp

@[simp] theorem leavesUntouched_cmdPowerRead : LeavesUntouched cmdPowerRead := by
  intro s q
  simp [cmdPowerRead]

@[simp] theorem leavesUntouched_cmdSensorRead : LeavesUntouched cmdSensorRead := by
  intro s q
  unfold cmdSensorRead; dsimp only; split <;> simp

@[simp] theorem leavesUntouched_cmdTrioClockLimit : LeavesUntouched cmdTrioClockLimit := by
  intro s q
  unfold cmdTrioClockLimit; dsimp only; split <;> simp

@[simp] theorem leavesUntouched_cmdPark : LeavesUntouched cmdPark := by
  intro s q
  unfold cmdPark; split <;> simp

@[simp] theorem leavesUntouched_cmdUnpark : LeavesUntouched cmdUnpark := by
  intro s q
  unfold cmdUnpark; split <;> simp

@[simp] theorem leavesUntouched_cmdPipStatusRead : LeavesUntouched cmdPipStatusRead := by
  intro s q
  simp [cmdPipStatusRead]

@[simp] theorem leavesUntouched_cmdDemandScrub : LeavesUntouched cmdDemandScrub := by
  intro s q
  unfold cmdDemandScrub; dsimp only; split <;> simp

@[simp] theorem leavesUntouched_cmdTrioDump : LeavesUntouched cmdTrioDump := by
  intro s q
  unfold cmdTrioDump; dsimp only; (repeat' split) <;> simp

@[simp] theorem leavesUntouched_cmdSwap : LeavesUntouched cmdSwap := by
  intro s q
  unfold cmdSwap; dsimp only; (repeat' split) <;> simp

@[simp] theorem leavesUntouched_cmdQuiesce : LeavesUntouched cmdQuiesce := by
  intro s q
  unfold cmdQuiesce; dsimp only; (repeat' split) <;> simp

@[simp] theorem leavesUntouched_cmdQuiesceEnd : LeavesUntouched cmdQuiesceEnd := by
  intro s q
  unfold cmdQuiesceEnd; dsimp only; split <;> simp

@[simp] theorem leavesUntouched_cmdHuskStatus : LeavesUntouched cmdHuskStatus := by
  intro s q
  simp [cmdHuskStatus]

@[simp] theorem leavesUntouched_cmdPrivLogRead : LeavesUntouched cmdPrivLogRead := by
  intro s q
  unfold cmdPrivLogRead; dsimp only; split <;> simp

@[simp] theorem untouched_startSelfTest (s : State) (h : HuskId) : untouched (startSelfTest s h) = untouched s := by rfl

@[simp] theorem leavesUntouched_cmdUnitRejoin : LeavesUntouched cmdUnitRejoin := by
  intro s q
  unfold cmdUnitRejoin; dsimp only; (repeat' split) <;> simp

end Sys2Proof.Machine
end

section
/-! SUPPORT. Untouched by power, the seed and the husk loop. -/

namespace Sys2Proof.Machine

@[simp] theorem untouched_latch (s : State) (i : PipInputs) : untouched (latch s i) = untouched s := by simp [latch]
@[simp] theorem untouched_nextMeasure (s : State) (l : List ClockRow) : untouched (nextMeasure s l) = untouched s := by simp [nextMeasure]
@[simp] theorem untouched_applyLimits (s : State) : untouched (applyLimits s) = untouched s := by simp [applyLimits]

@[simp] theorem untouched_powerLoop (s : State) : untouched (powerLoop s) = untouched s := by
  unfold powerLoop; dsimp only
  rw [untouched_modPower, untouched_forEach, untouched_nextMeasure]
  intro s n; split <;> simp

@[simp] theorem untouched_commitPower (s : State) : untouched (commitPower s) = untouched s := by simp [commitPower]

@[simp] theorem untouched_armedEdge (s : State) : untouched (armedEdge s) = untouched s := by
  unfold armedEdge; split
  · rfl
  · dsimp only; rw [untouched_whenServing] <;> simp

@[simp] theorem untouched_stageShadow (s : State) : untouched (stageShadow s) = untouched s := by rfl
@[simp] theorem untouched_toImageCheck (s : State) : untouched (toImageCheck s) = untouched s := by simp [toImageCheck]

@[simp] theorem untouched_reportCheck (s : State) (h : HuskId) (code : Nat) (held : Bool) :
    untouched (reportCheck s h code held) = untouched s := by
  simp [reportCheck]

@[simp] theorem untouched_huskOut (s : State) (h : HuskId) (third : Bool) : untouched (huskOut s h third) = untouched s := by
  simp [huskOut]

@[simp] theorem untouched_countFailure (s : State) (h : HuskId) : untouched (countFailure s h) = untouched s := by simp [countFailure]

@[simp] theorem untouched_huskFails (s : State) (h : HuskId) (code : Nat) : untouched (huskFails s h code) = untouched s := by
  simp [huskFails]

@[simp] theorem untouched_changeHolder (s : State) (h : HuskId) (code : Nat) : untouched (changeHolder s h code) = untouched s := by
  simp [changeHolder]

@[simp] theorem untouched_dropUnmirrored (s : State) : untouched (dropUnmirrored s) = untouched s := by rfl

@[simp] theorem untouched_execSeedTakeover (s : State) : untouched (outcomeState s (execSeedTakeover s)) = untouched s := by
  unfold execSeedTakeover; split <;> simp

@[simp] theorem untouched_swapEdge (s : State) : untouched (swapEdge s) = untouched s := by
  unfold swapEdge; split <;> simp

@[simp] theorem untouched_selfTestEnd (s : State) (h : HuskId) (pass : Bool) : untouched (selfTestEnd s h pass) = untouched s := by
  simp [selfTestEnd]

@[simp] theorem untouched_copyDone (s : State) (h : HuskId) (checksumOk : Bool) : untouched (copyDone s h checksumOk) = untouched s := by
  simp [copyDone]

@[simp] theorem leavesUntouched_noHandler : LeavesUntouched noHandler := fun _ _ => rfl

@[simp] theorem leavesUntouched_handlerOf (opcode : Nat) : LeavesUntouched ((handlerOf opcode).getD noHandler) := by
  unfold handlerOf; split <;> simp

@[simp] theorem untouched_handle (s : State) (r : QReq) : untouched (handle s r) = untouched s :=
  untouched_takeRequest s r.opcode r.q _ (leavesUntouched_handlerOf r.opcode)

@[simp] theorem untouched_opSet (s : State) (o : LongOp) (progress : Nat) (status : Option Nat) (result : List Byte) :
    untouched (opSet s o progress status result) = untouched s := by rfl

@[simp] theorem untouched_opDone (s : State) (o : LongOp) : untouched (opDone s o) = untouched s := by simp [opDone]
@[simp] theorem untouched_opFail (s : State) (o : LongOp) : untouched (opFail s o) = untouched s := by simp [opFail]
@[simp] theorem untouched_freeGroupNow (s : State) (g : Nat) : untouched (freeGroupNow s g) = untouched s := by simp [freeGroupNow]
@[simp] theorem untouched_freeRingNow (s : State) (sl r : Nat) : untouched (freeRingNow s sl r) = untouched s := by rfl
@[simp] theorem untouched_freeQueueNow (s : State) (sl r : Nat) : untouched (freeQueueNow s sl r) = untouched s := by rfl
@[simp] theorem untouched_unparkAll (s : State) : untouched (unparkAll s) = untouched s := by simp [unparkAll]
@[simp] theorem untouched_endQuiesce (s : State) (mask : Nat) : untouched (endQuiesce s mask) = untouched s := by simp [endQuiesce]

@[simp] theorem untouched_scrubStep (s : State) (o : LongOp) (base length : Nat) (obs : ScrubObs) :
    untouched (scrubStep s o base length obs) = untouched s := by
  unfold scrubStep; extract_lets lo n within cor unc s1 s2 s3 had addrs result s4
  have h3 : untouched s3 = untouched s := by
    have hs : untouched s2 = untouched s := by simp [s2, s1]
    rw [← hs]; refine untouched_forEach _ _ _ fun t u => ?_
    split <;> simp
  split <;> simp [s4, h3]

@[simp] theorem untouched_opStep (s : State) (o : LongOp) (obs : ScrubObs) : untouched (opStep s o obs) = untouched s := by
  unfold opStep; (repeat' split) <;> simp

@[simp] theorem untouched_opSteps (s : State) (obs : ScrubObs) : untouched (opSteps s obs) = untouched s := by simp [opSteps]

@[simp] theorem untouched_unqueue (s : State) (r : QReq) : untouched (unqueue s r) = untouched s := by
  unfold unqueue; split <;> simp

@[simp] theorem untouched_takeRequests (k : Nat) (s : State) : untouched (takeRequests k s) = untouched s := by
  induction k generalizing s with
  | zero => rfl
  | succ k ih => unfold takeRequests; split <;> simp [ih]

@[simp] theorem untouched_huskAction (s : State) (a : Nat × Half × W64) : untouched (huskAction s a) = untouched s := by simp [huskAction]
@[simp] theorem untouched_huskActions (s : State) : untouched (huskActions s) = untouched s := by simp [huskActions]
@[simp] theorem untouched_sleepEngine (s : State) (e : Nat) : untouched (sleepEngine s e) = untouched s := by simp [sleepEngine]
@[simp] theorem untouched_sleepStack (s : State) (j : Nat) : untouched (sleepStack s j) = untouched s := by simp [sleepStack]
@[simp] theorem untouched_sleepIdle (s : State) (i : HuskInputs) : untouched (sleepIdle s i) = untouched s := by simp [sleepIdle]
@[simp] theorem untouched_huskLoop (s : State) (i : HuskInputs) : untouched (huskLoop s i) = untouched s := by simp [huskLoop]
@[simp] theorem untouched_cmdGo (s : State) (p : Nat) (v : W64) : untouched (cmdGo s p v) = untouched s := by simp [cmdGo]
@[simp] theorem untouched_cmdStatusClear (s : State) (p : Nat) (v : W64) : untouched (cmdStatusClear s p v) = untouched s := by rfl

@[simp] theorem untouched_cmdAreaWrite (s : State) (p off : Nat) (bs : List Byte) :
    untouched (cmdAreaWrite s p off bs) = untouched s := by rfl

@[simp] theorem untouched_dieRejoinEnd (s : State) (n : Nat) (ok : Bool) : untouched (dieRejoinEnd s n ok) = untouched s := by
  unfold dieRejoinEnd; split
  · dsimp only
    rw [untouched_settle, untouched_foldl]
    · cases ok <;> simp
    · intro s o; (repeat' split) <;> simp
  · rfl

@[simp] theorem untouched_execUnitRejoinEnd (u : Unit') (ok : Bool) (s : State) :
    untouched (outcomeState s (execUnitRejoinEnd u ok s)) = untouched s := by
  unfold execUnitRejoinEnd; split <;> simp

@[simp] theorem untouched_takeAnswer (s : State) (g : Nat) (b : AnswerBody) : untouched (takeAnswer s g b) = untouched s := by
  unfold takeAnswer; split <;> simp

@[simp] theorem untouched_execResumeAnswer (ch : ChanNo) (h : FrameHdr) (b : AnswerBody) (s : State) :
    untouched (outcomeState s (execResumeAnswer ch h b s)) = untouched s := by
  refine untouched_whenServing _ _ (untouched_admitted (fun t g => ?_) _ (untouched_admitFrame ..))
  split <;> next u ho => simp [untouched_fst ho (untouched_inOrder ..)]

end Sys2Proof.Machine
end

section
/-! SUPPORT. Untouched by device windows, registers and floating point. -/

namespace Sys2Proof.Machine

@[simp] theorem untouched_doorbellWrite (s : State) (key off : Nat) (v m : W64) :
    untouched (doorbellWrite s key off v m) = untouched s := by
  unfold doorbellWrite; split <;> simp

@[simp] theorem untouched_queueWrite (s : State) (key off : Nat) (v m : W64) : untouched (queueWrite s key off v m) = untouched s := by
  unfold queueWrite; split <;> simp

@[simp] theorem untouched_sourceRead (s : State) (p e off : Nat) : untouched (sourceRead s p e off).1 = untouched s := by
  unfold sourceRead; (repeat' split) <;> simp

@[simp] theorem untouched_sourceWrite (s : State) (p e off : Nat) (v m : W64) : untouched (sourceWrite s p e off v m) = untouched s := by
  unfold sourceWrite; split <;> simp

@[simp] theorem untouched_mailboxRead (s : State) (p m off : Nat) : untouched (mailboxRead s p m off).1 = untouched s := by
  unfold mailboxRead; (repeat' split) <;> simp

@[simp] theorem untouched_mailboxWrite (s : State) (p m off : Nat) (v b : W64) :
    untouched (mailboxWrite s p m off v b) = untouched s := by
  unfold mailboxWrite; split <;> simp

@[simp] theorem untouched_invSlotWrite (s : State) (p k off : Nat) (v m : W64) :
    untouched (invSlotWrite s p k off v m) = untouched s := by
  unfold invSlotWrite; split <;> simp

@[simp] theorem untouched_devIsolated (s : State) (off : Nat) : untouched (devIsolated s off) = untouched s := by
  unfold devIsolated; split <;> simp

@[simp] theorem untouched_devRead (s : State) (p c k off : Nat) : untouched (devRead s p c k off).1 = untouched s := by
  unfold devRead; split <;> simp

@[simp] theorem untouched_devWrite (s : State) (p c k off : Nat) (v : W64) (o n : Nat) :
    untouched (devWrite s p c k off v o n) = untouched s := by
  unfold devWrite; (repeat' split) <;> simp

@[simp] theorem untouched_registerWrite (s : State) (r : RegName) (v : W64) : untouched (registerWrite s r v) = untouched s := by
  unfold registerWrite; split <;> simp

@[simp] theorem untouched_fp2 (s : State) (c : LC) (rd ra rb : Nat) (f : Rm → Bool → W64 → W64 → W64 × FFlags) :
    untouched (fp2 s c rd ra rb f) = untouched s := by
  simp [fp2]

@[simp] theorem untouched_fpPoint (s : State) (c : Nat) (z : Size) (f : State → State) (hf : untouched (f s) = untouched s) :
    untouched (fpPoint s c z f) = untouched s := by
  simp [fpPoint, hf]

end Sys2Proof.Machine
end

section
/-! SUPPORT. Untouched by memory instructions, task instructions and the rows of the coherence tables. -/

namespace Sys2Proof.Machine

theorem untouched_issueWith (fp : Bool) (s : State) (c : Nat) (z : Size) (i : Instr) (body : State → MemRes)
    (hb : untouched (body s).state = untouched s) : untouched (issueWith fp s c z i body) = untouched s := by
  unfold issueWith; split
  · rfl
  · split
    · next hr => rw [hr] at hb; simpa using hb
    · next hr =>
      rw [hr] at hb
      split
      · simp
      · simpa using hb
    · next hr =>
      rw [hr] at hb
      split
      · simp
      · simpa using hb

@[simp] theorem untouched_issueMem (s : State) (c : Nat) (z : Size) (i : Instr) (body : State → MemRes)
    (hb : untouched (body s).state = untouched s) : untouched (issueMem s c z i body) = untouched s := untouched_issueWith _ s c z i body hb

@[simp] theorem untouched_finish (s : State) (c : Nat) (z : Size) (f : TaskSet → TaskSet) :
    untouched (finish s c z f).state = untouched s := rfl

@[simp] theorem untouched_orTrap {α : Type} (s : State) (x : Ex α) (f : α → MemRes) (hf : ∀ a, untouched (f a).state = untouched s) :
    untouched (orTrap s x f).state = untouched s := by
  unfold orTrap; split
  · exact hf _
  · rfl

@[simp] theorem untouched_clearReply (s : State) (c : Nat) : untouched (clearReply s c) = untouched s := by rfl

@[simp] theorem untouched_askLine (s : State) (c ln : Nat) (start : State → State) (ready : State → Bool) (k : State → MemRes)
    (hs : ∀ t, untouched (start t) = untouched t) (hk : ∀ t, untouched (k t).state = untouched t) :
    untouched (askLine s c ln start ready k).state = untouched s := by
  unfold askLine; dsimp only; (repeat' split) <;> simp [hs, hk]

@[simp] theorem untouched_withLines (s : State) (c : Nat) (own : Bool) (l : List Nat) (k : State → MemRes)
    (hk : ∀ t, untouched (k t).state = untouched t) : untouched (withLines s c own l k).state = untouched s := by
  induction l generalizing s with
  | nil => exact hk s
  | cons ln l ih =>
    unfold withLines; extract_lets; split
    · exact ih s
    · exact untouched_askLine _ _ _ _ _ _ (fun t => by simp) ih

@[simp] theorem untouched_memAtEa (va : W64) (r : MemRes) : untouched (memAtEa va r).state = untouched r.state := by
  cases r <;> rfl

@[simp] theorem untouched_deviceLoad (s : State) (c p off : Nat) (va : W64) (k : LoadKind) (rd : Reg) (z : Size) :
    untouched (deviceLoad s c p off va k rd z).state = untouched s := by
  unfold deviceLoad; dsimp only; split <;> simp

@[simp] theorem untouched_loadAt (s : State) (c : Nat) (z : Size) (k : LoadKind) (rd : Reg) (va : W64) :
    untouched (loadAt s c z k rd va).state = untouched s := by
  unfold loadAt; dsimp only
  rw [untouched_memAtEa]
  refine untouched_orTrap _ _ _ fun pa => ?_
  split
  · simp
  · refine untouched_withLines _ _ _ _ _ fun t => ?_
    split <;> simp

@[simp] theorem untouched_load (s : State) (c : Nat) (z : Size) (k : LoadKind) (rd ra : Reg) (off : W64) :
    untouched (load s c z k rd ra off).state = untouched s := by simp [load]

@[simp] theorem untouched_storeAt (s : State) (c : Nat) (z : Size) (k : StoreKind) (w : TWord) (va : W64) :
    untouched (storeAt s c z k w va).state = untouched s := by
  unfold storeAt; dsimp only
  refine untouched_orTrap _ _ _ fun pa => ?_
  (repeat' split) <;> simp

@[simp] theorem untouched_store (s : State) (c : Nat) (z : Size) (k : StoreKind) (rs ra : Reg) (off : W64) :
    untouched (store s c z k rs ra off).state = untouched s := by simp [store]

@[simp] theorem untouched_blockRead4 (c cur : Nat) (s : State) (l : List Nat) (acc : List CWord) :
    untouched (blockRead4 c cur s l acc).1 = untouched s := by
  induction l generalizing s acc with
  | nil => rfl
  | cons pa l ih => unfold blockRead4; dsimp only; split <;> simp [ih]

@[simp] theorem untouched_vload (s : State) (c : Nat) (vd : VReg) (ra : Reg) (off : W64) :
    untouched (vload s c vd ra off).state = untouched s := by
  unfold vload; dsimp only
  refine untouched_orTrap _ _ _ fun va => ?_
  rw [untouched_memAtEa]
  refine untouched_orTrap _ _ _ fun pas => ?_
  refine untouched_withLines _ _ _ _ _ fun t => ?_
  (repeat' split) <;> simp

@[simp] theorem untouched_blockWrite4 (c cur : Nat) (s : State) (l : List (Nat × TWord)) : untouched (blockWrite4 c cur s l) = untouched s := by
  induction l generalizing s with
  | nil => rfl
  | cons p l ih => unfold blockWrite4; split <;> simp [ih]

@[simp] theorem untouched_vstore (s : State) (c : Nat) (dec : Bool) (vs : VReg) (ra : Reg) (off : W64) :
    untouched (vstore s c dec vs ra off).state = untouched s := by
  unfold vstore; dsimp only
  refine untouched_orTrap _ _ _ fun va => ?_
  rw [untouched_memAtEa]
  refine untouched_orTrap _ _ _ fun pas => ?_
  split
  · rfl
  · refine untouched_orTrap _ _ _ fun ws => ?_
    split <;> simp

@[simp] theorem untouched_amoFinish (s : State) (c : Nat) (rd : Reg) (old : TWord) (st : AmoStatus) :
    untouched (amoFinish s c rd old st).state = untouched s := by
  unfold amoFinish; split <;> simp

@[simp] theorem untouched_amoPlace (s : State) (c pa : Nat) (va : W64) (x : AmoArgs) (rd : Reg) (near : Bool) :
    untouched (amoPlace s c pa va x rd near) = untouched s := by rfl

@[simp] theorem untouched_amoSettle (s : State) (c : Nat) (rd : Reg) : untouched (amoSettle s c rd).state = untouched s := by
  unfold amoSettle; dsimp only; (repeat' split) <;> simp

@[simp] theorem untouched_amoHome (s : State) (c pa : Nat) (va : W64) (x : AmoArgs) (rd : Reg) (learn : Bool) :
    untouched (amoHome s c pa va x rd learn).state = untouched s := by
  unfold amoHome; dsimp only; split <;> simp

@[simp] theorem untouched_amoInL2 (s : State) (c pa : Nat) (x : AmoArgs) : untouched (amoInL2 s c pa x).1 = untouched s := by
  unfold amoInL2; dsimp only; split <;> simp

@[simp] theorem untouched_amoNearEnd (s : State) (c : Nat) : untouched (amoNearEnd s c) = untouched s := by
  unfold amoNearEnd; (repeat' split) <;> simp

@[simp] theorem untouched_amoNear (s : State) (c pa : Nat) (va : W64) (x : AmoArgs) (rd : Reg) :
    untouched (amoNear s c pa va x rd).state = untouched s := by
  unfold amoNear; dsimp only; (repeat' split) <;> simp

@[simp] theorem untouched_amo (s : State) (c : Nat) (op : AmoOp) (rd ra rb : Reg) : untouched (amo s c op rd ra rb).state = untouched s := by
  unfold amo; dsimp only
  refine untouched_orTrap _ _ _ fun va => ?_
  rw [untouched_memAtEa]
  refine untouched_orTrap _ _ _ fun x => ?_
  (repeat' split) <;> simp

@[simp] theorem untouched_zline (s : State) (c : Nat) (ra : Reg) (off : W64) : untouched (zline s c ra off).state = untouched s := by
  unfold zline; dsimp only
  refine untouched_orTrap _ _ _ fun va => ?_
  rw [untouched_memAtEa]
  refine untouched_orTrap _ _ _ fun pa => ?_
  split <;> simp

@[simp] theorem untouched_maintain (s : State) (c : Nat) (m : Maint) (ra : Reg) (off : W64) :
    untouched (maintain s c m ra off).state = untouched s := by
  unfold maintain; dsimp only
  refine untouched_orTrap _ _ _ fun va => ?_
  rw [untouched_memAtEa]
  refine untouched_orTrap _ _ _ fun pa => ?_
  split <;> simp

@[simp] theorem untouched_cinvBody (s : State) (c : Nat) (ra : Reg) (off : W64) : untouched (cinvBody s c ra off).state = untouched s := by
  unfold cinvBody; dsimp only; (repeat' split) <;> simp

@[simp] theorem untouched_l2wbBody (s : State) (c : Nat) : untouched (l2wbBody s c).state = untouched s := by
  unfold l2wbBody; dsimp only; (repeat' split) <;> simp

theorem untouched_memBody {i : Instr} {c : LC} {z : Size} {body : State → MemRes} (h : memBody i = some (c, z, body)) (s : State) :
    untouched (body s).state = untouched s := by
  unfold memBody at h; split at h <;> cases h <;> simp

@[simp] theorem untouched_memRun (i : Instr) (s : State) : untouched (memRun i s) = untouched s := by
  unfold memRun; split
  · next h => exact untouched_issueMem _ _ _ _ _ (untouched_memBody h s)
  · rfl

@[simp] theorem untouched_execDeviceWindowResponse (c : LC) (s : State) :
    untouched (outcomeState s (execDeviceWindowResponse c s)) = untouched s := by
  unfold execDeviceWindowResponse; split <;> simp

@[simp] theorem untouched_execInstructionFetchFault (c : LC) (secondHalf : Bool) (s : State) :
    untouched (outcomeState s (execInstructionFetchFault c secondHalf s)) = untouched s := by
  unfold execInstructionFetchFault; dsimp only; (repeat' split) <;> simp

@[simp] theorem untouched_issuePoint (s : State) (c : Nat) (z : Size) (i : Instr) (body : State → MemRes)
    (hb : untouched (body s).state = untouched s) : untouched (issuePoint s c z i body) = untouched s := untouched_issueWith _ s c z i body hb

@[simp] theorem untouched_switchTo (s : State) (c k : Nat) (z : Size) : untouched (switchTo s c k z) = untouched s := by simp [switchTo]

@[simp] theorem untouched_tswitchBody (s : State) (c : Nat) (f : SwForm) : untouched (tswitchBody s c f).state = untouched s := by
  unfold tswitchBody
  refine untouched_orTrap _ _ _ fun k => ?_
  split <;> simp

@[simp] theorem untouched_frameStore (s : State) (c : Nat) (pas : List Nat) (ws : List (Nat × TWord)) :
    untouched (frameStore s c pas ws) = untouched s := by
  simp [frameStore]

@[simp] theorem untouched_unstage (s : State) (c k : Nat) : untouched (unstage s c k) = untouched s := by
  unfold unstage; dsimp only; split <;> simp

@[simp] theorem untouched_tsaveBody (s : State) (c : Nat) (rd rb : Reg) : untouched (tsaveBody s c rd rb).state = untouched s := by
  refine untouched_orTrap _ _ _ fun x => ?_
  refine untouched_orTrap _ _ _ fun pas => ?_
  exact untouched_withLines _ _ _ _ _ fun t => by simp

@[simp] theorem untouched_tloadBody (s : State) (c : Nat) (rd ra rb : Reg) : untouched (tloadBody s c rd ra rb).state = untouched s := by
  unfold tloadBody; dsimp only; split
  · rfl
  · refine untouched_orTrap _ _ _ fun pas => ?_
    refine untouched_withLines _ _ _ _ _ fun t => ?_
    split
    · rfl
    · split
      · rfl
      · split
        · rfl
        · split
          · rfl
          · refine untouched_orTrap _ _ _ fun _ => ?_
            refine untouched_withLines _ _ _ _ _ fun u => ?_
            split <;> simp

@[simp] theorem untouched_stepTwin (s : State) (c : Nat) : untouched (stepTwin s c) = untouched s := by rfl

@[simp] theorem untouched_execWread (c : LC) (rd : Reg) (s : State) : untouched (outcomeState s (execWread c rd s)) = untouched s := by
  unfold execWread; rw [outcomeState_next]
  refine untouched_issueNext s c .long _ fun t h => ?_
  simp only [bind, Except.bind] at h
  (repeat' split at h) <;> cases h
  simp

@[simp] theorem untouched_execWwrite (c : LC) (ra : Reg) (s : State) : untouched (outcomeState s (execWwrite c ra s)) = untouched s := by
  unfold execWwrite; rw [outcomeState_next]
  refine untouched_issueNext s c .long _ fun t h => ?_
  simp only [bind, Except.bind] at h
  (repeat' split at h) <;> cases h
  simp

@[simp] theorem untouched_rettBody (s : State) (c : Nat) : untouched (rettBody s c).state = untouched s := by
  unfold rettBody; dsimp only; (repeat' split) <;> simp

@[simp] theorem untouched_mfsrBody (s : State) (c : Nat) (rd n : Reg) : untouched (mfsrBody s c rd n).state = untouched s := by
  unfold mfsrBody; dsimp only; (repeat' split) <;> simp

@[simp] theorem untouched_mtsrBody (s : State) (c : Nat) (ra n : Reg) : untouched (mtsrBody s c ra n).state = untouched s := by
  unfold mtsrBody; dsimp only; (repeat' split) <;> simp

@[simp] theorem untouched_reissue (i : Instr) (s : State) : untouched (reissue i s) = untouched s := by
  unfold reissue; split <;> simp

@[simp] theorem untouched_wakeCore (s : State) (c : Nat) : untouched (wakeCore s c) = untouched s := by
  unfold wakeCore; split <;> simp

@[simp] theorem untouched_wakeCores (s : State) : untouched (wakeCores s) = untouched s := by simp [wakeCores]
@[simp] theorem untouched_thenWake (s : State) : untouched (thenWake s) = untouched s := by simp [thenWake]

@[simp] theorem untouched_arrive (s : State) (m : CohMsg) : untouched (arrive s m) = untouched s := by
  unfold arrive; split <;> simp

@[simp] theorem untouched_cohRow (s x : State) (h : untouched x = untouched s) : untouched (outcomeState s (cohRow s x)) = untouched s := by
  simp [cohRow, h]

@[simp] theorem untouched_rowRequest (s : State) (a ln : Nat) (r : HomeReq) (express learn : Bool) :
    untouched (rowRequest s a ln r express learn) = untouched s := by
  simp [rowRequest]

@[simp] theorem untouched_execWrline (d : IoDie) (line : LineNo) (bytes : List Byte) (mask : BitVec 128) (alloc : Bool) (s : State) :
    untouched (outcomeState s (execWrline d line bytes mask alloc s)) = untouched s := by
  unfold execWrline; split <;> simp

@[simp] theorem untouched_evictRow (s : State) (k : MsgKind) (a ln : Nat) : untouched (evictRow s k a ln) = untouched s := by
  unfold evictRow; dsimp only; (repeat' split) <;> simp

@[simp] theorem untouched_execDataAtHome (a : Agent) (line : LineNo) (d : Line) (s : State) :
    untouched (outcomeState s (execDataAtHome a line d s)) = untouched s := by
  unfold execDataAtHome; split <;> simp

@[simp] theorem untouched_execData (a : Agent) (line : LineNo) (d : Line) (s : State) :
    untouched (outcomeState s (execData a line d s)) = untouched s := by
  unfold execData; split <;> simp

@[simp] theorem untouched_execDataexcl (a : Agent) (line : LineNo) (d : Line) (s : State) :
    untouched (outcomeState s (execDataexcl a line d s)) = untouched s := by
  unfold execDataexcl; split <;> simp

@[simp] theorem untouched_poisonCopies (s : State) (ln : Nat) : untouched (poisonCopies s ln) = untouched s := by rfl

@[simp] theorem untouched_cacheError (s : State) (arr : EccArray) (correctable : Bool) :
    untouched (cacheError s arr correctable) = untouched s := by
  unfold cacheError; (repeat' split) <;> simp

@[simp] theorem untouched_coreIsolated (s : State) (c : Nat) : untouched (coreIsolated s c) = untouched s := by
  unfold coreIsolated; dsimp only; split <;> simp

@[simp] theorem untouched_evictionIsolated (s : State) (a ln : Nat) : untouched (evictionIsolated s a ln) = untouched s := by
  simp [evictionIsolated]

@[simp] theorem untouched_exchangeIsolated (s : State) (x : ExId) : untouched (exchangeIsolated s x) = untouched s := by
  unfold exchangeIsolated; split <;> simp

@[simp] theorem untouched_recordIsolated (s : State) (x : ExId) : untouched (recordIsolated s x) = untouched s := by
  unfold recordIsolated; (repeat' split) <;> simp

@[simp] theorem untouched_jobIsolated (s : State) (j : JobId) : untouched (jobIsolated s j) = untouched s := by
  unfold jobIsolated; (repeat' split) <;> simp

@[simp] theorem untouched_execIsolatedResponse (r : IsoReq) (s : State) :
    untouched (outcomeState s (execIsolatedResponse r s)) = untouched s := by
  unfold execIsolatedResponse; split <;> simp

end Sys2Proof.Machine
end

section
/-! SUPPORT. Untouched by fault collection, boot, reset and the pip. -/

namespace Sys2Proof.Machine

@[simp] theorem untouched_isolateUnit (s : State) (e : FEvent) : untouched (isolateUnit s e) = untouched s := by
  unfold isolateUnit; dsimp only; split <;> simp

@[simp] theorem untouched_holderFail (s : State) : untouched (holderFail s) = untouched s := by
  unfold holderFail; split <;> simp

@[simp] theorem untouched_dropSensor (s : State) (pt : Nat) : untouched (dropSensor s pt) = untouched s := by rfl

@[simp] theorem untouched_takeAction (s : State) (x : Severe) : untouched (takeAction s x) = untouched s := by
  unfold takeAction; split <;> simp

@[simp] theorem untouched_closePip (s : State) (k : Nat) : untouched (closePip s k) = untouched s := by simp [closePip]
@[simp] theorem untouched_writeFault (s : State) (r : FRecord) : untouched (writeFault s r) = untouched s := by simp [writeFault]

@[simp] theorem untouched_writeFaults (n : Nat) (s : State) : untouched (writeFaults n s) = untouched s := by
  induction n generalizing s with
  | zero => rfl
  | succ n ih => unfold writeFaults; split <;> simp [ih]

@[simp] theorem untouched_withEntries (s : State) (t : Table (List Byte)) : untouched (withEntries s t) = untouched s := by rfl
@[simp] theorem untouched_measure (s : State) (k : Nat) (bs : List Byte) : untouched (measure s k bs) = untouched s := by simp [measure]

@[simp] theorem untouched_installParts (s : State) : untouched (installParts s) = untouched s := by
  refine untouched_forEach _ _ _ fun s p => ?_
  dsimp only; split <;> simp

@[simp] theorem untouched_trimEntries (s : State) : untouched (trimEntries s) = untouched s := by rfl
@[simp] theorem untouched_installWeights (s : State) : untouched (installWeights s) = untouched s := by simp [installWeights]
@[simp] theorem untouched_installClasses (s : State) : untouched (installClasses s) = untouched s := by rfl

@[simp] theorem untouched_applyConfig (s : State) (l : List (Nat × List Byte)) : untouched (applyConfig s l) = untouched s := by
  simp [applyConfig]

@[simp] theorem untouched_installKeys (s : State) (l : List KeyRec) : untouched (installKeys s l) = untouched s := by simp [installKeys]
@[simp] theorem untouched_drawIncarnation (s : State) : untouched (drawIncarnation s) = untouched s := by rfl
@[simp] theorem untouched_useCopy (s : State) (b : List Byte) : untouched (useCopy s b) = untouched s := by simp [useCopy]
@[simp] theorem untouched_useDefaults (s : State) (r0 r1 : Nat) : untouched (useDefaults s r0 r1) = untouched s := by simp [useDefaults]

@[simp] theorem untouched_imageCheckEnd (s : State) (c0 c1 : CopyIn) : untouched (imageCheckEnd s c0 c1) = untouched s := by
  simp [imageCheckEnd]

@[simp] theorem untouched_zeroRanges (s : State) : untouched (zeroRanges s) = untouched s := by simp [zeroRanges]

@[simp] theorem untouched_copyBytes (n : Nat) (s : State) (a : Nat) (bs : List Byte) : untouched (copyBytes n s a bs) = untouched s := by
  induction n generalizing s a bs with
  | zero => rfl
  | succ n ih =>
    unfold copyBytes; dsimp only; split
    · rfl
    · rw [ih]; (repeat' split) <;> simp

@[simp] theorem untouched_copyPayload (s : State) (x : Nat × List Byte) : untouched (copyPayload s x) = untouched s := by
  simp [copyPayload]

@[simp] theorem untouched_copyPayloads (s : State) : untouched (copyPayloads s) = untouched s := by simp [copyPayloads]
@[simp] theorem untouched_fuse (s : State) : untouched (fuse s) = untouched s := by simp [fuse]
@[simp] theorem untouched_autostart (s : State) : untouched (autostart s) = untouched s := by simp [autostart]
@[simp] theorem untouched_enterService (s : State) : untouched (enterService s) = untouched s := by simp [enterService]
@[simp] theorem untouched_failCore (s : State) (x : CoreNo × BitVec 4) : untouched (failCore s x) = untouched s := by simp [failCore]
@[simp] theorem untouched_failDie (s : State) (d : Nat) : untouched (failDie s d) = untouched s := by simp [failDie]
@[simp] theorem untouched_powerUnits (s : State) (r : BistIn) : untouched (powerUnits s r) = untouched s := by simp [powerUnits]
@[simp] theorem untouched_coldClocks (s : State) : untouched (coldClocks s) = untouched s := by simp [coldClocks]

@[simp] theorem untouched_trimReplicas (s : State) (l : List (DieNo × Fin 3)) : untouched (trimReplicas s l) = untouched s := by
  simp [trimReplicas]

@[simp] theorem untouched_builtInTestEnd (s : State) (r : BistIn) : untouched (builtInTestEnd s r) = untouched s := by
  simp [builtInTestEnd]

@[simp] theorem untouched_flushRecords (s : State) : untouched (flushRecords s) = untouched s := by simp [flushRecords]
@[simp] theorem untouched_blank (s : State) : untouched (blank s) = untouched s := by simp [blank]
@[simp] theorem untouched_resetAssert (s : State) : untouched (resetAssert s) = untouched s := by simp [resetAssert]
@[simp] theorem untouched_startModule (s : State) : untouched (startModule s) = untouched s := by simp [startModule]
@[simp] theorem untouched_standbyLoss (s : State) : untouched (standbyLoss s) = untouched s := by simp [standbyLoss]

@[simp] theorem untouched_reportInfo (s : State) : untouched (reportInfo s) = untouched s := by
  unfold reportInfo; split <;> simp

@[simp] theorem untouched_countIdle (s : State) : untouched (countIdle s) = untouched s := by rfl

@[simp] theorem untouched_serviceEdge (s : State) (l : List ProgressObs) : untouched (serviceEdge s l) = untouched s := by
  simp [serviceEdge]

@[simp] theorem untouched_pipEdge (s : State) (i : PipInputs) : untouched (pipEdge s i) = untouched s := by simp [pipEdge]
@[simp] theorem untouched_commitQuiesce (s : State) : untouched (commitQuiesce s) = untouched s := by simp [commitQuiesce]
@[simp] theorem untouched_commitRejoin (s : State) : untouched (commitRejoin s) = untouched s := by simp [commitRejoin]

@[simp] theorem untouched_commitMirror (s : State) : untouched (commitMirror s) = untouched s := by
  unfold commitMirror; split <;> simp

@[simp] theorem untouched_commit (s : State) : untouched (commit s) = untouched s := by
  unfold commit; dsimp only; (repeat' split) <;> simp

@[simp] theorem untouched_pipOverrun (s : State) (a : Nat) : untouched (pipOverrun s a) = untouched s := by
  unfold pipOverrun; dsimp only; (repeat' split) <;> simp

end Sys2Proof.Machine
end

section
/-! No command touches the queue behind it or what the part was made as. -/

namespace Sys2Proof.Machine

/-- Command by command, in the order of `exec`: each is one of the operations above, or has its own lemma there. -/
theorem untouched_exec (c : Instr) (s : State) : untouched (outcomeState s (exec c s)) = untouched s := by
  cases c with
  -- pins, power and time
  | resetNRelease | resetNAssert | standbyPowerLoss | pwrOkRise | pwrOkFall | inputLoss | ivrCurrentLimit | thermalTrip | pipEdge
    | huskLoop | eventDeliveryWindow | commitWindow | pipOverrun | refclkLost | holdoverExit | aliveToggle =>
    simp [exec, execResetNRelease, execResetNAssert, execStandbyPowerLoss, execPwrOkRise, execPwrOkFall, execInputLoss,
      execIvrCurrentLimit, execThermalTrip, execPipEdge, execHuskLoop, execEventDeliveryWindow, execCommitWindow, execPipOverrun,
      execRefclkLost, execHoldoverExit, execAliveToggle]
  -- Derkin instructions
  | mov | add | sub | and | or | xor | not | neg | tget | jr | ret | movi | addi | andi | ori | xori | shl | shr | sar | shifti |
    lui | mul | mulh | div | rem | addc | subc | mulw | leai | lea | adda | leap | leac | ldt | ldw | ldwu | ldh | ldhu | ldb |
    ldbu | ldc | ldtp | stt | stw | sth | stb | bcmp | bz | bnz | jmp | call | jalr | nop | dadd | dsub | dcmp | dchk | dtoi |
    itod | vdadd | vld | vst | vstd | fadd | fsub | fmul | fdiv | fsqrt | fma | fmin | fmax | fcmp | fcvtif | fcvtfi | fneg | fabs
    | fbar | fpTrap | amoadd | amoswap | amocas | damoadd | fence | ifence | zline | cclean | cflush | cinv | l2wb | tset | tchk |
    trapi | rdtime | tswitch | tsave | tload | wread | wwrite | rett | mfsr | mtsr | event | machineCheck =>
    simp [exec, execMov, execAdd, execSub, execAnd, execOr, execXor, execNot, execNeg, execJr, execRet, execMovi, execAndi,
      execOri, execXori, execShl, execShr, execSar, execShifti, execLui, execMul, execMulh, execDiv, execRem, execAddc, execSubc,
      execMulw, execLeai, execLea, execAdda, execLeap, execLeac, execLdt, execLdw, execLdwu, execLdh, execLdhu, execLdb, execLdbu,
      execLdc, execLdtp, execStt, execStw, execSth, execStb, execBcmp, execBz, execBnz, execJmp, execCall, execJalr, execNop,
      execDadd, execDsub, execDcmp, execDchk, execDtoi, execItod, execVdadd, execVld, execVst, execVstd, execFadd, execFsub,
      execFmul, execFdiv, execFsqrt, execFma, execFmin, execFmax, execFcmp, execFcvtif, execFcvtfi, execFneg, execFabs, execFbar,
      execFpTrap, execAmoadd, execAmoswap, execAmocas, execDamoadd, execFence, execIfence, execZline, execCclean, execCflush,
      execCinv, execL2wb, execTset, execTchk, execTrapi, execRdtime, execTswitch, execTsave, execTload, execRett,
      execMfsr, execMtsr, execEvent, execMachineCheck, untouched_issue, untouched_issueNext]
  -- trios
  | voterDissent | l1ParityError | voterNoMajority | checkstopRecoveryPip | checkstopResume | rebuildLimit | splitCoreError |
    splitCoreResume =>
    simp [exec, execVoterDissent, execVoterNoMajority, execSplitCoreError]
  -- coherence
  | rdshared | rdown | upgrade | amoreq | wrline | wbdirty | wbclean | evictnote | invalack | dataAtHome | cmpAtHome | data |
    dataexcl | cmp | nack | fwdshared | fwdown | inval | amorsp | cacheEccError | isolatedResponse =>
    simp [exec, execRdshared, execRdown, execUpgrade, execAmoreq, execWbdirty, execWbclean, execEvictnote, execInvalack,
      execCmpAtHome, execCmp, execNack, execFwdshared, execFwdown, execInval, execAmorsp, execCacheEccError]
  -- memory
  | patrolScrubStep | hbmCorrectableError | hbmUncorrectableError | hbmCaParityError | hbmPhyFailure | stackSlow |
    stackSelfRefreshEntry | cxlLinkLoss =>
    simp [exec, execPatrolScrubStep, execHbmCorrectableError, execHbmUncorrectableError, execHbmPhyFailure, execStackSlow,
      execStackSelfRefreshEntry, execCxlLinkLoss]
  -- network
  | flitCrcError | linkTrainingEnd | domainWake | domainWakeDone | wakeOverrun | netTimeout | hullPlacement | hullArrival |
    splitLinkIsolation | spanningPartitionEvaluate | m7Retrain | dieSelfStop =>
    simp [exec, execFlitCrcError, execDomainWake, execNetTimeout, execHullPlacement, execHullArrival, execSplitLinkIsolation,
      execSpanningPartitionEvaluate, execM7Retrain, execDieSelfStop]
  -- rings and exchanges
  | sqTailWrite | cqHeadWrite | wmStatusClear | descriptorFetch | mirrorConfirm | read | write | control | sense | chain | echo |
    cancel | dataSend | exchangeLogged | recordComposed | recordPosted | noPathWaitExpiry | exchangeTimeout |
    abortWaitExpiry | ioDieTakeover | pairLoss | sliceResetDrainEnd | dataFrame | ack | nak | complete | resumeAnswer | pathHello
    | pathGone | rtoExpiry | pathHelloSend | pathSilence | pcsBlockLockLoss | pcsBlockLock | rekeyIntervalExpiry | rekeyTimeout |
    oldKeyErase =>
    simp [exec, execSqTailWrite, execCqHeadWrite, execDescriptorFetch, execRead, execWrite, execControl, execSense, execChain,
      execEcho, execCancel, execDataSend, execIoDieTakeover, execPairLoss, execSliceResetDrainEnd, execComplete,
      execPathHello, execPcsBlockLockLoss, execPcsBlockLock, execRekeyIntervalExpiry]
  -- translation
  | invalidate | invalidateDone =>
    simp [exec, execInvalidate, execInvalidateDone]
  -- engines
  | eqTailWrite | engineJobFetch | engineJobAccept | engineJobStart | engineJobEnd | engineSelfCheckFail | stagingEnd =>
    simp [exec, execEqTailWrite, execEngineJobFetch, execEngineJobAccept, execEngineJobStart, execEngineJobEnd,
      execEngineSelfCheckFail, execStagingEnd]
  -- husks
  | seedPlacement | seedRenewal | huskSelfCheckFail | seedTakeover | huskSelfTestEnd | huskRejoinCopyDone | mbRequest |
    mbReplyRead | cmdGo | commandPoll | unknownCommand =>
    simp [exec, execSeedPlacement, execSeedRenewal, execHuskSelfCheckFail, execHuskSelfTestEnd, execHuskRejoinCopyDone,
      execMbRequest, execMbReplyRead, execCmdGo, execCommandPoll, execUnknownCommand]
  -- command packets
  | identity | configRead | configWrite | stackWeightSet | partDefine | partStart | partStop | partRangeAdd | partRangeRemove |
    partRestart | sliceCreate | sliceDestroy | sliceReset | sliceLogStart | sliceLogSwitch | sliceLogStop | sliceStatus |
    partStatus | faultLogRead | historyRead | trioStatusRead | counterClear | hullStatusRead | classRead | classSet | capSet |
    powerRead | sensorRead | trioClockLimit | park | parkEntry | unpark | trioAutoPark | pgOpen | pgClose | pgSet | chSet |
    ringSetup | ringTeardown | pgStatus | resumeQuery | engqSetup | engqTeardown | engqAbort | engStatus | engSet | pipStatusRead
    | demandScrub | trioDump | swap | quiesce | quiesceEnd | huskStatus | privLogRead | unitRejoin | unitRejoinEnd | keyGenerate |
    keyImport | keyDestroy | keyInfo | rekey | measurementRead | imageStatus =>
    simp [exec, execIdentity, execConfigRead, execConfigWrite, execStackWeightSet, execPartDefine, execPartStart, execPartStop,
      execPartRangeAdd, execPartRangeRemove, execPartRestart, execSliceCreate, execSliceDestroy, execSliceReset,
      execSliceLogStart, execSliceLogSwitch, execSliceLogStop, execSliceStatus, execPartStatus, execFaultLogRead, execHistoryRead,
      execTrioStatusRead, execCounterClear, execHullStatusRead, execClassRead, execClassSet, execCapSet, execPowerRead,
      execSensorRead, execTrioClockLimit, execPark, execParkEntry, execUnpark, execTrioAutoPark, execPgOpen, execPgClose,
      execPgSet, execChSet, execRingSetup, execRingTeardown, execPgStatus, execResumeQuery, execEngqSetup, execEngqTeardown,
      execEngqAbort, execEngStatus, execEngSet, execPipStatusRead, execDemandScrub, execTrioDump, execSwap, execQuiesce,
      execQuiesceEnd, execHuskStatus, execPrivLogRead, execUnitRejoin, execKeyGenerate, execKeyImport, execKeyDestroy,
      execKeyInfo, execRekey, execMeasurementRead, execImageStatus]
  -- events and mailboxes
  | evPendingWrite | evTake | evBindWrite | mbxSend | mbxDbTake | mbxRelease | mbxReset =>
    simp [exec, execEvPendingWrite, execEvTake, execEvBindWrite, execMbxSend, execMbxDbTake, execMbxRelease, execMbxReset]
  -- registers and faults
  | registerWrite | faultPointReport | faultRecordWrite | collectorSelfFault =>
    simp [exec, execRegisterWrite, execFaultPointReport, execFaultRecordWrite, execCollectorSelfFault]
  -- boot
  | imageCheckEnd | builtInTestEnd | coldStartEnd =>
    simp [exec, execImageCheckEnd, execBuiltInTestEnd, execColdStartEnd]
  -- management buses
  | mbBusStuck | mbBusFail | mbBusReturn | i3cAddressAssign | standbyPowerGood =>
    simp [exec, execMbBusStuck, execMbBusFail, execMbBusReturn, execI3cAddressAssign, execStandbyPowerGood]
  -- responses and fetch
  | deviceWindowResponse | illegalInstruction | instructionFetchFault =>
    simp [exec, execIllegalInstruction, untouched_issue]
  -- BREAK and OPEN, whose names are words of Lean's own
  | _ =>
    simp [exec, execBreak, execOpen, untouched_issue]

/-- Settles O60: whatever the command, the next state is reached by operations that touch neither the commands that wait behind it, which
only `step` takes from the queue (LOG 13), nor the ordering code and the module ID (R7, R10). -/
theorem queueAndIdentityKept : Obligations.QueueAndIdentityKept := by
  intro c s t h
  have hu := untouched_exec c s
  rw [h] at hu
  exact untouched_eq_iff.mp hu

end Sys2Proof.Machine
end

section
/-! The state right after reset (R34, R478). -/

namespace Sys2Proof.Machine

/-- While RESET_N is low no logical core executes. -/
theorem runs_resetLow {s : State} (c : Nat) (h : s.pins.resetN = false) : runs s c = false := by simp [runs, h]

theorem sound_reset : Sound State.reset := ⟨by decide, by decide, by decide, by decide⟩

/-- Settles O2: each field of the reset state is read off, the state is sound, and with RESET_N low no core runs. -/
theorem resetState : Obligations.ResetState :=
  ⟨rfl, rfl, rfl, rfl, rfl, rfl, rfl, rfl, rfl, rfl, rfl, rfl, rfl, rfl, rfl, rfl, sound_reset, fun c => runs_resetLow c rfl⟩

end Sys2Proof.Machine
end

section
/-! Moves, addresses, tags and the traps of tags (R57-R62, R90). -/

namespace Sys2Proof.Machine

/-- The SUBCAUSE of an operand whose tag its class does not accept, in the words of R90. -/
theorem badTagSub_eq (t : Tag) : badTagSub t = if t = Tag.void then 2 else if isReservedTag t = true then 3 else 1 := by
  simp [badTagSub]

theorem tagIn_operand_error {s : State} {c r : Nat} {acc : Tag → Bool} (h : tagIn s c r acc = false) :
    operand (curSet s c) r acc = .error (tagTrap r (regTag s c r)
      (if regTag s c r = Tag.void then 2 else if isReservedTag (regTag s c r) = true then 3 else 1)) := by
  rw [← badTagSub_eq]
  exact operand_error h

theorem baseReg_error {t : TaskSet} {r : Nat} (h : (gread t r).tag ≠ Tag.addr) :
    baseReg t r = .error (tagTrap r (gread t r).tag 5) := by simp [baseReg, h]

theorem codeReg_error {t : TaskSet} {r : Nat} (h : (gread t r).tag ≠ Tag.code) :
    codeReg t r = .error (tagTrap r (gread t r).tag 6) := by simp [codeReg, h]

/-- TGET writes the tag of its source as an INT. -/
theorem tgetOf_eq (s : State) (c rd ra : Nat) :
    tgetOf (curSet s c) rd ra = gwrite (curSet s c) rd (TWord.mkInt ((regTag s c ra).setWidth 64)) := by
  rw [tgetOf, BitVec.ofNat_toNat]; rfl

section
variable {s : State} {c : LC} (h : ready s c = true)
include h

/-- An instruction that writes one register with a word its set gives. -/
theorem issueSet_gwrite {z : Size} {f : TaskSet → Ex TaskSet} {rd : Nat} {w : TWord}
    (hf : f (curSet s c) = .ok (gwrite (curSet s c) rd w)) :
    Host.Outcome.next (issueSet s c z f) = (.next (passed s c z (gwrite (curSet s c) rd w)) : Res) :=
  congrArg _ (issueSet_ok h hf)

theorem exec_mov_ok {rd rs : Reg} (hs : tagIn s c rs accAny = true) :
    exec (.mov c rd rs) s = .next (passed s c .short (gwrite (curSet s c) rd (gread (curSet s c) rs))) :=
  issueSet_gwrite h (by rw [operand_ok hs]; rfl)

theorem exec_leai_ok {rd : Reg} (i : BitVec 7) (hb : regTag s c rd = Tag.addr) :
    exec (.leai c rd i) s =
      .next (passed s c .short (gwrite (curSet s c) rd (TWord.mkAddr (regData s c rd + i.signExtend 64 * 8#64)))) :=
  issueSet_gwrite h (by rw [baseReg_ok hb]; rfl)

theorem exec_lea_ok {rd ra : Reg} (i : BitVec 14) (hb : regTag s c ra = Tag.addr) :
    exec (.lea c rd ra i) s =
      .next (passed s c .long (gwrite (curSet s c) rd (TWord.mkAddr (regData s c ra + i.signExtend 64)))) :=
  issueSet_gwrite h (by rw [baseReg_ok hb]; rfl)

theorem exec_adda_ok {rd ra rb : Reg} (sh : BitVec 2) (hb : regTag s c ra = Tag.addr) (hi : tagIn s c rb accA = true) :
    exec (.adda c rd ra rb sh) s =
      .next (passed s c .long (gwrite (curSet s c) rd (TWord.mkAddr (regData s c ra + (regData s c rb <<< sh.toNat))))) :=
  issueSet_gwrite h (by rw [baseReg_ok hb, operand_ok hi]; rfl)

theorem exec_tget (rd ra : Reg) :
    exec (.tget c (.short rd ra)) s =
      .next (passed s c .short (gwrite (curSet s c) rd (TWord.mkInt ((regTag s c ra).setWidth 64)))) ∧
    exec (.tget c (.long rd ra)) s =
      .next (passed s c .long (gwrite (curSet s c) rd (TWord.mkInt ((regTag s c ra).setWidth 64)))) :=
  ⟨issueSet_gwrite h (congrArg _ (tgetOf_eq s c rd ra)), issueSet_gwrite h (congrArg _ (tgetOf_eq s c rd ra))⟩

theorem exec_tset_reserved (rd ra : Reg) {g : Tag} (hg : isReservedTag g = true) :
    exec (.tset c rd ra g) s = .next (raiseTrap s c .long { no := Trap.illegalOp }) :=
  congrArg _ (issueSet_error h (by simp [hg]))

/-- At level U no word becomes an address or a code word (R59, R62). -/
theorem exec_tset_priv (rd ra : Reg) {g : Tag} (hg : g = Tag.addr ∨ g = Tag.code) (hp : (curSet s c).tstat.priv = false) :
    exec (.tset c rd ra g) s = .next (raiseTrap s c .long { no := Trap.priv }) := by
  have hr : isReservedTag g = false := by rcases hg with rfl | rfl <;> decide
  exact congrArg _ (issueSet_error h (by simp [hr, hp, hg]))

theorem exec_tset_ok (rd ra : Reg) {g : Tag} (hg : isReservedTag g = false)
    (hp : g = Tag.addr ∨ g = Tag.code → (curSet s c).tstat.priv = true) (ha : tagIn s c ra accAny = true) :
    exec (.tset c rd ra g) s = .next (passed s c .long (gwrite (curSet s c) rd ⟨regData s c ra, g⟩)) := by
  have hn : (!(curSet s c).tstat.priv && (g == Tag.addr || g == Tag.code)) = false := by
    cases hq : (curSet s c).tstat.priv
    · simpa [hq] using hp
    · rfl
  refine issueSet_gwrite h ?_
  simp only [hg, hn, Bool.false_eq_true, if_false, operand_ok (t := curSet s c) ha]
  rfl

theorem exec_tchk_ok {ra : Reg} {m : Half} (hm : m.getLsbD (regTag s c ra).toNat = true) :
    exec (.tchk c ra m) s = .next (passed s c .long (curSet s c)) :=
  congrArg _ (issueSet_ok h (if_pos hm))

theorem exec_tchk_trap {ra : Reg} {m : Half} (hm : m.getLsbD (regTag s c ra).toNat = false) :
    exec (.tchk c ra m) s =
      .next (raiseTrap s c .long { no := Trap.tagMismatch, sub := 1, opreg := ra, tagf := regTag s c ra }) :=
  congrArg _ (issueSet_error h (if_neg (by simpa [regTag] using hm)))

/-- An instruction whose first source operand is refused traps, whatever it would do with it. -/
theorem issueSet_badOperand {z : Size} {f : TaskSet → Ex TaskSet} {r : Nat} {acc : Tag → Bool} (hr : tagIn s c r acc = false)
    (hf : ∀ e, operand (curSet s c) r acc = .error e → f (curSet s c) = .error e) :
    Host.Outcome.next (issueSet s c z f) = (.next (raiseTrap s c z (tagTrap r (regTag s c r)
      (if regTag s c r = Tag.void then 2 else if isReservedTag (regTag s c r) = true then 3 else 1))) : Res) :=
  congrArg _ (issueSet_error h (hf _ (tagIn_operand_error hr)))

end

theorem classA_error {t : TaskSet} {ra : Nat} {e : TrapRec} (he : operand t ra accA = .error e) (rd rb : Nat)
    (f : Int → Int → Ex Int) : classA t rd ra rb f = .error e := by
  simp only [classA, operands2, he]; rfl

theorem classL_error {t : TaskSet} {ra : Nat} {e : TrapRec} (he : operand t ra accL = .error e) (rd rb : Nat)
    (f : W64 → W64 → W64) : classL t rd ra rb f = .error e := by
  simp only [classL, operands2, he]; rfl

theorem rformA_long (s : State) (c : LC) (rd ra rb : Reg) (op : Int → Int → Ex Int) :
    rformA s c (.long rd ra rb) op = issueSet s c .long (fun t => classA t rd ra rb op) := rfl

theorem rformL_long (s : State) (c : LC) (rd ra rb : Reg) (op : W64 → W64 → W64) :
    rformL s c (.long rd ra rb) op = issueSet s c .long (fun t => classL t rd ra rb op) := rfl

theorem shiftForm_long (t : TaskSet) (rd ra rb : Reg) (k : ShKind) :
    shiftForm t (.long rd ra rb) k = classL t rd ra rb (fun a b => shiftBy k a (b.toNat % 64)) := rfl

theorem decOperands_error {t : TaskSet} {ra : Nat} {e : TrapRec} (he : operand t ra accDec = .error e) (rb : Nat) :
    decOperands t ra rb = .error e := by
  simp only [decOperands, decOperands.operands2', he]; rfl

/-- Settles O6: each instruction's set is computed from its operands' tags, and what the tag checks answer decides between
the write of its one register and its trap. -/
theorem moveAddressTagResults : Obligations.MoveAddressTagResults := by
  refine ⟨fun s c h => ⟨?mov, ?movi, ?consts, ?leai, ?lea, ?adda, ?tget, ?tsetReserved, ?tsetPriv, ?tset, ?tchk, ?tchkTrap, ?rdtime, ?nop⟩,
    fun s c h rd ra rb => ⟨?classA, ?classL, ?dec, ?bfp, ?any, ?base, ?target⟩⟩
  case mov => exact fun rd rs hs => exec_mov_ok h hs
  case movi => exact fun rd i => issueSet_gwrite h rfl
  case consts => exact fun rd i => ⟨issueSet_gwrite h rfl, issueSet_gwrite h rfl, issueSet_gwrite h rfl⟩
  case leai => exact fun rd i hb => exec_leai_ok h i hb
  case lea => exact fun rd ra i hb => exec_lea_ok h i hb
  case adda => exact fun rd ra rb sh hb hi => exec_adda_ok h sh hb hi
  case tget => exact fun rd ra => exec_tget h rd ra
  case tsetReserved => exact fun rd ra g hg => exec_tset_reserved h rd ra hg
  case tsetPriv => exact fun rd ra g hg hp => exec_tset_priv h rd ra hg hp
  case tset => exact fun rd ra g hg hp ha => exec_tset_ok h rd ra hg hp ha
  case tchk => exact fun ra m hm => exec_tchk_ok h hm
  case tchkTrap => exact fun ra m hm => exec_tchk_trap h hm
  case rdtime => exact fun rd => issueSet_gwrite h rfl
  case nop => exact congrArg _ (issueSet_ok h rfl)
  case classA =>
    exact fun ha => ⟨(congrArg _ (rformA_long ..)).trans (issueSet_badOperand h ha fun _ he => classA_error he ..), issueSet_badOperand h ha fun _ he => classA_error he ..,
      issueSet_badOperand h ha fun _ he => classA_error he .., issueSet_badOperand h ha fun _ he => by rw [he]; rfl,
      issueSet_badOperand h ha fun _ he => by rw [he]; rfl⟩
  case classL =>
    exact fun ha => ⟨(congrArg _ (rformL_long ..)).trans (issueSet_badOperand h ha fun _ he => classL_error he ..),
      issueSet_badOperand h ha fun _ he => (shiftForm_long ..).trans (classL_error he ..)⟩
  case dec =>
    intro ha
    have hd : tagIn s c ra accDec = false := by simpa [tagIn, accDec] using ha
    exact ⟨issueSet_badOperand h hd fun _ he => by rw [decOperands_error he]; rfl, issueSet_badOperand h hd fun _ he => by rw [he]; rfl⟩
  case bfp =>
    intro ha
    have hb : tagIn s c ra accBfp = false := by simpa [tagIn, accBfp] using ha
    exact ⟨issueSet_badOperand h hb fun _ he => by rw [he]; rfl, issueSet_badOperand h hb fun _ he => by rw [he]; rfl⟩
  case any => exact fun ha => issueSet_badOperand h ha fun _ he => by rw [he]; rfl
  case base => exact fun ha i => congrArg _ (issueSet_error h (by rw [baseReg_error ha]; rfl))
  case target =>
    exact fun ha => ⟨congrArg _ (issuePc_error h (by rw [codeReg_error ha]; rfl)),
      fun i => congrArg _ (issuePc_error h (by rw [codeReg_error ha]; rfl))⟩

end Sys2Proof.Machine
end

section
/-! The windows of a pip (R40-R42, R419): a closed delivery window still lets the accesses go on whose wait is over. -/

namespace Sys2Proof.Machine

/-- The delivery window of pip 40 has run. LCORE[0] waits for line 0, which no request of its asks for any more, so that its load goes on
at the next occasion; the load's base register is VOID, and its set runs with INTRAP set (R61, R130). -/
def waitedLoad : State :=
  { pins := { resetN := true }
    mode := { mode := 5, base := 5 }
    time := { pip := 40, eventPip := some 40 }
    trios := [(0, { state := .voted })]
    lcores := [(0, { sets := [(0, { tstat := { state := .running, intrap := true } })], started := true, wait := some (0, .ldw 0 1 2 0) })] }

theorem eventWindow_waitedLoad : eventWindow waitedLoad = waitedLoad := if_neg (by decide)

theorem waitedLoad_goesOn : (lcore waitedLoad 0).wait.isSome = true ∧ waitOver waitedLoad 0 0 = true := by decide

/-- The load's trap in a set with INTRAP is the double trap of R130, which raises the core's own source. -/
theorem events_wakeCores_waitedLoad : (wakeCores waitedLoad).events ≠ waitedLoad.events := by decide

/-- Refutes O52: a command of the delivery window that comes after the window has run does not leave the events as they are. It
reissues the access of a core whose wait is over, and the double trap of that instruction raises an event. -/
theorem not_pipAndWindows : ¬ Obligations.PipAndWindows := by
  rintro ⟨-, -, closed, -⟩
  obtain ⟨u, hu, -, hev⟩ := closed waitedLoad (.inr (.inl rfl))
  have hw : wakeCores (eventWindow waitedLoad) = u := Host.Outcome.next.inj hu
  rw [eventWindow_waitedLoad] at hw
  exact events_wakeCores_waitedLoad (hw ▸ hev)

end Sys2Proof.Machine
end

section
/-! RESET_N and standby power: what lasts (R34, R452, R469, R473, R500, R521). -/

namespace Sys2Proof.Machine

/-! ## Tables under a filter and a change of every entry -/

theorem tget_map {α β : Type} (f : α → β) (d : α) (l : List (Nat × α)) (n : Nat) :
    tget (f d) (l.map (fun e => (e.1, f e.2))) n = f (tget d l n) := by
  induction l with
  | nil => rfl
  | cons e t ih =>
    simp only [List.map_cons, tget]
    split
    · rfl
    · split
      · rfl
      · exact ih

theorem tfind_cons {α : Type} (e : Nat × α) (t : List (Nat × α)) (n : Nat) :
    tfind (e :: t) n = if e.1 = n then some e.2 else tfind t n := by
  by_cases h : e.1 = n <;> simp [tfind, h]

/-- The first entry of a number is still the first one of it among those that pass a test it passes. -/
theorem tfind_filter_of_pos {α : Type} {p : Nat × α → Bool} {l : List (Nat × α)} {n : Nat} {x : α} (h : tfind l n = some x)
    (hp : p (n, x) = true) : tfind (l.filter p) n = some x := by
  induction l with
  | nil => cases h
  | cons e t ih =>
    rw [tfind_cons] at h
    split at h
    · next he =>
      cases h; subst he
      rw [List.filter_cons_of_pos hp, tfind_cons, if_pos rfl]
    · next he =>
      by_cases hq : p e = true
      · rw [List.filter_cons_of_pos hq, tfind_cons, if_neg he, ih h]
      · rw [List.filter_cons_of_neg hq, ih h]

theorem tfind_map {α β : Type} (f : α → β) (l : List (Nat × α)) (n : Nat) :
    tfind (l.map (fun e => (e.1, f e.2))) n = (tfind l n).map f := by
  induction l with
  | nil => rfl
  | cons e t ih =>
    rw [List.map_cons, tfind_cons, tfind_cons, ih]
    split <;> rfl

theorem mem_of_tfind {α : Type} {l : List (Nat × α)} {n : Nat} {x : α} (h : tfind l n = some x) : (n, x) ∈ l := by
  obtain ⟨⟨k, y⟩, hf, rfl⟩ := Option.map_eq_some_iff.mp h
  have hk : k = n := by simpa using List.find?_some hf
  exact hk ▸ List.mem_of_find?_eq_some hf

/-! ## Keys that the non-volatile memory keeps (R473) -/

/-- A stored key as the next boot finds it: its draws of IVs start at the next reservation (R474). -/
def nextBootKey (k : KeyE) : KeyE := { k with reserved := (ivRecord k).2.2, drawn := 0, barred := false }

theorem tfind_keptBoot (b : Boot) (h : Nat) :
    tfind (keptBoot b).keys h = (tfind (b.keys.filter (fun e => e.2.stored)) h).map nextBootKey :=
  tfind_map nextBootKey _ h

theorem tfind_keptBoot_of_stored {b : Boot} {h : Nat} {k : KeyE} (hk : tfind b.keys h = some k) (hs : k.stored = true) :
    tfind (keptBoot b).keys h = some (nextBootKey k) := by
  rw [tfind_keptBoot, tfind_filter_of_pos hk hs]; rfl

theorem stored_of_tfind_keptBoot {b : Boot} {h : Nat} {k : KeyE} (hk : tfind (keptBoot b).keys h = some k) : k.stored = true := by
  rw [tfind_keptBoot] at hk
  obtain ⟨x, hx, rfl⟩ := Option.map_eq_some_iff.mp hk
  exact (List.mem_filter.mp (mem_of_tfind hx)).2

/-- What the fuses and the non-volatile memory of `t` have of those of `s`: the SVN count and the revocations, every stored key with its
attributes, and no other key (R470, R473). -/
def NvKept (s t : State) : Prop :=
  t.boot.svnFused = s.boot.svnFused ∧ t.boot.revoked = s.boot.revoked ∧
  (∀ h k, keyE s h = some k → k.stored = true → ∃ x, keyE t h = some x ∧ x.stored = true ∧ x.value = k.value ∧ x.kind = k.kind ∧
    x.dirs = k.dirs ∧ x.mask = k.mask ∧ x.inst = k.inst) ∧
  (∀ h k, keyE t h = some k → k.stored = true)

theorem nvKept_of_keptBoot {s t : State} (h0 : t.boot.svnFused = s.boot.svnFused) (h1 : t.boot.revoked = s.boot.revoked)
    (hk : t.boot.keys = (keptBoot s.boot).keys) : NvKept s t := by
  refine ⟨h0, h1, fun h k hf hs => ⟨nextBootKey k, ?_, hs, rfl, rfl, rfl, rfl, rfl⟩, fun h k hf => ?_⟩
  · rw [keyE, hk]; exact tfind_keptBoot_of_stored hf hs
  · rw [keyE, hk] at hf; exact stored_of_tfind_keptBoot hf

/-! ## The records that are written before the dies enter reset (R452) -/

theorem writeFaults_nil {s : State} (n : Nat) (h : s.faults.waiting = []) : writeFaults n s = s := by
  cases n with
  | zero => rfl
  | succ n => simp only [writeFaults, h]

theorem writeFaults_cons {s : State} (n : Nat) {r : FRecord} {rest : List FRecord} (h : s.faults.waiting = r :: rest) :
    writeFaults (n + 1) s = writeFaults n (modFaults (writeFault s r) (fun f => { f with waiting := rest })) := by
  simp only [writeFaults, h]

/-- Writing the waiting records changes the collector alone, and moves INDEX by their number. -/
theorem writeFaults_frame (l : List FRecord) (s : State) (h : s.faults.waiting = l) : ∃ f, writeFaults l.length s = { s with faults := f } ∧
    f.overflow = s.faults.overflow ∧ f.safeCause = s.faults.safeCause ∧ f.head = s.faults.head + BitVec.ofNat 32 l.length := by
  induction l generalizing s with
  | nil => exact ⟨s.faults, rfl, rfl, rfl, by simp⟩
  | cons r rest ih =>
    obtain ⟨f, hf, ho, hc, hh⟩ := ih (modFaults (writeFault s r) (fun f => { f with waiting := rest })) rfl
    refine ⟨f, (writeFaults_cons _ h).trans hf, ho, hc, hh.trans ?_⟩
    change s.faults.head + 1#32 + BitVec.ofNat 32 rest.length = s.faults.head + BitVec.ofNat 32 (rest.length + 1)
    rw [BitVec.ofNat_add, BitVec.add_comm (BitVec.ofNat 32 rest.length), BitVec.add_assoc]

theorem flushRecords_frame (s : State) : ∃ f, flushRecords s = { s with faults := f } ∧ f.overflow = s.faults.overflow ∧
    f.safeCause = s.faults.safeCause := by
  unfold flushRecords
  split
  · obtain ⟨f, hf, ho, hc, -⟩ := writeFaults_frame s.faults.waiting s rfl
    exact ⟨f, hf, ho, hc⟩
  · exact ⟨s.faults, rfl, rfl, rfl⟩

@[simp] theorem flushRecords_boot (s : State) : (flushRecords s).boot = s.boot := by
  obtain ⟨f, hf, -, -⟩ := flushRecords_frame s; rw [hf]

@[simp] theorem flushRecords_pins (s : State) : (flushRecords s).pins = s.pins := by
  obtain ⟨f, hf, -, -⟩ := flushRecords_frame s; rw [hf]

@[simp] theorem flushRecords_stackTab (s : State) : (flushRecords s).stackTab = s.stackTab := by
  obtain ⟨f, hf, -, -⟩ := flushRecords_frame s; rw [hf]

@[simp] theorem flushRecords_overflow (s : State) : (flushRecords s).faults.overflow = s.faults.overflow := by
  obtain ⟨f, hf, ho, -⟩ := flushRecords_frame s; rw [hf]; exact ho

@[simp] theorem flushRecords_safeCause (s : State) : (flushRecords s).faults.safeCause = s.faults.safeCause := by
  obtain ⟨f, hf, -, hc⟩ := flushRecords_frame s; rw [hf]; exact hc

theorem flushRecords_none {s : State} (h : s.faults.waiting = [] ∨ s.faults.selfOk = false) : flushRecords s = s := by
  unfold flushRecords
  rcases h with h | h
  · rw [writeFaults_nil _ h, ite_self]
  · rw [h]; rfl

theorem flushRecords_head {s : State} (h : s.faults.selfOk = true) :
    (flushRecords s).faults.head = s.faults.head + BitVec.ofNat 32 s.faults.waiting.length := by
  obtain ⟨f, hf, -, -, hh⟩ := writeFaults_frame s.faults.waiting s rfl
  rw [flushRecords, if_pos h, hf]; exact hh

theorem flushRecords_one {s : State} {r : FRecord} (h : s.faults.selfOk = true) (hw : s.faults.waiting = [r]) :
    (flushRecords s).faults.log = tset s.faults.log (s.faults.head.toNat % 4096) (faultRecordBytes s r) := by
  rw [flushRecords, if_pos h, hw]
  exact congrArg (fun t : State => t.faults.log) (writeFaults_cons 0 hw)

/-! ## Reset, loss of standby power and the start -/

/-- Nothing runs, and memory is empty, the model's own choice (LOG 7). -/
def Still (u : State) : Prop :=
  u.lcores = [] ∧ u.parts = [] ∧ u.groups = [] ∧ u.exchs = [] ∧ u.jobs = [] ∧ u.husks = {} ∧ u.mem = {} ∧
    u.time.pip = 0 ∧ u.time.grain = 0 ∧ u.pins.alive = false ∧ u.pins.thermtripN = true

theorem still_resetAssert (s : State) : Still (resetAssert s) := ⟨rfl, rfl, rfl, rfl, rfl, rfl, rfl, rfl, rfl, rfl, rfl⟩

theorem still_standbyLoss (s : State) : Still (standbyLoss s) := ⟨rfl, rfl, rfl, rfl, rfl, rfl, rfl, rfl, rfl, rfl, rfl⟩

theorem resetAssert_boot (s : State) :
    (resetAssert s).boot = { keptBoot s.boot with meas := s.boot.meas, stages := s.boot.stages } := by simp [resetAssert]

theorem resetAssert_log (s : State) : (resetAssert s).faults.log = (flushRecords s).faults.log := rfl
theorem resetAssert_head (s : State) : (resetAssert s).faults.head = (flushRecords s).faults.head := rfl

theorem nvKept_resetAssert (s : State) : NvKept s (resetAssert s) :=
  nvKept_of_keptBoot (by rw [resetAssert_boot]; rfl) (by rw [resetAssert_boot]; rfl) (by rw [resetAssert_boot])

theorem nvKept_standbyLoss (s : State) : NvKept s (standbyLoss s) := nvKept_of_keptBoot rfl rfl rfl

theorem pendingWeight_resetAssert (s : State) (j : Nat) : (stack (resetAssert s) j).pendingWeight = (stack s j).pendingWeight := by
  let kept := fun x : Stack => ({ pendingWeight := x.pendingWeight } : Stack)
  have h : stack (resetAssert s) j = tget (kept {}) (s.stackTab.map (fun e => (e.1, kept e.2))) j := by
    rw [← flushRecords_stackTab s]; rfl
  rw [h, tget_map kept]; rfl

/-- The boot has begun: one boot more is counted, the ROM is measured into register 0 and chained into 7, and the other measurement
registers are clear (R469). -/
def Started (s u : State) : Prop :=
  u.ident.boot = (s.ident.boot + 1) % 65536 ∧ u.boot.stages = 1 ∧ u.boot.keys = s.boot.keys ∧
    measOf u 0 = sha384 (Config.romBytes 0) ∧ (∀ i, 1 ≤ i → i ≤ 6 → measOf u i = List.replicate 48 0#8) ∧
    measOf u 7 = sha384 (List.replicate 48 0#8 ++ sha384 (Config.romBytes 0))

theorem measOf_measure (s : State) (k : Nat) (bs : List Byte) (i : Nat) : measOf (measure s k bs) i =
    if i = 7 then sha384 (measOf s 7 ++ sha384 bs) else if i = k then sha384 bs else measOf s i := by
  simp only [measOf, measure, modBoot, tget_tset]

theorem started_startModule (s : State) : Started s (startModule s) := by
  refine ⟨rfl, rfl, rfl, ?_, fun i h1 h6 => ?_, ?_⟩
  · rw [startModule, measOf_measure, if_neg (by omega), if_pos rfl]
  · rw [startModule, measOf_measure, if_neg (by omega), if_neg (by omega)]; rfl
  · rw [startModule, measOf_measure, if_pos rfl]; rfl

theorem exec_resetNAssert {s : State} (hr : s.pins.resetN = true) (hg : s.pins.standbyGood = true) :
    exec .resetNAssert s = .next (resetAssert s) := by simp [exec, execResetNAssert, hr, hg]

theorem exec_resetNRelease {s : State} (m : BitVec 3) (hr : s.pins.resetN = false) (hg : s.pins.standbyGood = true) :
    exec (.resetNRelease m) s = .next (startModule (modPins s (fun p => { p with resetN := true, mbaddr := m }))) := by
  simp [exec, execResetNRelease, hr, hg]

theorem exec_standbyPowerLoss {s : State} (hg : s.pins.standbyGood = true) : exec .standbyPowerLoss s = .next (standbyLoss s) := by
  simp [exec, execStandbyPowerLoss, hg]

/-- M1, with standby power in range. -/
def poweredUp (s : State) : State := modModeS (modPins s (fun p => { p with standbyGood := true })) (fun m => { m with mode := 1 })

theorem exec_standbyPowerGood_started {s : State} (hg : s.pins.standbyGood = false) (hr : s.pins.resetN = true) :
    exec .standbyPowerGood s = .next (startModule (poweredUp s)) := by simp [exec, execStandbyPowerGood, poweredUp, hg, hr]

theorem exec_standbyPowerGood_held {s : State} (hg : s.pins.standbyGood = false) (hr : s.pins.resetN = false) :
    exec .standbyPowerGood s = .next (poweredUp s) := by simp [exec, execStandbyPowerGood, poweredUp, hg, hr]

/-- Settles O54: reset and loss of standby power put the module back to what it is made of, but for what R521 keeps, and each
release or return of power that starts it goes through `startModule`. -/
theorem resetAndPower : Obligations.ResetAndPower := by
  refine ⟨fun s hr hg => ⟨resetAssert s, exec_resetNAssert hr hg, rfl, ?standby, rfl, still_resetAssert s, nvKept_resetAssert s, ?meas, rfl,
      rfl, rfl, rfl, rfl, flushRecords_overflow s, flushRecords_safeCause s, fun h => ?unwritten,
      fun h => ⟨flushRecords_head h, fun r hw => flushRecords_one h hw⟩, pendingWeight_resetAssert s⟩,
    fun s => ⟨fun hr => ?lowAlready, fun hr hg => ?unpowered⟩,
    fun s m => ⟨fun hr hg => ⟨_, exec_resetNRelease m hr hg, rfl, rfl, rfl, rfl, rfl, started_startModule _⟩, fun hr hg => ?releasedCold,
      fun hr => ?highAlready⟩,
    fun s => ⟨fun hg => ⟨standbyLoss s, exec_standbyPowerLoss hg, rfl, rfl, rfl, rfl, still_standbyLoss s, nvKept_standbyLoss s, rfl, rfl,
      fun j => rfl⟩, fun hg => ?lostAlready⟩,
    fun s => ⟨fun hg => ?goodAlready, fun hg => ?returns⟩⟩
  case standby => exact (congrArg Pins.standbyGood (flushRecords_pins s)).trans hg
  case meas => rw [resetAssert_boot]
  case unwritten => rw [resetAssert_log, resetAssert_head, flushRecords_none h]; exact ⟨rfl, rfl⟩
  case lowAlready => simp [exec, execResetNAssert, hr]
  case unpowered => simp [exec, execResetNAssert, hr, hg, modPins]
  case releasedCold => simp [exec, execResetNRelease, hr, hg, modPins]
  case highAlready => simp [exec, execResetNRelease, hr]
  case lostAlready => simp [exec, execStandbyPowerLoss, hg]
  case goodAlready => simp [exec, execStandbyPowerGood, hg]
  case returns =>
    cases hr : s.pins.resetN with
    | true => exact ⟨_, exec_standbyPowerGood_started hg hr, rfl, hr, rfl, fun _ => started_startModule _, by simp⟩
    | false => exact ⟨_, exec_standbyPowerGood_held hg hr, rfl, hr, rfl, by simp, fun _ => ⟨rfl, rfl⟩⟩

end Sys2Proof.Machine
end

section
/-! Only a pip's own commands and the pins write the time base (R32-R34, R40-R42): no other operation of the model does. The frame lemmas
`f_time` say so one operation at a time, in the order of the model, from the shared combinators up to what the pip's edge and its windows run. -/

namespace Sys2Proof.Machine

@[simp] theorem foldl_time {α : Type} (f : State → α → State) (l : List α) (s : State) (hf : ∀ s x, (f s x).time = s.time) :
    (l.foldl f s).time = s.time := by
  induction l generalizing s with
  | nil => rfl
  | cons x l ih => rw [List.foldl_cons, ih, hf]

@[simp] theorem forEach_time (s : State) (l : List Nat) (f : State → Nat → State) (hf : ∀ s n, (f s n).time = s.time) :
    (forEach s l f).time = s.time := foldl_time f l s hf

@[simp] theorem ite_time {p : Prop} [Decidable p] (s t : State) : (if p then s else t).time = if p then s.time else t.time :=
  apply_ite State.time p s t

theorem time_of_fst {α : Type} {s t : State} {p : State × α} {x : α} (h : p = (t, x)) (hp : p.1.time = s.time) :
    t.time = s.time := by subst h; exact hp

theorem time_of_some {s t : State} {o : Option State} (h : o = some t) (ho : (o.getD s).time = s.time) :
    t.time = s.time := by subst h; exact ho

/-- A handler that leaves the time base as it is, whether it succeeds or refuses. -/
def KeepsTime (h : Handler) : Prop := ∀ s q, ((h s q).stateOr s).time = s.time

@[simp] theorem useFree_time (s : State) : (useFree s).1.time = s.time := by simp [useFree]
@[simp] theorem setMode_time (s : State) (m : Nat) : (setMode s m).time = s.time := by simp [setMode]
@[simp] theorem settle_time (s : State) : (settle s).time = s.time := by simp [settle]
@[simp] theorem whenServing_time (s x : State) (h : x.time = s.time) : (whenServing s x).time = s.time := by simp [whenServing, h]
@[simp] theorem modHusk_time (s : State) (h : HuskId) (f : Husk → Husk) : (modHusk s h f).time = s.time := by rfl
@[simp] theorem report_time (s : State) (pt detail : Nat) : (report s pt detail).time = s.time := by simp [report]
@[simp] theorem raiseMaskAt_time (s : State) (k die src : Nat) (m : W32) : (raiseMaskAt s k die src m).time = s.time := by rfl
@[simp] theorem raiseMask_time (s : State) (src : Nat) (m : W32) : (raiseMask s src m).time = s.time := by simp [raiseMask]
@[simp] theorem raiseFrom_time (s : State) (die src cause : Nat) : (raiseFrom s die src cause).time = s.time := by simp [raiseFrom]
@[simp] theorem raise_time (s : State) (src cause : Nat) : (raise s src cause).time = s.time := by simp [raise]
@[simp] theorem notice_time (s : State) (p cause object : Nat) : (notice s p cause object).time = s.time := by simp [notice]
@[simp] theorem modSet_time (s : State) (c k : Nat) (f : TaskSet → TaskSet) : (modSet s c k f).time = s.time := by rfl
@[simp] theorem modCur_time (s : State) (c : Nat) (f : TaskSet → TaskSet) : (modCur s c f).time = s.time := by rfl

end Sys2Proof.Machine
end

section
/-! What leaves the time base as it is: caches, homes and the messages between them. -/

namespace Sys2Proof.Machine

@[simp] theorem l1Clear_time (s : State) (k : Nat) : (l1Clear s k).time = s.time := by rfl
@[simp] theorem l1Drop_time (s : State) (a ln : Nat) : (l1Drop s a ln).time = s.time := by simp [l1Drop]
@[simp] theorem pickLine_time (s : State) (l : List Nat) : (pickLine s l).1.time = s.time := by simp [pickLine]
@[simp] theorem setL1_time (s : State) (inst : Bool) (n : Nat) (l : List Nat) : (setL1 s inst n l).time = s.time := by rfl

@[simp] theorem l1Put_time (ln : Nat) (inst : Bool) (s : State) (n : Nat) : (l1Put ln inst s n).time = s.time := by
  unfold l1Put; dsimp only; (repeat' split) <;> simp

@[simp] theorem l1Into_time (s : State) (a ln : Nat) (inst : Bool) : (l1Into s a ln inst).time = s.time := by simp [l1Into]
@[simp] theorem l1Fill_time (s : State) (a ln : Nat) : (l1Fill s a ln).time = s.time := by simp [l1Fill]
@[simp] theorem l1Invalidate_time (s : State) (a : Nat) (both : Bool) : (l1Invalidate s a both).time = s.time := by simp [l1Invalidate]
@[simp] theorem setL2_time (s : State) (a ln : Nat) (x : L2Line) : (setL2 s a ln x).time = s.time := by simp [setL2]
@[simp] theorem setL2St_time (s : State) (a ln : Nat) (x : L2St) : (setL2St s a ln x).time = s.time := by simp [setL2St]
@[simp] theorem modHome_time (s : State) (ln : Nat) (f : Home → Home) : (modHome s ln f).time = s.time := by rfl
@[simp] theorem setHomeSt_time (s : State) (ln : Nat) (x : HomeSt) : (setHomeSt s ln x).time = s.time := by rfl
@[simp] theorem domainPacket_time (s : State) (k : Nat) : (domainPacket s k).time = s.time := by unfold domainPacket; split <;> simp
@[simp] theorem linePacket_time (s : State) (ln : Nat) : (linePacket s ln).time = s.time := by unfold linePacket; split <;> simp

@[simp] theorem memWriteLine_time (s0 : State) (ln : Nat) (l : Line) : (memWriteLine s0 ln l).time = s0.time := by
  unfold memWriteLine; dsimp only; (repeat' split) <;> simp

@[simp] theorem fillL3_time (s : State) (ln : Nat) : (fillL3 s ln).time = s.time := by rfl
@[simp] theorem writeL3_time (s : State) (ln : Nat) (l : Line) : (writeL3 s ln l).time = s.time := by rfl
@[simp] theorem cleanL3_time (s : State) (ln : Nat) : (cleanL3 s ln).time = s.time := by unfold cleanL3; dsimp only; split <;> simp
@[simp] theorem dropL3_time (s : State) (ln : Nat) : (dropL3 s ln).time = s.time := by rfl
@[simp] theorem sendAll_time (s : State) (ms : List CohMsg) : (sendAll s ms).time = s.time := by rfl
@[simp] theorem send_time (s : State) (m : CohMsg) : (send s m).time = s.time := by simp [send]

@[simp] theorem impossible_time (s : State) (k : MsgKind) (agent ln : Nat) (atHome : Bool) :
    (impossible s k agent ln atHome).time = s.time := by
  simp [impossible]

@[simp] theorem returnCredit_time (s : State) (a ln k : Nat) : (returnCredit s a ln k).time = s.time := by
  unfold returnCredit; split <;> simp

@[simp] theorem coreReply_time (s : State) (c ln : Nat) (isolated : Bool) : (coreReply s c ln isolated).time = s.time := by
  unfold coreReply; split <;> simp

@[simp] theorem predMove_time (s : State) (a pa : Nat) (up : Bool) : (predMove s a pa up).time = s.time := by simp [predMove]
@[simp] theorem amoAnswer_time (s : State) (m : CohMsg) : (amoAnswer s m).time = s.time := by unfold amoAnswer; (repeat' split) <;> simp
@[simp] theorem l2Recv_time (s : State) (m : CohMsg) : (l2Recv s m).time = s.time := by unfold l2Recv; dsimp only; (repeat' split) <;> simp
@[simp] theorem invalAll_time (s : State) (ln : Nat) (l : List Nat) : (invalAll s ln l).time = s.time := by simp [invalAll]

@[simp] theorem performTake_time (s : State) (ln : Nat) (r : HomeReq) : (performTake s ln r).time = s.time := by
  unfold performTake; dsimp only; (repeat' split) <;> simp

@[simp] theorem homeRdOwn_time (s : State) (ln : Nat) (a : Nat) (zero : Bool) (x : HStable) : (homeRdOwn s ln a zero x).time = s.time := by
  unfold homeRdOwn; split <;> simp

@[simp] theorem homeTake_time (s : State) (ln : Nat) (r : HomeReq) (x : HStable) : (homeTake s ln r x).time = s.time := by
  unfold homeTake; split <;> simp

@[simp] theorem homeRequest_time (s : State) (ln : Nat) (r : HomeReq) (x : HStable) : (homeRequest s ln r x).time = s.time := by
  unfold homeRequest; (repeat' split) <;> simp

@[simp] theorem drainFrom_time (n : Nat) (s : State) (ln : Nat) : (drainFrom n s ln).time = s.time := by
  induction n generalizing s with
  | zero => rfl
  | succ n ih => unfold drainFrom; dsimp only; (repeat' split) <;> simp [ih]

@[simp] theorem drainHome_time (s : State) (ln : Nat) : (drainHome s ln).time = s.time := by simp [drainHome]

@[simp] theorem homeRecvReq_time (s : State) (ln : Nat) (r : HomeReq) : (homeRecvReq s ln r).time = s.time := by
  unfold homeRecvReq; split <;> simp

@[simp] theorem homeBecomes_time (s : State) (ln : Nat) (x : HStable) : (homeBecomes s ln x).time = s.time := by simp [homeBecomes]

@[simp] theorem applyEvict_time (s : State) (ln : Nat) (m : CohMsg) : (applyEvict s ln m).time = s.time := by
  unfold applyEvict; split <;> simp

@[simp] theorem homeEvict_time (s : State) (m : CohMsg) : (homeEvict s m).time = s.time := by unfold homeEvict; dsimp only; split <;> simp

@[simp] theorem fwdDone_time (s : State) (ln : Nat) (r : HomeReq) (base : HStable) (gone : List Nat) :
    (fwdDone s ln r base gone).time = s.time := by
  unfold fwdDone; split <;> simp

@[simp] theorem homeInvalAck_time (s : State) (a ln : Nat) : (homeInvalAck s a ln).time = s.time := by
  unfold homeInvalAck; (repeat' split) <;> simp

@[simp] theorem homeDataRecv_time (s : State) (m : CohMsg) : (homeDataRecv s m).time = s.time := by
  unfold homeDataRecv; dsimp only; split <;> simp

@[simp] theorem homeCmpRecv_time (s : State) (a ln : Nat) : (homeCmpRecv s a ln).time = s.time := by unfold homeCmpRecv; split <;> simp

@[simp] theorem isoEnd_time (s : State) (r : HomeReq) (ln : Nat) : (isoEnd s r ln).time = s.time := by
  unfold isoEnd; dsimp only; (repeat' split) <;> simp

@[simp] theorem homeAnswerIso_time (s : State) (a ln : Nat) : (homeAnswerIso s a ln).time = s.time := by
  unfold homeAnswerIso; split <;> simp

@[simp] theorem atHull_time (s : State) (l : List Nat) (f : Hull → Hull) : (atHull s l f).time = s.time := by unfold atHull; split <;> simp
@[simp] theorem countIso_time (s : State) (h ln : Nat) : (countIso s h ln).time = s.time := by simp [countIso]
@[simp] theorem evictIsolated_time (s : State) (a ln : Nat) : (evictIsolated s a ln).time = s.time := by simp [evictIsolated]
@[simp] theorem removeMsg_time (s : State) (m : CohMsg) : (removeMsg s m).time = s.time := by rfl
@[simp] theorem deliver_time (s : State) (m : CohMsg) : (deliver s m).time = s.time := by unfold deliver; split <;> simp

@[simp] theorem move_time (s : State) (m : CohMsg) : ((move s m).getD s).time = s.time := by
  unfold move; dsimp only; (repeat' split) <;> simp

@[simp] theorem runLine_time (n : Nat) (s : State) (ln : Nat) : (runLine n s ln).time = s.time := by
  induction n generalizing s with
  | zero => rfl
  | succ n ih =>
    unfold runLine; split
    · rfl
    · next s1 h =>
      obtain ⟨m, -, hm⟩ := List.exists_of_findSome?_eq_some h
      split at hm
      · rw [ih, time_of_some hm (move_time s m)]
      · cases hm

@[simp] theorem l2Store_time (s : State) (a ln k : Nat) (c : CWord) : (l2Store s a ln k c).time = s.time := by simp [l2Store]
@[simp] theorem victimTake_time (s : State) (ln : Nat) : (victimTake s ln).time = s.time := by unfold victimTake; split <;> simp
@[simp] theorem trimL3_time (s : State) (ln : Nat) : (trimL3 s ln).time = s.time := by unfold trimL3; dsimp only; (repeat' split) <;> simp

@[simp] theorem trimDir_time (s : State) (ln : Nat) : (trimDir s ln).time = s.time := by
  unfold trimDir; dsimp only; (repeat' split) <;> simp

@[simp] theorem settleLine_time (s : State) (ln : Nat) : (settleLine s ln).time = s.time := by simp [settleLine]

@[simp] theorem startEvict_time (s : State) (a ln : Nat) : (startEvict s a ln).time = s.time := by
  unfold startEvict; dsimp only; split <;> simp

@[simp] theorem evictRun_time (s : State) (a ln : Nat) : (evictRun s a ln).time = s.time := by simp [evictRun]

@[simp] theorem makeRoom_time (s : State) (a ln : Nat) : ((makeRoom s a ln).getD s).time = s.time := by
  unfold makeRoom; dsimp only; (repeat' split) <;> simp

@[simp] theorem requestState_time (s : State) (o : OutReq) : (requestState s o).time = s.time := by
  unfold requestState; dsimp only; split <;> simp

@[simp] theorem bounce_time (s : State) (o : OutReq) : (bounce s o).time = s.time := by simp [bounce]

@[simp] theorem inject_time (s : State) (o : OutReq) : ((inject s o).getD s).time = s.time := by
  unfold inject; dsimp only; split
  · simp
  · split
    · rfl
    · split
      · rfl
      · next s1 h =>
        have h1 : s1.time = s.time := by
          split at h
          · exact time_of_some h (by simp)
          · cases h; rfl
        simp [h1]

@[simp] theorem launch_time (s : State) (o : OutReq) : (launch s o).time = s.time := by
  unfold launch; dsimp only; split
  · next s1 h =>
    have h1 := time_of_some h (inject_time s o)
    split <;> simp [h1]
  · simp

@[simp] theorem pump_time (s : State) : (pump s).time = s.time := by
  refine foldl_time _ _ _ fun s o => ?_
  dsimp only; split
  · next s1 h =>
    have h1 := time_of_some h (inject_time _ o)
    split <;> simp [h1]
  · rfl

@[simp] theorem obtain_time (s : State) (c ln : Nat) (own zero : Bool) : (obtain s c ln own zero).time = s.time := by
  unfold obtain; dsimp only; (repeat' split) <;> simp

@[simp] theorem ioPackets_time (s : State) (pa n : Nat) : (ioPackets s pa n).time = s.time := by simp [ioPackets]

@[simp] theorem ioWriteLine_time (s : State) (d ln : Nat) (bs : List Byte) (mask : BitVec 128) (alloc : Bool) :
    (ioWriteLine s d ln bs mask alloc).time = s.time := by
  simp [ioWriteLine]

@[simp] theorem ioWrite_time (alloc : Bool) (n : Nat) (s : State) (d pa : Nat) (bs : List Byte) :
    (ioWrite alloc n s d pa bs).time = s.time := by
  induction n generalizing s pa bs with
  | zero => rfl
  | succ n ih => cases bs with
    | nil => rfl
    | cons b bs => simp [ioWrite, ih]

@[simp] theorem ioWriteBytes_time (s : State) (d pa : Nat) (bs : List Byte) (alloc : Bool) :
    (ioWriteBytes s d pa bs alloc).time = s.time := by
  simp [ioWriteBytes]

@[simp] theorem cutHome_time (gone : Nat → Nat → Bool) (forget : Bool) (s : State) (ln : Nat) :
    (cutHome gone forget s ln).time = s.time := by
  unfold cutHome; dsimp only; split <;> simp

@[simp] theorem cutRequests_time (gone : Nat → Nat → Bool) (s : State) : (cutRequests gone s).time = s.time := by simp [cutRequests]

end Sys2Proof.Machine
end

section
/-! What leaves the time base as it is: traps and the issue of instructions. -/

namespace Sys2Proof.Machine

@[simp] theorem fetchNext_time (s : State) (c : Nat) : (fetchNext s c).time = s.time := by unfold fetchNext; dsimp only; split <;> simp

@[simp] theorem doubleTrap_time (s : State) (c : Nat) : (doubleTrap s c).1.time = s.time := by
  unfold doubleTrap; dsimp only; (repeat' split) <;> simp

@[simp] theorem advance_time (s : State) (c : Nat) : (advance s c).time = s.time := by simp [advance]

@[simp] theorem takeTrap_time (n : Nat) (s : State) (c : Nat) (r : TrapRec) (tepc : W64) (long : Bool) :
    (takeTrap n s c r tepc long).time = s.time := by
  induction n generalizing s r tepc long with
  | zero => rfl
  | succ n ih => unfold takeTrap; dsimp only; (repeat' split) <;> simp [ih]

@[simp] theorem enterPending_time (s : State) (c : Nat) (passed : Bool) : (enterPending s c passed).time = s.time := by
  unfold enterPending; split <;> simp

@[simp] theorem retire_time (s : State) (c k : Nat) : (retire s c k).time = s.time := by simp [retire]
@[simp] theorem raiseTrap_time (s : State) (c : Nat) (z : Size) (r : TrapRec) : (raiseTrap s c z r).time = s.time := by simp [raiseTrap]
@[simp] theorem takeFpTrap_time (s : State) (c : Nat) (z : Size) : (takeFpTrap s c z).time = s.time := by simp [takeFpTrap]

end Sys2Proof.Machine
end

section
/-! What leaves the time base as it is: events, translation and engine jobs. -/

namespace Sys2Proof.Machine

@[simp] theorem dropWrite_time (s : State) (p : Nat) : (dropWrite s p).time = s.time := by rfl
@[simp] theorem evPendingWrite_time (s : State) (p e : Nat) (v : W64) : (evPendingWrite s p e v).time = s.time := by simp [evPendingWrite]
@[simp] theorem evTake_time (s : State) (p e : Nat) : (evTake s p e).1.time = s.time := by unfold evTake; split <;> simp
@[simp] theorem evBindWrite_time (s : State) (p e : Nat) (v : W64) : (evBindWrite s p e v).time = s.time := by simp [evBindWrite]
@[simp] theorem mbxSend_time (s : State) (c k : Nat) (v : W64) : (mbxSend s c k v).time = s.time := by unfold mbxSend; split <;> simp
@[simp] theorem sendStatusClear_time (s : State) (c k : Nat) (v : W64) : (sendStatusClear s c k v).time = s.time := by rfl
@[simp] theorem mbxDbTake_time (s : State) (p m : Nat) : (mbxDbTake s p m).1.time = s.time := by unfold mbxDbTake; split <;> simp
@[simp] theorem mbxRelease_time (s : State) (m : Nat) (v : W64) : (mbxRelease s m v).time = s.time := by rfl

@[simp] theorem abortOne_time (s : State) (m : Nat) (x : Sender) (sentEpoch : Nat) : (abortOne s m x sentEpoch).time = s.time := by
  simp [abortOne]

@[simp] theorem mbxReset_time (s : State) (m : Nat) : (mbxReset s m).time = s.time := by simp [mbxReset]
@[simp] theorem mbxCtrl_time (s : State) (p m : Nat) (v : W64) : (mbxCtrl s p m v).time = s.time := by simp [mbxCtrl]
@[simp] theorem mbxStatusClear_time (s : State) (p m : Nat) (v : W64) : (mbxStatusClear s p m v).time = s.time := by simp [mbxStatusClear]
@[simp] theorem mbxDbMaskWrite_time (s : State) (p m : Nat) (v : W64) : (mbxDbMaskWrite s p m v).time = s.time := by simp [mbxDbMaskWrite]
@[simp] theorem deliverSend_time (s : State) (q : Send) : (deliverSend s q).time = s.time := by simp [deliverSend]
@[simp] theorem queueVector_time (s : State) (c k v : Nat) : (queueVector s c k v).time = s.time := by rfl

@[simp] theorem deliverVector_time (s : State) (e : Nat) : (deliverVector s e).time = s.time := by
  unfold deliverVector; (repeat' split) <;> simp

@[simp] theorem stageSet_time (s : State) (c k : Nat) : (stageSet s c k).time = s.time := by
  unfold stageSet; dsimp only; (repeat' split) <;> simp

@[simp] theorem stageAll_time (s : State) : (stageAll s).time = s.time := by simp [stageAll]
@[simp] theorem deliveryWindow_time (s : State) : (deliveryWindow s).time = s.time := by simp [deliveryWindow]

@[simp] theorem ioTranslate_time (s : State) (d sl : Nat) (iova : W64) (n : Nat) (wr : Bool) :
    (ioTranslate s d sl iova n wr).1.time = s.time := by
  unfold ioTranslate; dsimp only; (repeat' split) <;> simp

@[simp] theorem noteFault_time (s : State) (sl reason : Nat) : (noteFault s sl reason).time = s.time := by rfl
@[simp] theorem ioCount_time (s : State) (d pa n : Nat) : (ioCount s d pa n).time = s.time := by unfold ioCount; split <;> simp

@[simp] theorem ioReadChunks_time (k : Nat) (s : State) (d sl iova n : Nat) (acc : List Byte) :
    (ioReadChunks k s d sl iova n acc).1.time = s.time := by
  induction k generalizing s iova n acc with
  | zero => rfl
  | succ k ih =>
    unfold ioReadChunks; split
    · rfl
    · dsimp only; split
      · next s1 r h => simp [time_of_fst h (ioTranslate_time ..)]
      · next s1 pa h =>
        have h1 := time_of_fst h (ioTranslate_time ..)
        split <;> simp [ih, h1]

@[simp] theorem ioReadV_time (s : State) (d sl iova n : Nat) : (ioReadV s d sl iova n).1.time = s.time := by simp [ioReadV]
@[simp] theorem logPage_time (s : State) (d sl iova : Nat) : (logPage s d sl iova).time = s.time := by simp [logPage]

@[simp] theorem ioWriteChunks_time (alloc : Bool) (k : Nat) (s : State) (d sl iova : Nat) (bs : List Byte) :
    (ioWriteChunks alloc k s d sl iova bs).1.time = s.time := by
  induction k generalizing s iova bs with
  | zero => rfl
  | succ k ih => cases bs with
    | nil => rfl
    | cons b bs =>
      unfold ioWriteChunks; dsimp only; split
      · next s1 r h => simp [time_of_fst h (ioTranslate_time ..)]
      · next s1 pa h =>
        have h1 := time_of_fst h (ioTranslate_time ..)
        split <;> simp [ih, h1]

@[simp] theorem ioWriteV_time (s : State) (d sl iova : Nat) (bs : List Byte) (alloc : Bool) :
    (ioWriteV s d sl iova bs alloc).1.time = s.time := by
  simp [ioWriteV]

@[simp] theorem modInv_time (s : State) (p k : Nat) (f : InvSlot → InvSlot) : (modInv s p k f).time = s.time := by rfl
@[simp] theorem dropLeaves_time (s : State) (sl iova pages : Nat) : (dropLeaves s sl iova pages).time = s.time := by rfl
@[simp] theorem invCsrWrite_time (s : State) (p k : Nat) (v : W64) : (invCsrWrite s p k v).time = s.time := by simp [invCsrWrite]
@[simp] theorem invWrite_time (s : State) (p k which : Nat) (v : W64) : (invWrite s p k which v).time = s.time := by simp [invWrite]

@[simp] theorem ioWriteParts_time (s : State) (d sl : Nat) (l : List (Nat × List Byte)) : (ioWriteParts s d sl l).1.time = s.time := by
  induction l generalizing s with
  | nil => rfl
  | cons p l ih =>
    unfold ioWriteParts; split
    · next s1 h => rw [ih, time_of_fst h (ioWriteV_time ..)]
    · simp

@[simp] theorem writeResult_time (s : State) (d sl base : Nat) (parts : List (Nat × List Byte)) (stamp : W64) (word : Nat) :
    (writeResult s d sl base parts stamp word).1.time = s.time := by
  simp [writeResult]

@[simp] theorem readInput_time (s : State) (die sl : Nat) (d : Desc) : (readInput s die sl d).1.time = s.time := by
  unfold readInput; split
  · next s1 e h => exact time_of_fst h (ioReadV_time ..)
  · next s1 bs h => split <;> exact time_of_fst h (ioReadV_time ..)

@[simp] theorem jobOutput_time (s : State) (sl : Nat) (j : Job) : (jobOutput s sl j).1.time = s.time := by
  unfold jobOutput; dsimp only; split
  · rfl
  · rfl
  · split
    · next s1 c h => exact time_of_fst h (readInput_time ..)
    · next s1 inp h => exact time_of_fst h (readInput_time ..)

end Sys2Proof.Machine
end

section
/-! What leaves the time base as it is: paths and frames. -/

namespace Sys2Proof.Machine

@[simp] theorem choosePath_time (s : State) (g : Nat) (except_ : Option Nat) : (choosePath s g except_).1.time = s.time := by
  unfold choosePath; dsimp only; split
  · rfl
  · exact forEach_time _ _ _ fun _ _ => rfl

@[simp] theorem resetCur_time (s : State) (g : Nat) : (resetCur s g).time = s.time := forEach_time _ _ _ fun _ _ => rfl

@[simp] theorem startRekey_time (s : State) (g : Nat) : (startRekey s g).time = s.time := by
  unfold startRekey; dsimp only; split
  · rfl
  · exact forEach_time _ _ _ fun _ _ => rfl

@[simp] theorem putFrame_time (s : State) (n : Nat) (f : TxFrame) : (putFrame s n f).time = s.time := by
  unfold putFrame; dsimp only; split <;> simp

@[simp] theorem sendFrame_time (s : State) (n ftype : Nat) (sequenced : Bool) (tag : W64) (body : List Byte) (last : Bool) :
    (sendFrame s n ftype sequenced tag body last).time = s.time := by
  simp [sendFrame]

@[simp] theorem sendOrQueue_time (s : State) (n ftype : Nat) (tag : W64) (body : List Byte) :
    (sendOrQueue s n ftype tag body).time = s.time := by
  simp [sendOrQueue]

@[simp] theorem noteChain_time (s : State) (e : Exch) (r : ExRes) : (noteChain s e r).time = s.time := by unfold noteChain; split <;> simp

@[simp] theorem decideWith_time (s : State) (x : ExId) (r : ExRes) : (decideWith s x r).time = s.time := by
  unfold decideWith; split <;> simp

@[simp] theorem decideExchange_time (s : State) (x : ExId) (code detail : Nat) : (decide_ s x code detail).time = s.time := by
  simp [decide_]

@[simp] theorem setChainPath_time (s : State) (e : Exch) (k : Nat) : (setChainPath s e k).time = s.time := by
  unfold setChainPath; split <;> simp

@[simp] theorem moveTo_time (s : State) (e : Exch) (k : Nat) : (moveTo s e k).time = s.time := by simp [moveTo]

@[simp] theorem promote_time (s : State) (x : ExId) : (promote s x).time = s.time := by
  unfold promote; split
  · rfl
  · split
    · rfl
    · split
      · rfl
      · split
        · simp
        · split
          · split
            · split <;> simp
            · split
              · rfl
              · split
                · next s1 k h => simp [time_of_fst h (choosePath_time ..)]
                · rfl
          · split
            · next s1 k h => simp [time_of_fst h (choosePath_time ..)]
            · rfl

@[simp] theorem abortLater_time (s : State) (e : Exch) : (abortLater s e).time = s.time := by unfold abortLater; split <;> simp
@[simp] theorem promoteAll_time (s : State) : (promoteAll s).time = s.time := by simp [promoteAll]

@[simp] theorem sendAbort_time (s : State) (x : ExId) (cause : Nat) : (sendAbort s x cause).time = s.time := by
  unfold sendAbort; split <;> simp

@[simp] theorem rerunInline_time (s : State) (e : Exch) : (rerunInline s e).time = s.time := by simp [rerunInline]

@[simp] theorem restartOn_time (s : State) (x : ExId) (k : Option Nat) : (restartOn s x k).time = s.time := by
  unfold restartOn; dsimp only; (repeat' split) <;> simp

@[simp] theorem redrive_time (s : State) (lost : Option Nat) (x : ExId) : (redrive s lost x).time = s.time := by
  unfold redrive; split
  · rfl
  · split
    · simp
    · split
      · split
        · next s1 k h => simp [time_of_fst h (choosePath_time ..)]
        · simp
      · split <;> simp

@[simp] theorem sendGone_time (s : State) (n : Nat) : (sendGone s n).time = s.time := by unfold sendGone; dsimp only; split <;> simp
@[simp] theorem sendQuery_time (s : State) (g : Nat) : (sendQuery s g).time = s.time := by unfold sendQuery; split <;> simp
@[simp] theorem requeue_time (s : State) (g n : Nat) : (requeue s g n).time = s.time := by rfl

@[simp] theorem losePath_time (s : State) (n reason shown : Nat) : (losePath s n reason shown).time = s.time := by
  unfold losePath; dsimp only; split <;> simp

@[simp] theorem rekeySwitch_time (s : State) (g : Nat) : (rekeySwitch s g).time = s.time := by
  unfold rekeySwitch; dsimp only; split
  · split
    · split <;> simp
    · rfl
  · split
    · rfl
    · exact forEach_time _ _ _ fun _ _ => rfl

@[simp] theorem demotionPath_time (s : State) (g m : Nat) (only : Bool) (n : Nat) : (demotionPath s g m only n).time = s.time := by
  simp [demotionPath]

@[simp] theorem demotionCheck_time (s : State) (g : Nat) : (demotionCheck s g).time = s.time := by
  unfold demotionCheck; dsimp only; split
  · exact forEach_time _ _ _ fun _ _ => rfl
  · simp

@[simp] theorem pathsEdge_time (s : State) : (pathsEdge s).time = s.time := by
  unfold pathsEdge; dsimp only
  rw [forEach_time, forEach_time, forEach_time] <;> intros <;> simp

end Sys2Proof.Machine
end

section
/-! What leaves the time base as it is: rings, exchanges and engine queues. -/

namespace Sys2Proof.Machine

@[simp] theorem raiseRing_time (s : State) (key cause : Nat) : (raiseRing s key cause).time = s.time := by simp [raiseRing]
@[simp] theorem raiseQueue_time (s : State) (key cause : Nat) : (raiseQueue s key cause).time = s.time := by simp [raiseQueue]
@[simp] theorem modCounters_time (s : State) (key : Nat) (f : Ring → Ring) : (modCounters s key f).time = s.time := by simp [modCounters]
@[simp] theorem sqTailWrite_time (s : State) (key : Nat) (v : W64) : (sqTailWrite s key v).time = s.time := by simp [sqTailWrite]
@[simp] theorem cqHeadWrite_time (s : State) (key : Nat) (v : W64) : (cqHeadWrite s key v).time = s.time := by simp [cqHeadWrite]
@[simp] theorem sqWmClear_time (s : State) (key : Nat) (v : W64) : (sqWmClear s key v).time = s.time := by rfl
@[simp] theorem cqWmClear_time (s : State) (key : Nat) (v : W64) : (cqWmClear s key v).time = s.time := by rfl
@[simp] theorem eqWmClear_time (s : State) (key : Nat) (v : W64) : (eqWmClear s key v).time = s.time := by rfl
@[simp] theorem ringStatusClear_time (s : State) (key : Nat) (v : W64) : (ringStatusClear s key v).time = s.time := by rfl
@[simp] theorem startSliceReset_time (s : State) (sl : Nat) : (startSliceReset s sl).time = s.time := by simp [startSliceReset]

@[simp] theorem finishJob_time (s : State) (j : Job) (parts : List (Nat × List Byte)) (word : Nat) :
    (finishJob s j parts word).time = s.time := by
  unfold finishJob; dsimp only; (repeat' split) <;> simp

@[simp] theorem abortJob_time (s : State) (j : Job) : (abortJob s j).time = s.time := by simp [abortJob]

@[simp] theorem modEqCounters_time (s : State) (key : Nat) (f : EqQueue → EqQueue) : (modEqCounters s key f).time = s.time := by
  simp [modEqCounters]

@[simp] theorem eqTailWrite_time (s : State) (key : Nat) (v : W64) : (eqTailWrite s key v).time = s.time := by simp [eqTailWrite]
@[simp] theorem eqStatusClear_time (s : State) (key : Nat) (v : W64) : (eqStatusClear s key v).time = s.time := by rfl

@[simp] theorem writeStatus_time (s : State) (j : Job) (w : Nat) : (writeStatus s j w).time = s.time := by
  unfold writeStatus; split
  · next s1 h => exact time_of_fst h (ioWriteV_time ..)
  · next s1 _ h =>
    have h1 := time_of_fst h (ioWriteV_time ..)
    split <;> simp [h1]

@[simp] theorem jobProgress_time (s : State) (o : ProgressObs) : (jobProgress s o).time = s.time := by
  unfold jobProgress; split
  · rfl
  · dsimp only; split
    · rfl
    · split
      · rfl
      · split
        · next s2 _ h => simp [time_of_fst h (ioWriteV_time ..)]
        · next s2 h =>
          have h1 := time_of_fst h (ioWriteV_time ..)
          split <;> simp [h1]

@[simp] theorem fenceEngine_time (s : State) (e : Nat) : (fenceEngine s e).time = s.time := by rfl
@[simp] theorem markBusy_time (s : State) : (markBusy s).time = s.time := forEach_time _ _ _ fun _ _ => rfl
@[simp] theorem abortQueue_time (s : State) (sl r : Nat) : (abortQueue s sl r).time = s.time := by simp [abortQueue]

end Sys2Proof.Machine
end

section
/-! What leaves the time base as it is: trios and spares. -/

namespace Sys2Proof.Machine

@[simp] theorem setSafeCause_time (s : State) (cause point : Nat) : (setSafeCause s cause point).time = s.time := by simp [setSafeCause]
@[simp] theorem setCore_time (s : State) (n : Nat) (x : CoreStat) : (setCore s n x).time = s.time := by rfl
@[simp] theorem setClk_time (s : State) (k : Nat) (x : CoreClk) : (setClk s k x).time = s.time := by rfl
@[simp] theorem stopClk_time (s : State) (k : Nat) : (stopClk s k).time = s.time := by simp [stopClk]
@[simp] theorem powerSpare_time (s : State) (k : Nat) : (powerSpare s k).time = s.time := by simp [powerSpare]
@[simp] theorem tuneSpare_time (s : State) (k n : Nat) : (tuneSpare s k n).time = s.time := by simp [tuneSpare]
@[simp] theorem joinClk_time (s : State) (k n : Nat) : (joinClk s k n).time = s.time := by simp [joinClk]
@[simp] theorem trioNotice_time (s : State) (n cause : Nat) : (trioNotice s n cause).time = s.time := by unfold trioNotice; split <;> simp
@[simp] theorem retireAt_time (s : State) (n p : Nat) : (retireAt s n p).time = s.time := by unfold retireAt; split <;> simp
@[simp] theorem integrateAt_time (s : State) (n p k : Nat) : (integrateAt s n p k).time = s.time := by simp [integrateAt]
@[simp] theorem abandonWait_time (s : State) (c : Nat) : (abandonWait s c).time = s.time := by simp [abandonWait]

@[simp] theorem arrayReport_time (s : State) (core arr occasion : Nat) : (arrayReport s core arr occasion).time = s.time := by
  simp [arrayReport]

@[simp] theorem loseLCore_time (s : State) (c : Nat) : (loseLCore s c).time = s.time := by unfold loseLCore; split <;> simp

@[simp] theorem deliverReplay_time (s : State) (c : Nat) : (deliverReplay s c).time = s.time := by
  unfold deliverReplay; (repeat' split) <;> simp

@[simp] theorem enterMc_time (s : State) (c : Nat) : (enterMc s c).time = s.time := by simp [enterMc]
@[simp] theorem resumeCore_time (s : State) (c : Nat) : (resumeCore s c).time = s.time := by simp [resumeCore]
@[simp] theorem splitFence_time (s : State) : (splitFence s).time = s.time := by simp [splitFence]
@[simp] theorem putRebuild_time (s : State) (n : Nat) (r : Rebuild) : (putRebuild s n r).time = s.time := by rfl
@[simp] theorem poolEmpty_time (s : State) (n p : Nat) : (poolEmpty s n p).time = s.time := by simp [poolEmpty]

@[simp] theorem rebuildStep1_time (s : State) (n : Nat) (r : Rebuild) : (rebuildStep1 s n r).time = s.time := by
  unfold rebuildStep1; (repeat' split) <;> simp

@[simp] theorem lockstepEntry_time (s : State) (n : Nat) (r : Rebuild) : (lockstepEntry s n r).time = s.time := by
  unfold lockstepEntry; dsimp only; (repeat' split) <;> simp

@[simp] theorem onSpare_time (s : State) (r : Rebuild) (f : State → Nat → State) (hf : ∀ k, (f s k).time = s.time) :
    (onSpare s r f).time = s.time := by
  unfold onSpare; split
  · exact hf _
  · rfl

@[simp] theorem rebuildStep_time (s : State) (n : Nat) (r : Rebuild) (arrayFail : Option (BitVec 4)) (mismatches : Nat) :
    (rebuildStep s n r arrayFail mismatches).time = s.time := by
  unfold rebuildStep; dsimp only; (repeat' split) <;> simp

@[simp] theorem rebuildMissed_time (s : State) : (rebuildMissed s).time = s.time := by simp [rebuildMissed]

@[simp] theorem rebuildPip_time (s : State) (obs : List RebuildObs) : (rebuildPip s obs).time = s.time := by
  refine foldl_time _ _ _ fun s x => ?_
  dsimp only; split <;> simp

@[simp] theorem retireCore_time (s : State) (k : Nat) : (retireCore s k).time = s.time := by unfold retireCore; split <;> simp

end Sys2Proof.Machine
end

section
/-! What leaves the time base as it is: partitions, units, memory and links. -/

namespace Sys2Proof.Machine

@[simp] theorem countDropped_time (s : State) (base size : Nat) : (countDropped s base size).time = s.time := by rfl
@[simp] theorem zeroFill_time (s0 : State) (base size : Nat) : (zeroFill s0 base size).time = s0.time := by simp [zeroFill]
@[simp] theorem emptyCore_time (s : State) (c : Nat) : (emptyCore s c).time = s.time := by simp [emptyCore]
@[simp] theorem startCore_time (s : State) (c p : Nat) : (startCore s c p).time = s.time := by simp [startCore]
@[simp] theorem holdCores_time (s : State) (p : Nat) : (holdCores s p).time = s.time := forEach_time _ _ _ fun _ _ => rfl
@[simp] theorem holdSlices_time (s : State) (p : Nat) (on : Bool) : (holdSlices s p on).time = s.time := forEach_time _ _ _ fun _ _ => rfl

@[simp] theorem moveHome_time (s : State) (p h : Nat) : ((moveHome s p h).getD s).time = s.time := by
  unfold moveHome; split
  · rfl
  · split <;> simp

@[simp] theorem resetMailboxes_time (s : State) (p : Nat) : (resetMailboxes s p).time = s.time := by simp [resetMailboxes]
@[simp] theorem beginReset_time (s : State) (p : Nat) (after : PartState) : (beginReset s p after).time = s.time := by simp [beginReset]
@[simp] theorem beginRestart_time (s : State) (p : Nat) : (beginRestart s p).time = s.time := by simp [beginRestart]
@[simp] theorem startPart_time (s : State) (p : Nat) : (startPart s p).time = s.time := by simp [startPart]
@[simp] theorem endReset_time (s : State) (p : Nat) : (endReset s p).time = s.time := by unfold endReset; split <;> simp
@[simp] theorem partProgress_time (s : State) : (partProgress s).time = s.time := by simp [partProgress]
@[simp] theorem stopOrphans_time (s : State) : (stopOrphans s).time = s.time := by simp [stopOrphans]

@[simp] theorem evaluate_time (s : State) (p free : Nat) : (evaluate s p free).time = s.time := by
  unfold evaluate; dsimp only; split
  · split
    · next s2 h => simp [time_of_some h (moveHome_time ..)]
    · simp
  · simp

@[simp] theorem declareDead_time (s : State) (h : Nat) (cause : BitVec 2) : (declareDead s h cause).time = s.time := by simp [declareDead]

@[simp] theorem cutHomes_time (gone : Nat → Nat → Bool) (forget : Bool) (s : State) : (cutHomes gone forget s).time = s.time := by
  simp [cutHomes]

@[simp] theorem removeHull_time (s : State) (h : Nat) : (removeHull s h).time = s.time := by simp [removeHull]
@[simp] theorem fenceStack_time (s : State) (j why : Nat) : (fenceStack s j why).time = s.time := by simp [fenceStack]

@[simp] theorem enterSafe_time (s : State) (cause point reason : Nat) : (enterSafe s cause point reason).time = s.time := by
  simp [enterSafe]

@[simp] theorem dropHalf_time (s : State) (h : Nat) : (dropHalf s h).time = s.time := by simp [dropHalf]
@[simp] theorem stopPartsOf_time (s : State) (h : Nat) : (stopPartsOf s h).time = s.time := by simp [stopPartsOf]
@[simp] theorem loseDie_time (s : State) (d : Nat) : (loseDie s d).time = s.time := by simp [loseDie]
@[simp] theorem rejoinHalves_time (s : State) : (rejoinHalves s).time = s.time := by simp [rejoinHalves]
@[simp] theorem lineCorrected_time (s : State) (pa : Nat) : (lineCorrected s pa).time = s.time := by unfold lineCorrected; split <;> simp
@[simp] theorem linePoisoned_time (s : State) (pa : Nat) : (linePoisoned s pa).time = s.time := by unfold linePoisoned; split <;> simp
@[simp] theorem stackObserved_time (s : State) (o : StackObs) : (stackObserved s o).time = s.time := by rfl
@[simp] theorem retrainFailed_time (s : State) (l : LinkId) : (retrainFailed s l).time = s.time := by simp [retrainFailed]
@[simp] theorem linksEdge_time (s : State) : (linksEdge s).time = s.time := by simp [linksEdge]

end Sys2Proof.Machine
end

section
/-! What leaves the time base as it is: the requests of command packets. -/

namespace Sys2Proof.Machine

@[simp] theorem postReply_time (s : State) (opcode : Nat) (q : Request) (status progress : Nat) (result : List Byte)
    (delay : Nat) (keep : Bool) : (postReply s opcode q status progress result delay keep).time = s.time := by
  simp [postReply]

@[simp] theorem reply_time (s : State) (opcode : Nat) (q : Request) (status progress : Nat) (result : List Byte) :
    (reply s opcode q status progress result).time = s.time := by
  simp [reply]

@[simp] theorem countIgnored_time (s : State) : (countIgnored s).time = s.time := by rfl

@[simp] theorem startOp_time (s : State) (opcode : Nat) (q : Request) (k : LongKind) : (startOp s opcode q k).time = s.time := by
  simp [startOp]

@[simp] theorem dropFinished_time (s : State) (q : Request) : (dropFinished s q).time = s.time := by rfl

theorem serveOpen_time (s : State) (opcode : Nat) (q : Request) (h : Handler) (hh : KeepsTime h) :
    (serveOpen s opcode q h).time = s.time := by
  have hq := hh s q
  unfold serveOpen; split
  · split <;> simp
  · split
    · split
      · split <;> simp
      · rfl
    · split
      · next ha => rw [ha] at hq; simpa using hq
      · split <;> simp
      · next ha => rw [ha] at hq; simpa using hq

@[simp] theorem refuse_time (s : State) (opcode : Nat) (q : Request) (status : Nat) : (refuse s opcode q status).time = s.time := by
  simp [refuse]

theorem takeRequest_time (s : State) (opcode : Nat) (q : Request) (h : Handler) (hh : KeepsTime h) :
    (takeRequest s opcode q h).time = s.time := by
  have hs := fun t => serveOpen_time t opcode q h hh
  unfold takeRequest; dsimp only; (repeat' split) <;> simp [hs]

@[simp] theorem modBus_time (s : State) (b : Bus) (f : MBus → MBus) : (modBus s b f).time = s.time := by rfl
@[simp] theorem modCmdMbx_time (s : State) (p : Nat) (f : CmdMbx → CmdMbx) : (modCmdMbx s p f).time = s.time := by rfl

end Sys2Proof.Machine
end

section
/-! What leaves the time base as it is: the command packets. -/

namespace Sys2Proof.Machine

@[simp] theorem joinGroup_time (s : State) (g i n : Nat) : (joinGroup s g i n).time = s.time := by rfl
@[simp] theorem cmdPgOpen_keepsTime : KeepsTime cmdPgOpen := fun s q => by unfold cmdPgOpen; dsimp only; (repeat' split) <;> simp
@[simp] theorem cmdPgClose_keepsTime : KeepsTime cmdPgClose := fun s q => by unfold cmdPgClose; (repeat' split) <;> simp
@[simp] theorem cmdPgSet_keepsTime : KeepsTime cmdPgSet := fun s q => by unfold cmdPgSet; (repeat' split) <;> simp
@[simp] theorem cmdChSet_keepsTime : KeepsTime cmdChSet := fun s q => by unfold cmdChSet; dsimp only; (repeat' split) <;> simp
@[simp] theorem cmdPgStatus_keepsTime : KeepsTime cmdPgStatus := fun s q => by unfold cmdPgStatus; dsimp only; (repeat' split) <;> simp

@[simp] theorem cmdResumeQuery_keepsTime : KeepsTime cmdResumeQuery := fun s q => by
  unfold cmdResumeQuery; dsimp only; (repeat' split) <;> simp

@[simp] theorem cmdRingSetup_keepsTime : KeepsTime cmdRingSetup := fun s q => by unfold cmdRingSetup; dsimp only; (repeat' split) <;> simp
@[simp] theorem cmdRingTeardown_keepsTime : KeepsTime cmdRingTeardown := fun s q => by unfold cmdRingTeardown; (repeat' split) <;> simp
@[simp] theorem cmdEngqSetup_keepsTime : KeepsTime cmdEngqSetup := fun s q => by unfold cmdEngqSetup; dsimp only; (repeat' split) <;> simp
@[simp] theorem cmdEngqTeardown_keepsTime : KeepsTime cmdEngqTeardown := fun s q => by unfold cmdEngqTeardown; (repeat' split) <;> simp
@[simp] theorem cmdEngqAbort_keepsTime : KeepsTime cmdEngqAbort := fun s q => by unfold cmdEngqAbort; (repeat' split) <;> simp
@[simp] theorem cmdEngStatus_keepsTime : KeepsTime cmdEngStatus := fun s q => by unfold cmdEngStatus; split <;> simp
@[simp] theorem cmdEngSet_keepsTime : KeepsTime cmdEngSet := fun s q => by unfold cmdEngSet; dsimp only; split <;> simp

@[simp] theorem storeKey_time (s t : State) (k : KeyE) (h : t.time = s.time) : ((storeKey t k).stateOr s).time = s.time := by
  unfold storeKey; split
  · rfl
  · simp [h]

@[simp] theorem cmdKeyGenerate_keepsTime : KeepsTime cmdKeyGenerate := fun s q => by unfold cmdKeyGenerate; split <;> simp
@[simp] theorem cmdKeyImport_keepsTime : KeepsTime cmdKeyImport := fun s q => by unfold cmdKeyImport; dsimp only; (repeat' split) <;> simp
@[simp] theorem cmdKeyDestroy_keepsTime : KeepsTime cmdKeyDestroy := fun s q => by unfold cmdKeyDestroy; dsimp only; split <;> simp
@[simp] theorem cmdKeyInfo_keepsTime : KeepsTime cmdKeyInfo := fun s q => by unfold cmdKeyInfo; split <;> simp
@[simp] theorem cmdRekey_keepsTime : KeepsTime cmdRekey := fun s q => by unfold cmdRekey; dsimp only; (repeat' split) <;> simp
@[simp] theorem cmdMeasurementRead_keepsTime : KeepsTime cmdMeasurementRead := fun s q => by unfold cmdMeasurementRead; split <;> simp
@[simp] theorem cmdImageStatus_keepsTime : KeepsTime cmdImageStatus := fun s q => by simp [cmdImageStatus]

@[simp] theorem cmdPartDefine_keepsTime : KeepsTime cmdPartDefine := fun s q => by
  unfold cmdPartDefine; dsimp only; (repeat' split) <;> simp

@[simp] theorem cmdPartStart_keepsTime : KeepsTime cmdPartStart := fun s q => by unfold cmdPartStart; (repeat' split) <;> simp
@[simp] theorem cmdPartStop_keepsTime : KeepsTime cmdPartStop := fun s q => by unfold cmdPartStop; (repeat' split) <;> simp

@[simp] theorem cmdPartRangeAdd_keepsTime : KeepsTime cmdPartRangeAdd := fun s q => by
  unfold cmdPartRangeAdd; dsimp only; (repeat' split) <;> simp

@[simp] theorem cmdPartRangeRemove_keepsTime : KeepsTime cmdPartRangeRemove := fun s q => by
  unfold cmdPartRangeRemove; dsimp only; (repeat' split) <;> simp

@[simp] theorem cmdPartRestart_keepsTime : KeepsTime cmdPartRestart := fun s q => by unfold cmdPartRestart; (repeat' split) <;> simp
@[simp] theorem cmdPartStatus_keepsTime : KeepsTime cmdPartStatus := fun s q => by unfold cmdPartStatus; split <;> simp

@[simp] theorem cmdSliceCreate_keepsTime : KeepsTime cmdSliceCreate := fun s q => by
  unfold cmdSliceCreate; dsimp only; (repeat' split) <;> simp

@[simp] theorem cmdSliceDestroy_keepsTime : KeepsTime cmdSliceDestroy := fun s q => by unfold cmdSliceDestroy; (repeat' split) <;> simp
@[simp] theorem cmdSliceReset_keepsTime : KeepsTime cmdSliceReset := fun s q => by unfold cmdSliceReset; (repeat' split) <;> simp
@[simp] theorem cmdSliceStatus_keepsTime : KeepsTime cmdSliceStatus := fun s q => by unfold cmdSliceStatus; split <;> simp

@[simp] theorem cmdSliceLogStart_keepsTime : KeepsTime cmdSliceLogStart := fun s q => by
  unfold cmdSliceLogStart; dsimp only; (repeat' split) <;> simp

@[simp] theorem cmdSliceLogSwitch_keepsTime : KeepsTime cmdSliceLogSwitch := fun s q => by
  unfold cmdSliceLogSwitch; (repeat' split) <;> simp

@[simp] theorem cmdSliceLogStop_keepsTime : KeepsTime cmdSliceLogStop := fun s q => by unfold cmdSliceLogStop; (repeat' split) <;> simp

@[simp] theorem cmdSliceLog_keepsTime : KeepsTime cmdSliceLog := by
  intro s q
  unfold cmdSliceLog; split
  · exact cmdSliceLogStart_keepsTime s q
  · exact cmdSliceLogSwitch_keepsTime s q
  · exact cmdSliceLogStop_keepsTime s q
  · rfl

@[simp] theorem cmdIdentity_keepsTime : KeepsTime cmdIdentity := fun s q => by unfold cmdIdentity; dsimp only; (repeat' split) <;> simp
@[simp] theorem cmdConfigRead_keepsTime : KeepsTime cmdConfigRead := fun s q => by unfold cmdConfigRead; split <;> simp

@[simp] theorem cmdConfigWrite_keepsTime : KeepsTime cmdConfigWrite := fun s q => by
  unfold cmdConfigWrite; dsimp only; (repeat' split) <;> simp

@[simp] theorem cmdStackWeightSet_keepsTime : KeepsTime cmdStackWeightSet := fun s q => by
  unfold cmdStackWeightSet; dsimp only; (repeat' split) <;> simp

@[simp] theorem cmdFaultLogRead_keepsTime : KeepsTime cmdFaultLogRead := fun s q => by
  unfold cmdFaultLogRead; dsimp only; (repeat' split) <;> simp

@[simp] theorem cmdHistoryRead_keepsTime : KeepsTime cmdHistoryRead := fun s q => by unfold cmdHistoryRead; dsimp only; split <;> simp

@[simp] theorem cmdTrioStatusRead_keepsTime : KeepsTime cmdTrioStatusRead := fun s q => by
  unfold cmdTrioStatusRead; dsimp only; split <;> simp

@[simp] theorem clearCounters_time (s : State) (n : Nat) : (clearCounters s n).time = s.time := by rfl

@[simp] theorem cmdCounterClear_keepsTime : KeepsTime cmdCounterClear := fun s q => by
  unfold cmdCounterClear; dsimp only; (repeat' split) <;> simp

@[simp] theorem cmdHullStatusRead_keepsTime : KeepsTime cmdHullStatusRead := fun s q => by
  unfold cmdHullStatusRead; dsimp only; split <;> simp

@[simp] theorem cmdClassRead_keepsTime : KeepsTime cmdClassRead := fun s q => by unfold cmdClassRead; dsimp only; split <;> simp
@[simp] theorem cmdClassSet_keepsTime : KeepsTime cmdClassSet := fun s q => by unfold cmdClassSet; dsimp only; split <;> simp
@[simp] theorem cmdCapSet_keepsTime : KeepsTime cmdCapSet := fun s q => by unfold cmdCapSet; dsimp only; split <;> simp
@[simp] theorem cmdPowerRead_keepsTime : KeepsTime cmdPowerRead := fun s q => by simp [cmdPowerRead]
@[simp] theorem cmdSensorRead_keepsTime : KeepsTime cmdSensorRead := fun s q => by unfold cmdSensorRead; dsimp only; split <;> simp

@[simp] theorem cmdTrioClockLimit_keepsTime : KeepsTime cmdTrioClockLimit := fun s q => by
  unfold cmdTrioClockLimit; dsimp only; split <;> simp

@[simp] theorem cmdPark_keepsTime : KeepsTime cmdPark := fun s q => by unfold cmdPark; split <;> simp
@[simp] theorem cmdUnpark_keepsTime : KeepsTime cmdUnpark := fun s q => by unfold cmdUnpark; split <;> simp
@[simp] theorem cmdPipStatusRead_keepsTime : KeepsTime cmdPipStatusRead := fun s q => by simp [cmdPipStatusRead]

@[simp] theorem cmdDemandScrub_keepsTime : KeepsTime cmdDemandScrub := by
  intro s q
  unfold cmdDemandScrub; dsimp only; split
  · rfl
  · exact forEach_time _ _ _ fun _ _ => rfl

@[simp] theorem cmdTrioDump_keepsTime : KeepsTime cmdTrioDump := fun s q => by unfold cmdTrioDump; dsimp only; (repeat' split) <;> simp
@[simp] theorem cmdSwap_keepsTime : KeepsTime cmdSwap := fun s q => by unfold cmdSwap; dsimp only; (repeat' split) <;> simp
@[simp] theorem cmdQuiesce_keepsTime : KeepsTime cmdQuiesce := fun s q => by unfold cmdQuiesce; dsimp only; (repeat' split) <;> simp
@[simp] theorem cmdQuiesceEnd_keepsTime : KeepsTime cmdQuiesceEnd := fun s q => by unfold cmdQuiesceEnd; dsimp only; split <;> simp
@[simp] theorem cmdHuskStatus_keepsTime : KeepsTime cmdHuskStatus := fun s q => by simp [cmdHuskStatus]
@[simp] theorem cmdPrivLogRead_keepsTime : KeepsTime cmdPrivLogRead := fun s q => by unfold cmdPrivLogRead; dsimp only; split <;> simp
@[simp] theorem startSelfTest_time (s : State) (h : HuskId) : (startSelfTest s h).time = s.time := by rfl

@[simp] theorem cmdUnitRejoin_keepsTime : KeepsTime cmdUnitRejoin := fun s q => by
  unfold cmdUnitRejoin; dsimp only; (repeat' split) <;> simp

end Sys2Proof.Machine
end

section
/-! What leaves the time base as it is: power, the seed and the husk loop. -/

namespace Sys2Proof.Machine

@[simp] theorem latch_time (s : State) (i : PipInputs) : (latch s i).time = s.time := by simp [latch]
@[simp] theorem nextMeasure_time (s : State) (l : List ClockRow) : (nextMeasure s l).time = s.time := by simp [nextMeasure]

@[simp] theorem applyLimits_time (s : State) : (applyLimits s).time = s.time := by
  unfold applyLimits; dsimp only
  rw [forEach_time, forEach_time] <;> intros <;> simp

@[simp] theorem powerLoop_time (s : State) : (powerLoop s).time = s.time := by
  unfold powerLoop; dsimp only
  rw [modPower_time, forEach_time, nextMeasure_time]
  intro s n; split <;> simp

@[simp] theorem commitPower_time (s : State) : (commitPower s).time = s.time := by simp [commitPower]

@[simp] theorem armedEdge_time (s : State) : (armedEdge s).time = s.time := by
  unfold armedEdge; split
  · rfl
  · dsimp only; rw [whenServing_time _ _ (applyLimits_time _), modPower_time, foldl_time]
    exact fun _ _ => rfl

@[simp] theorem stageShadow_time (s : State) : (stageShadow s).time = s.time := by rfl
@[simp] theorem changeHolder_time (s : State) (h : HuskId) (code : Nat) : (changeHolder s h code).time = s.time := by simp [changeHolder]
@[simp] theorem dropUnmirrored_time (s : State) : (dropUnmirrored s).time = s.time := by rfl
@[simp] theorem swapEdge_time (s : State) : (swapEdge s).time = s.time := by unfold swapEdge; split <;> simp
@[simp] theorem noHandler_keepsTime : KeepsTime noHandler := fun _ _ => rfl
@[simp] theorem handlerOf_keepsTime (opcode : Nat) : KeepsTime ((handlerOf opcode).getD noHandler) := by unfold handlerOf; split <;> simp

@[simp] theorem handle_time (s : State) (r : QReq) : (handle s r).time = s.time :=
  takeRequest_time s r.opcode r.q _ (handlerOf_keepsTime r.opcode)

@[simp] theorem opSet_time (s : State) (o : LongOp) (progress : Nat) (status : Option Nat) (result : List Byte) :
    (opSet s o progress status result).time = s.time := by rfl

@[simp] theorem opDone_time (s : State) (o : LongOp) : (opDone s o).time = s.time := by simp [opDone]
@[simp] theorem opFail_time (s : State) (o : LongOp) : (opFail s o).time = s.time := by simp [opFail]

@[simp] theorem freeGroupNow_time (s : State) (g : Nat) : (freeGroupNow s g).time = s.time := by
  unfold freeGroupNow; dsimp only
  rw [forEach_time, forEach_time] <;> intros <;> simp

@[simp] theorem freeRingNow_time (s : State) (sl r : Nat) : (freeRingNow s sl r).time = s.time := by rfl
@[simp] theorem freeQueueNow_time (s : State) (sl r : Nat) : (freeQueueNow s sl r).time = s.time := by rfl
@[simp] theorem unparkAll_time (s : State) : (unparkAll s).time = s.time := by simp [unparkAll]
@[simp] theorem endQuiesce_time (s : State) (mask : Nat) : (endQuiesce s mask).time = s.time := by simp [endQuiesce]

@[simp] theorem scrubStep_time (s : State) (o : LongOp) (base length : Nat) (obs : ScrubObs) :
    (scrubStep s o base length obs).time = s.time := by
  unfold scrubStep; extract_lets lo n within cor unc s1 s2 s3 had addrs result s4
  have h3 : s3.time = s.time := by
    have hs : s2.time = s.time := by simp [s2, s1]
    rw [← hs]; refine forEach_time _ _ _ fun t u => ?_
    split <;> simp
  split
  · rw [forEach_time] <;> intros <;> simp [s4, h3]
  · simp [h3]

@[simp] theorem opStep_time (s : State) (o : LongOp) (obs : ScrubObs) : (opStep s o obs).time = s.time := by
  unfold opStep; (repeat' split) <;> simp

@[simp] theorem opSteps_time (s : State) (obs : ScrubObs) : (opSteps s obs).time = s.time := by simp [opSteps]
@[simp] theorem unqueue_time (s : State) (r : QReq) : (unqueue s r).time = s.time := by unfold unqueue; split <;> simp

@[simp] theorem takeRequests_time (k : Nat) (s : State) : (takeRequests k s).time = s.time := by
  induction k generalizing s with
  | zero => rfl
  | succ k ih => unfold takeRequests; split <;> simp [ih]

@[simp] theorem huskAction_time (s : State) (a : Nat × Half × W64) : (huskAction s a).time = s.time := by simp [huskAction]
@[simp] theorem huskActions_time (s : State) : (huskActions s).time = s.time := by simp [huskActions]
@[simp] theorem sleepEngine_time (s : State) (e : Nat) : (sleepEngine s e).time = s.time := by simp [sleepEngine]
@[simp] theorem sleepStack_time (s : State) (j : Nat) : (sleepStack s j).time = s.time := by simp [sleepStack]
@[simp] theorem sleepIdle_time (s : State) (i : HuskInputs) : (sleepIdle s i).time = s.time := by simp [sleepIdle]
@[simp] theorem cmdGo_time (s : State) (p : Nat) (v : W64) : (cmdGo s p v).time = s.time := by simp [cmdGo]
@[simp] theorem cmdStatusClear_time (s : State) (p : Nat) (v : W64) : (cmdStatusClear s p v).time = s.time := by rfl
@[simp] theorem cmdAreaWrite_time (s : State) (p off : Nat) (bs : List Byte) : (cmdAreaWrite s p off bs).time = s.time := by rfl

end Sys2Proof.Machine
end

section
/-! What leaves the time base as it is: device windows, registers and floating point. -/

namespace Sys2Proof.Machine

@[simp] theorem doorbellWrite_time (s : State) (key off : Nat) (v m : W64) : (doorbellWrite s key off v m).time = s.time := by
  unfold doorbellWrite; split <;> simp

@[simp] theorem queueWrite_time (s : State) (key off : Nat) (v m : W64) : (queueWrite s key off v m).time = s.time := by
  unfold queueWrite; split <;> simp

@[simp] theorem sourceRead_time (s : State) (p e off : Nat) : (sourceRead s p e off).1.time = s.time := by
  unfold sourceRead; (repeat' split) <;> simp

@[simp] theorem sourceWrite_time (s : State) (p e off : Nat) (v m : W64) : (sourceWrite s p e off v m).time = s.time := by
  unfold sourceWrite; split <;> simp

@[simp] theorem mailboxRead_time (s : State) (p m off : Nat) : (mailboxRead s p m off).1.time = s.time := by
  unfold mailboxRead; (repeat' split) <;> simp

@[simp] theorem mailboxWrite_time (s : State) (p m off : Nat) (v b : W64) : (mailboxWrite s p m off v b).time = s.time := by
  unfold mailboxWrite; split <;> simp

@[simp] theorem invSlotWrite_time (s : State) (p k off : Nat) (v m : W64) : (invSlotWrite s p k off v m).time = s.time := by
  unfold invSlotWrite; split <;> simp

@[simp] theorem devIsolated_time (s : State) (off : Nat) : (devIsolated s off).time = s.time := by unfold devIsolated; split <;> simp
@[simp] theorem devRead_time (s : State) (p c k off : Nat) : (devRead s p c k off).1.time = s.time := by unfold devRead; split <;> simp

@[simp] theorem devWrite_time (s : State) (p c k off : Nat) (v : W64) (o n : Nat) : (devWrite s p c k off v o n).time = s.time := by
  unfold devWrite; (repeat' split) <;> simp

end Sys2Proof.Machine
end

section
/-! What leaves the time base as it is: memory instructions, task instructions and the rows of the coherence tables. -/

namespace Sys2Proof.Machine

theorem issueWith_time (fp : Bool) (s : State) (c : Nat) (z : Size) (i : Instr) (body : State → MemRes)
    (hb : (body s).state.time = s.time) : (issueWith fp s c z i body).time = s.time := by
  unfold issueWith; split
  · rfl
  · split
    · next hr => rw [hr] at hb; simpa using hb
    · next hr =>
      rw [hr] at hb
      split
      · simp
      · simpa using hb
    · next hr =>
      rw [hr] at hb
      split
      · simp
      · simpa using hb

@[simp] theorem issueMem_time (s : State) (c : Nat) (z : Size) (i : Instr) (body : State → MemRes)
    (hb : (body s).state.time = s.time) : (issueMem s c z i body).time = s.time := issueWith_time _ s c z i body hb

@[simp] theorem finish_time (s : State) (c : Nat) (z : Size) (f : TaskSet → TaskSet) : (finish s c z f).state.time = s.time := rfl

@[simp] theorem orTrap_time {α : Type} (s : State) (x : Ex α) (f : α → MemRes) (hf : ∀ a, (f a).state.time = s.time) :
    (orTrap s x f).state.time = s.time := by
  unfold orTrap; split
  · exact hf _
  · rfl

@[simp] theorem clearReply_time (s : State) (c : Nat) : (clearReply s c).time = s.time := by rfl

@[simp] theorem askLine_time (s : State) (c ln : Nat) (start : State → State) (ready : State → Bool) (k : State → MemRes)
    (hs : ∀ t, (start t).time = t.time) (hk : ∀ t, (k t).state.time = t.time) :
    (askLine s c ln start ready k).state.time = s.time := by
  unfold askLine; dsimp only; (repeat' split) <;> simp [hs, hk]

@[simp] theorem withLines_time (s : State) (c : Nat) (own : Bool) (l : List Nat) (k : State → MemRes)
    (hk : ∀ t, (k t).state.time = t.time) : (withLines s c own l k).state.time = s.time := by
  induction l generalizing s with
  | nil => exact hk s
  | cons ln l ih =>
    unfold withLines; extract_lets; split
    · exact ih s
    · exact askLine_time _ _ _ _ _ _ (fun t => by simp) ih

@[simp] theorem memAtEa_time (va : W64) (r : MemRes) : (memAtEa va r).state.time = r.state.time := by cases r <;> rfl

@[simp] theorem deviceLoad_time (s : State) (c p off : Nat) (va : W64) (k : LoadKind) (rd : Reg) (z : Size) :
    (deviceLoad s c p off va k rd z).state.time = s.time := by
  unfold deviceLoad; dsimp only; split <;> simp

@[simp] theorem loadAt_time (s : State) (c : Nat) (z : Size) (k : LoadKind) (rd : Reg) (va : W64) :
    (loadAt s c z k rd va).state.time = s.time := by
  unfold loadAt; dsimp only
  rw [memAtEa_time]
  refine orTrap_time _ _ _ fun pa => ?_
  split
  · simp
  · refine withLines_time _ _ _ _ _ fun t => ?_
    split <;> simp

@[simp] theorem load_time (s : State) (c : Nat) (z : Size) (k : LoadKind) (rd ra : Reg) (off : W64) :
    (load s c z k rd ra off).state.time = s.time := by simp [load]

@[simp] theorem storeAt_time (s : State) (c : Nat) (z : Size) (k : StoreKind) (w : TWord) (va : W64) :
    (storeAt s c z k w va).state.time = s.time := by
  unfold storeAt; dsimp only
  refine orTrap_time _ _ _ fun pa => ?_
  (repeat' split) <;> simp

@[simp] theorem store_time (s : State) (c : Nat) (z : Size) (k : StoreKind) (rs ra : Reg) (off : W64) :
    (store s c z k rs ra off).state.time = s.time := by simp [store]

@[simp] theorem blockRead4_time (c cur : Nat) (s : State) (l : List Nat) (acc : List CWord) :
    (blockRead4 c cur s l acc).1.time = s.time := by
  induction l generalizing s acc with
  | nil => rfl
  | cons pa l ih => unfold blockRead4; dsimp only; split <;> simp [ih]

@[simp] theorem vload_time (s : State) (c : Nat) (vd : VReg) (ra : Reg) (off : W64) : (vload s c vd ra off).state.time = s.time := by
  unfold vload; dsimp only
  refine orTrap_time _ _ _ fun va => ?_
  rw [memAtEa_time]
  refine orTrap_time _ _ _ fun pas => ?_
  refine withLines_time _ _ _ _ _ fun t => ?_
  (repeat' split) <;> simp

@[simp] theorem blockWrite4_time (c cur : Nat) (s : State) (l : List (Nat × TWord)) : (blockWrite4 c cur s l).time = s.time := by
  induction l generalizing s with
  | nil => rfl
  | cons p l ih => unfold blockWrite4; split <;> simp [ih]

@[simp] theorem vstore_time (s : State) (c : Nat) (dec : Bool) (vs : VReg) (ra : Reg) (off : W64) :
    (vstore s c dec vs ra off).state.time = s.time := by
  unfold vstore; dsimp only
  refine orTrap_time _ _ _ fun va => ?_
  rw [memAtEa_time]
  refine orTrap_time _ _ _ fun pas => ?_
  split
  · rfl
  · refine orTrap_time _ _ _ fun ws => ?_
    split <;> simp

@[simp] theorem amoFinish_time (s : State) (c : Nat) (rd : Reg) (old : TWord) (st : AmoStatus) :
    (amoFinish s c rd old st).state.time = s.time := by
  unfold amoFinish; split <;> simp

@[simp] theorem amoPlace_time (s : State) (c pa : Nat) (va : W64) (x : AmoArgs) (rd : Reg) (near : Bool) :
    (amoPlace s c pa va x rd near).time = s.time := by rfl

@[simp] theorem amoSettle_time (s : State) (c : Nat) (rd : Reg) : (amoSettle s c rd).state.time = s.time := by
  unfold amoSettle; dsimp only; (repeat' split) <;> simp

@[simp] theorem amoHome_time (s : State) (c pa : Nat) (va : W64) (x : AmoArgs) (rd : Reg) (learn : Bool) :
    (amoHome s c pa va x rd learn).state.time = s.time := by
  unfold amoHome; dsimp only; split <;> simp

@[simp] theorem amoInL2_time (s : State) (c pa : Nat) (x : AmoArgs) : (amoInL2 s c pa x).1.time = s.time := by
  unfold amoInL2; dsimp only; split <;> simp

@[simp] theorem amoNearEnd_time (s : State) (c : Nat) : (amoNearEnd s c).time = s.time := by unfold amoNearEnd; (repeat' split) <;> simp

@[simp] theorem amoNear_time (s : State) (c pa : Nat) (va : W64) (x : AmoArgs) (rd : Reg) :
    (amoNear s c pa va x rd).state.time = s.time := by
  unfold amoNear; dsimp only; (repeat' split) <;> simp

@[simp] theorem amo_time (s : State) (c : Nat) (op : AmoOp) (rd ra rb : Reg) : (amo s c op rd ra rb).state.time = s.time := by
  unfold amo; dsimp only
  refine orTrap_time _ _ _ fun va => ?_
  rw [memAtEa_time]
  refine orTrap_time _ _ _ fun x => ?_
  (repeat' split) <;> simp

@[simp] theorem zline_time (s : State) (c : Nat) (ra : Reg) (off : W64) : (zline s c ra off).state.time = s.time := by
  unfold zline; dsimp only
  refine orTrap_time _ _ _ fun va => ?_
  rw [memAtEa_time]
  refine orTrap_time _ _ _ fun pa => ?_
  split <;> simp

@[simp] theorem maintain_time (s : State) (c : Nat) (m : Maint) (ra : Reg) (off : W64) : (maintain s c m ra off).state.time = s.time := by
  unfold maintain; dsimp only
  refine orTrap_time _ _ _ fun va => ?_
  rw [memAtEa_time]
  refine orTrap_time _ _ _ fun pa => ?_
  split <;> simp

@[simp] theorem cinvBody_time (s : State) (c : Nat) (ra : Reg) (off : W64) : (cinvBody s c ra off).state.time = s.time := by
  unfold cinvBody; dsimp only; (repeat' split) <;> simp

@[simp] theorem l2wbBody_time (s : State) (c : Nat) : (l2wbBody s c).state.time = s.time := by
  unfold l2wbBody; dsimp only; (repeat' split) <;> simp

theorem memBody_time {i : Instr} {c : LC} {z : Size} {body : State → MemRes} (h : memBody i = some (c, z, body)) (s : State) :
    (body s).state.time = s.time := by
  unfold memBody at h; split at h <;> cases h <;> simp

@[simp] theorem memRun_time (i : Instr) (s : State) : (memRun i s).time = s.time := by
  unfold memRun; split
  · next h => exact issueMem_time _ _ _ _ _ (memBody_time h s)
  · rfl

@[simp] theorem issuePoint_time (s : State) (c : Nat) (z : Size) (i : Instr) (body : State → MemRes)
    (hb : (body s).state.time = s.time) : (issuePoint s c z i body).time = s.time := issueWith_time _ s c z i body hb

@[simp] theorem frameStore_time (s : State) (c : Nat) (pas : List Nat) (ws : List (Nat × TWord)) :
    (frameStore s c pas ws).time = s.time := by
  simp [frameStore]

@[simp] theorem unstage_time (s : State) (c k : Nat) : (unstage s c k).time = s.time := by unfold unstage; dsimp only; split <;> simp

@[simp] theorem tsaveBody_time (s : State) (c : Nat) (rd rb : Reg) : (tsaveBody s c rd rb).state.time = s.time := by
  refine orTrap_time _ _ _ fun x => ?_
  refine orTrap_time _ _ _ fun pas => ?_
  exact withLines_time _ _ _ _ _ fun t => by simp

@[simp] theorem tloadBody_time (s : State) (c : Nat) (rd ra rb : Reg) : (tloadBody s c rd ra rb).state.time = s.time := by
  unfold tloadBody; dsimp only; split
  · rfl
  · refine orTrap_time _ _ _ fun pas => ?_
    refine withLines_time _ _ _ _ _ fun t => ?_
    split
    · rfl
    · split
      · rfl
      · split
        · rfl
        · split
          · rfl
          · refine orTrap_time _ _ _ fun _ => ?_
            refine withLines_time _ _ _ _ _ fun u => ?_
            split <;> simp

@[simp] theorem reissue_time (i : Instr) (s : State) : (reissue i s).time = s.time := by unfold reissue; split <;> simp
@[simp] theorem wakeCore_time (s : State) (c : Nat) : (wakeCore s c).time = s.time := by unfold wakeCore; split <;> simp
@[simp] theorem wakeCores_time (s : State) : (wakeCores s).time = s.time := by simp [wakeCores]

end Sys2Proof.Machine
end

section
/-! What leaves the time base as it is: fault collection, boot, reset and the pip. -/

namespace Sys2Proof.Machine

@[simp] theorem isolateUnit_time (s : State) (e : FEvent) : (isolateUnit s e).time = s.time := by
  unfold isolateUnit; dsimp only; split <;> simp

@[simp] theorem holderFail_time (s : State) : (holderFail s).time = s.time := by unfold holderFail; split <;> simp
@[simp] theorem dropSensor_time (s : State) (pt : Nat) : (dropSensor s pt).time = s.time := by rfl
@[simp] theorem takeAction_time (s : State) (x : Severe) : (takeAction s x).time = s.time := by unfold takeAction; split <;> simp
@[simp] theorem closePip_time (s : State) (k : Nat) : (closePip s k).time = s.time := by simp [closePip]
@[simp] theorem reportInfo_time (s : State) : (reportInfo s).time = s.time := by unfold reportInfo; split <;> simp
@[simp] theorem countIdle_time (s : State) : (countIdle s).time = s.time := by rfl
@[simp] theorem serviceEdge_time (s : State) (l : List ProgressObs) : (serviceEdge s l).time = s.time := by simp [serviceEdge]
@[simp] theorem commitQuiesce_time (s : State) : (commitQuiesce s).time = s.time := by simp [commitQuiesce]
@[simp] theorem commitRejoin_time (s : State) : (commitRejoin s).time = s.time := by simp [commitRejoin]
@[simp] theorem commitMirror_time (s : State) : (commitMirror s).time = s.time := by unfold commitMirror; split <;> simp

end Sys2Proof.Machine
end


section
/-! The windows and the edge of a pip write the time base once each (R33, R34, R40, R41). -/

namespace Sys2Proof.Machine

theorem pipEdge_time (s : State) (i : PipInputs) :
    (pipEdge s i).time = { s.time with pip := s.time.pip + 1, grain := 0, realign := false, overruns := [] } := by
  unfold pipEdge; dsimp only
  rw [whenServing_time _ _ (serviceEdge_time ..)]
  simp

theorem eventWindow_time {s : State} (ht : timeRuns s = true) (he : s.time.eventPip ≠ some (pip s)) (hg : s.time.grain ≤ 895) :
    (eventWindow s).time = { s.time with grain := max s.time.grain 768, eventPip := some (pip s) } := by
  unfold eventWindow; rw [if_pos ⟨ht, he, hg⟩]; dsimp only
  split
  · rfl
  · rw [deliveryWindow_time]; rfl

theorem huskLoop_time (s : State) (i : HuskInputs) :
    (huskLoop s i).time = { s.time with grain := max s.time.grain 16, loopPip := some (pip s) } := by
  simp [huskLoop, toGrain]

theorem commit_time (s : State) :
    (commit s).time = { s.time with grain := max s.time.grain 896, commitPip := some (pip s) } := by
  unfold commit; dsimp only
  (repeat' split) <;> simp [toGrain]

end Sys2Proof.Machine
end


section
/-! Reports that stay with the collector (R437, R439). -/

namespace Sys2Proof.Machine

theorem reported_report {s : State} {pt : Nat} (d : Nat) (ht : timeRuns s = true) (hp : pt < Pt.reserved) : reported (report s pt d) pt :=
  report_reports s pt d ht hp

theorem reported_report_of {s : State} {k : Nat} (pt d : Nat) (h : reported s k) : reported (report s pt d) k := report_keeps s pt d k h

/-- What leaves the collector as it is keeps its reports. -/
theorem reported_of_faults {s t : State} {k : Nat} (hf : t.faults = s.faults) (h : reported s k) : reported t k := by
  unfold reported; rwa [hf]

theorem reported_modHusks {s : State} {k : Nat} (f : Husks → Husks) (h : reported s k) : reported (modHusks s f) k := h

@[simp] theorem report_pins (s : State) (pt d : Nat) : (report s pt d).pins = s.pins := by
  obtain ⟨f, hf, -⟩ := report_frame s pt d; rw [hf]

@[simp] theorem report_mode (s : State) (pt d : Nat) : (report s pt d).mode = s.mode := by
  obtain ⟨f, hf, -⟩ := report_frame s pt d; rw [hf]

@[simp] theorem report_husks (s : State) (pt d : Nat) : (report s pt d).husks = s.husks := by
  obtain ⟨f, hf, -⟩ := report_frame s pt d; rw [hf]

@[simp] theorem settle_faults (s : State) : (settle s).faults = s.faults := by
  obtain ⟨md, pr, h⟩ := setMode_frame s (modeFor s)
  rw [settle, h]

theorem settle_pins (s : State) : (settle s).pins = s.pins := by
  obtain ⟨md, pr, h⟩ := setMode_frame s (modeFor s)
  rw [settle, h]

theorem settle_prev {s : State} (h : modeFor s ≠ s.mode.mode) : (settle s).mode.prev = s.mode.mode := by
  rw [settle, setMode, if_neg h]; dsimp only
  split <;> rfl

theorem timeRuns_of_pins {s t : State} (h : t.pins = s.pins) : timeRuns t = timeRuns s := by simp only [timeRuns, h]

theorem actingHusk_of_husks {s t : State} (h : t.husks = s.husks) : actingHusk t = actingHusk s := by
  simp only [actingHusk, holderId, huskOf, h]
  rfl

theorem reported_huskOut {s : State} {k : Nat} (h : HuskId) (third : Bool) (hr : reported s k) : reported (huskOut s h third) k := by
  unfold huskOut; dsimp only
  refine reported_of_faults (settle_faults _) (reported_report_of _ _ ?_)
  split
  · exact hr
  · exact reported_report_of _ _ hr

theorem reported_countFailure {s : State} {k : Nat} (h : HuskId) (hr : reported s k) : reported (countFailure s h) k := by
  unfold countFailure; dsimp only
  split
  · exact reported_huskOut h true hr
  · exact reported_of_faults (settle_faults _) hr

/-- A failed self-check is reported at the husk's own point (R388). -/
theorem reported_huskFails {s : State} (h : HuskId) (code : Nat) (ht : timeRuns s = true) :
    reported (huskFails s h code) (Pt.huskCheck h) := by
  unfold huskFails; dsimp only
  refine reported_countFailure h ?_
  have hr : reported (reportCheck s h code (holdsSeed s h)) (Pt.huskCheck h) := reported_report _ ht (by cases h <;> decide)
  split
  · exact reported_modHusks _ (reported_modHusks _ (reported_modHusks _ hr))
  · exact reported_modHusks _ hr

end Sys2Proof.Machine
end

section
/-! Overruns, the reference clock, ALIVE, and the power pins (R32, R33, R42, R43, R456, R481, R486, R488, R499). -/

namespace Sys2Proof.Machine

/-- PIP_STATUS and the marks of the pip after an overrun of activity `a` (R42, R43). -/
def overrunTime (t : TimeB) (a : Nat) : TimeB :=
  { t with overrun := true, overrunCount := t.overrunCount + 1, lastOverrun := a, overruns := t.overruns ++ [a] }

theorem exec_pipOverrun {s : State} {a : Fin 10} (ht : timeRuns s = true) (h0 : a ≠ 0)
    (h : a = 9 ∨ s.time.overruns.contains a.val = false) : exec (.pipOverrun a) s = .next (pipOverrun s a) := by
  refine congrArg Host.Outcome.next (if_pos ⟨ht, h0, h.imp id fun hc => ?_⟩)
  rw [overran, hc]; rfl

theorem exec_pipOverrun_none (s : State) : exec (.pipOverrun 0) s = .next s :=
  congrArg Host.Outcome.next (if_neg fun h => h.2.1 rfl)

theorem exec_pipOverrun_again {s : State} {a : Fin 10} (h9 : a ≠ 9) (h : s.time.overruns.contains a.val = true) :
    exec (.pipOverrun a) s = .next s := by
  refine congrArg Host.Outcome.next (if_neg ?_)
  have ho : overran s a = true := h
  rintro ⟨-, -, h | h⟩
  · exact h9 h
  · rw [ho] at h; cases h

theorem pipOverrun_other (s : State) {a : Nat} (h1 : a ≠ 1) (h8 : a ≠ 8) :
    pipOverrun s a = report (modTime s (fun t => overrunTime t a)) Pt.pipOverrun a :=
  if_neg (by omega)

/-- An overrun of the snapshot or of the commit is a failed self-check of the acting husk. -/
theorem pipOverrun_acting {s : State} {a : Nat} {h : HuskId} (ha : a = 1 ∨ a = 8) (hh : actingHusk s = some h) :
    pipOverrun s a = huskFails (report (modTime s (fun t => overrunTime t a)) Pt.pipOverrun a) h 4 := by
  have he : actingHusk (report (modTime s (fun t => overrunTime t a)) Pt.pipOverrun a) = some h := by
    rw [actingHusk_of_husks (report_husks ..), ← hh]; rfl
  unfold pipOverrun; dsimp only
  rw [if_pos ha]
  split
  · next k hk => cases he.symm.trans hk; rfl
  · next hk => cases he.symm.trans hk

theorem exec_refclkLost {s : State} (ht : timeRuns s = true) (hh : s.time.holdover = false) : exec .refclkLost s = .next
    (report (modPins (modTime s (fun t => { t with holdover := true, refLost := true })) (fun p => { p with refclk := false }))
      Pt.refclkLost 0) := by simp [exec, execRefclkLost, ht, hh]

theorem exec_holdoverExit {s : State} (ht : timeRuns s = true) (hh : s.time.holdover = true) : exec .holdoverExit s = .next
    (modPins (modTime s (fun t => { t with holdover := false, realign := true })) (fun p => { p with refclk := true })) := by
  simp [exec, execHoldoverExit, ht, hh]

/-- The level of ALIVE after a change in the present pip (R456). -/
def aliveToggled (s : State) : State := modPins s (fun p => { p with alive := !p.alive, aliveAt := pip s })

theorem exec_aliveToggle {s : State} (ht : timeRuns s = true) (hw : allWell s = true) (hg : s.time.grain = 0) (hp : pip s ≠ 0)
    (hm : pip s % 500 = 0) (ha : s.pins.aliveAt ≠ pip s) : exec .aliveToggle s = .next (aliveToggled s) := by
  refine congrArg Host.Outcome.next (if_pos ?_)
  rw [ht, hw]
  exact decide_eq_true ⟨hg, hp, hm, ha⟩

/-- One change of level in a pip. -/
theorem exec_aliveToggle_again {s : State} (h : s.pins.aliveAt = pip s) : exec .aliveToggle s = .next s :=
  congrArg Host.Outcome.next (if_neg (by simp [h]))

theorem exec_aliveToggle_off {s : State} (h : pip s % 500 ≠ 0 ∨ allWell s = false) : exec .aliveToggle s = .next s := by
  refine congrArg Host.Outcome.next (if_neg ?_)
  rcases h with h | h <;> simp [h, alivePips]

theorem allWell_eq_false {s : State} (h : s.faults.selfOk = false ∨ s.faults.huskNone = true ∨ s.mode.mode = 11) : allWell s = false := by
  rcases h with h | h | h <;> simp [allWell, h]

/-- From M1 the rise of PWR_OK starts the image check where a husk holds the seed (R478, R498). -/
theorem exec_pwrOkRise {s : State} (ht : timeRuns s = true) : exec .pwrOkRise s =
    .next (toImageCheck (modPins s (fun p => { p with pwrOk := true, inA := true, inB := true }))) :=
  congrArg Host.Outcome.next (if_pos ht)

theorem toImageCheck_held {s : State} (h : holderId s = none) : toImageCheck s = s := by simp [toImageCheck, h]

/-- The conditions of M2, before the mode word shows them. -/
def imageCheckBegun (s : State) : State := modBoot (modModeS s (fun m => { m with base := 2 })) (fun b => { b with spiDriven := true })

theorem modeFor_imageCheckBegun {s : State} (hm : s.mode.mode = 1) : modeFor (imageCheckBegun s) = 2 := by
  simp [modeFor, imageCheckBegun, hm]

theorem toImageCheck_begins {s : State} (hb : s.mode.base = 1) (hp : s.pins.pwrOk = true) (hh : (holderId s).isSome = true)
    (hm : s.mode.mode = 1) : toImageCheck s = settle (imageCheckBegun s) :=
  if_pos ⟨hb, hp, hh, by omega⟩

theorem imageCheck_mode {s : State} (hm : s.mode.mode = 1) :
    (settle (imageCheckBegun s)).mode.mode = 2 ∧ (settle (imageCheckBegun s)).mode.prev = 1 := by
  have h2 := modeFor_imageCheckBegun hm
  have hm' : (imageCheckBegun s).mode.mode = 1 := hm
  exact ⟨(settle_mode _).trans h2, (settle_prev (by omega)).trans hm⟩

theorem exec_pwrOkFall_running {s : State} (hp : s.pins.pwrOk = true) (h2 : 2 ≤ s.mode.mode) (h10 : s.mode.mode ≤ 10) : exec .pwrOkFall s =
    .next (report (report (modPins s (fun p => { p with pwrOk := false })) (Pt.inputLoss 0) 3) (Pt.inputLoss 1) 3) :=
  congrArg Host.Outcome.next (if_pos ⟨hp, h2, h10⟩)

theorem exec_pwrOkFall_early {s : State} (h1 : s.mode.mode ≤ 1) :
    exec .pwrOkFall s = .next (modPins s (fun p => { p with pwrOk := false })) :=
  congrArg Host.Outcome.next (if_neg fun h => by omega)

theorem exec_inputLoss {s : State} (g : Fin 2) (high : Bool) (ht : timeRuns s = true) (h2 : 2 ≤ s.mode.mode) :
    exec (.inputLoss g high) s = .next (report (modPins s (fun p => if g = 0 then { p with inA := false } else { p with inB := false }))
      (Pt.inputLoss g) (if high then 2 else 1)) :=
  congrArg Host.Outcome.next (if_pos ⟨ht, h2⟩)

theorem exec_ivrCurrentLimit {s : State} (g : Fin 2) (ht : timeRuns s = true) (h2 : 2 ≤ s.mode.base) : exec (.ivrCurrentLimit g) s =
    .next (modPins s (fun p => if g = 0 then { p with limitA := true } else { p with limitB := true })) :=
  congrArg Host.Outcome.next (if_pos (by simp [diesPowered, ht, h2]))

/-- The sensors of the service die act from M1 on, the others once their die is powered (R488). -/
theorem exec_thermalTrip {s : State} {i : Fin 320} (hg : s.pins.standbyGood = true) (h : 312 ≤ i.val ∨ diesPowered s = true) :
    exec (.thermalTrip i) s = .next (modPins (report s Pt.thermTrip i) (fun p => { p with thermtripN := false })) := by
  refine congrArg Host.Outcome.next (if_pos ?_)
  rcases h with h | h
  · simp [hg, serviceSensor, h]
  · simp [h]

/-! ## The rows together -/

section
variable {s : State} (ht : timeRuns s = true)
include ht

theorem pipOverrun_row {a : Fin 10} (h0 : a ≠ 0) (h1 : a ≠ 1) (h8 : a ≠ 8) (hc : s.time.overruns.contains a.val = false) :
    ∃ u, exec (.pipOverrun a) s = .next u ∧ reported u 1825 ∧ u.time.overrun = true ∧ u.time.overrunCount = s.time.overrunCount + 1 ∧
      u.time.lastOverrun = a.val ∧ u.mode = s.mode := by
  refine ⟨_, exec_pipOverrun ht h0 (.inr hc), ?_⟩
  rw [pipOverrun_other s (by omega) (by omega)]
  exact ⟨reported_report _ ht (by decide), by simp [overrunTime], by simp [overrunTime], by simp [overrunTime], by simp⟩

theorem pipOverrun_nine : ∃ u, exec (.pipOverrun 9) s = .next u ∧ u.time.overrunCount = s.time.overrunCount + 1 := by
  refine ⟨_, exec_pipOverrun ht (by decide) (.inl rfl), ?_⟩
  rw [pipOverrun_other s (by decide) (by decide)]
  simp [overrunTime]

theorem pipOverrun_self_check {a : Fin 10} {h : HuskId} (ha : a = 1 ∨ a = 8) (hc : s.time.overruns.contains a.val = false)
    (hh : actingHusk s = some h) :
    ∃ u, exec (.pipOverrun a) s = .next u ∧ reported u (Pt.huskCheck h) := by
  refine ⟨_, exec_pipOverrun ht (by rcases ha with rfl | rfl <;> decide) (.inr hc), ?_⟩
  rw [pipOverrun_acting (h := h) (by omega) hh]
  exact reported_huskFails h 4 ((timeRuns_of_pins (report_pins ..)).trans ht)

theorem refclkLost_row (hh : s.time.holdover = false) : ∃ u, exec .refclkLost s = .next u ∧ reported u 1824 ∧ u.time.holdover = true ∧
    u.time.refLost = true ∧ u.mode = s.mode ∧ u.time.pip = s.time.pip ∧ u.time.grain = s.time.grain :=
  ⟨_, exec_refclkLost ht hh, reported_report _ ht (by decide), by simp, by simp, by simp, by simp, by simp⟩

theorem aliveToggle_row (hg : s.time.grain = 0) (hp : pip s ≠ 0) (ha : s.pins.aliveAt ≠ pip s) (hw : allWell s = true)
    (hm : pip s % 500 = 0) : ∃ u, exec .aliveToggle s = .next u ∧ u.pins.alive = !s.pins.alive ∧ exec .aliveToggle u = .next u :=
  ⟨_, exec_aliveToggle ht hw hg hp hm ha, rfl, exec_aliveToggle_again rfl⟩

end

/-- The edge begins the next pip, and each window of the pip runs (R34, R40). -/
theorem window_rows {s : State} (ht : timeRuns s = true) :
    (∀ i, ∃ u, exec (.pipEdge i) s = .next u ∧ pip u = pip s + 1 ∧ u.time.grain = 0) ∧
    (s.time.eventPip ≠ some (pip s) → s.time.grain ≤ 895 →
      ∃ u, exec .eventDeliveryWindow s = .next u ∧ u.time.eventPip = some (pip s)) ∧
    ((actingHusk s).isSome = true → s.time.loopPip ≠ some (pip s) → s.time.grain ≤ 15 →
      ∀ i, ∃ u, exec (.huskLoop i) s = .next u ∧ u.time.loopPip = some (pip s)) ∧
    ((actingHusk s).isSome = true → s.time.commitPip ≠ some (pip s) → s.time.grain ≤ 1007 →
      ∃ u, exec .commitWindow s = .next u ∧ u.time.commitPip = some (pip s)) := by
  refine ⟨fun i => ⟨pipEdge s i, congrArg _ (if_pos ht), ?_, ?_⟩, fun he hg => ⟨_, rfl, ?_⟩,
    fun ha hl hg i => ⟨huskLoop s i, congrArg _ (if_pos ?_), ?_⟩, fun ha hc hg => ⟨commit s, congrArg _ (if_pos ?_), ?_⟩⟩
  · exact congrArg TimeB.pip (pipEdge_time s i)
  · exact congrArg TimeB.grain (pipEdge_time s i)
  · rw [wakeCores_time, eventWindow_time ht he hg]
  · simp [loopOpen, ht, ha, hl, hg, snapshotEnd]
  · exact congrArg TimeB.loopPip (huskLoop_time s i)
  · simp [commitOpen, ht, ha, hc, hg, commitEnd]
  · exact congrArg TimeB.commitPip (commit_time s)

theorem exec_resetNRelease_unpowered {s : State} (m : BitVec 3) (hr : s.pins.resetN = false) (hg : s.pins.standbyGood = false) :
    exec (.resetNRelease m) s = .next (modPins s (fun p => { p with resetN := true, mbaddr := m })) := by
  simp [exec, execResetNRelease, hr, hg]

theorem exec_resetNAssert_unpowered {s : State} (hr : s.pins.resetN = true) (hg : s.pins.standbyGood = false) :
    exec .resetNAssert s = .next (modPins s (fun p => { p with resetN := false })) := by simp [exec, execResetNAssert, hr, hg]

/-- RESET_N and standby power start and end M1 and M0 (R478, R500, R521). -/
theorem reset_rows (s : State) :
    (s.pins.resetN = false → ∀ m, ∃ u, exec (.resetNRelease m) s = .next u ∧ u.pins.resetN = true ∧ u.pins.mbaddr = m) ∧
    (s.pins.resetN = true → ∃ u, exec .resetNAssert s = .next u ∧ u.pins.resetN = false) ∧
    (s.pins.standbyGood = true → ∃ u, exec .standbyPowerLoss s = .next u ∧ u.pins.standbyGood = false ∧ u.mode.mode = 0) ∧
    (s.pins.standbyGood = false → ∃ u, exec .standbyPowerGood s = .next u ∧ u.pins.standbyGood = true ∧ u.mode.mode = 1) := by
  refine ⟨fun hr m => ?release, fun hr => ?assert, fun hg => ⟨_, exec_standbyPowerLoss hg, rfl, rfl⟩, fun hg => ?good⟩
  case release =>
    cases hg : s.pins.standbyGood with
    | true => exact ⟨_, exec_resetNRelease m hr hg, rfl, rfl⟩
    | false => exact ⟨_, exec_resetNRelease_unpowered m hr hg, rfl, rfl⟩
  case assert =>
    cases hg : s.pins.standbyGood with
    | true => exact ⟨_, exec_resetNAssert hr hg, rfl⟩
    | false => exact ⟨_, exec_resetNAssert_unpowered hr hg, rfl⟩
  case good =>
    cases hr : s.pins.resetN with
    | true => exact ⟨_, exec_standbyPowerGood_started hg hr, rfl, rfl⟩
    | false => exact ⟨_, exec_standbyPowerGood_held hg hr, rfl, rfl⟩

/-- Settles O53: the time base is written by the edge, the windows, the overruns and the reference clock alone, and each row of the
pins is read off its command. -/
theorem clockAndPowerPins : Obligations.ClockAndPowerPins := by
  refine ⟨fun s ht => ⟨fun a h0 h1 h8 hc => pipOverrun_row ht h0 h1 h8 hc,
      ⟨exec_pipOverrun_none s, fun a h9 hc => exec_pipOverrun_again h9 hc⟩, pipOverrun_nine ht,
      fun a h ha hc hh => ?check, fun hh => refclkLost_row ht hh,
      fun hh => ⟨_, exec_holdoverExit ht hh, rfl, rfl, rfl⟩, fun hg hp ha h1 h10 hs hn hw hm => ?alive, fun h => ?quiet⟩,
    fun s ht => window_rows ht, reset_rows,
    fun s ht => ⟨fun hp h2 h10 => ?fall, fun h1 => ⟨_, exec_pwrOkFall_early h1, rfl, rfl, rfl⟩, fun hm hb hh => ?rise,
      fun hm hh => ?held, fun high h2 => ⟨?lossA, ?lossB⟩,
      fun h2 => ⟨⟨_, exec_ivrCurrentLimit 0 ht h2, rfl, rfl⟩, ⟨_, exec_ivrCurrentLimit 1 ht h2, rfl, rfl⟩⟩, fun i hi => ?trip,
      fun v i hg hr hi => ?tripInReset⟩⟩
  case check =>
    obtain ⟨u, hu, hr⟩ := pipOverrun_self_check ht ha hc hh
    exact ⟨u, hu, by cases h <;> exact hr⟩
  case alive => exact aliveToggle_row ht hg hp ha (by simp [allWell, h1, h10, hs, hn, hw]) hm
  case quiet => exact exec_aliveToggle_off (h.imp id fun h => allWell_eq_false h)
  case fall =>
    have hA : reported (report (modPins s (fun p => { p with pwrOk := false })) (Pt.inputLoss 0) 3) 1831 :=
      reported_report _ ht (by decide)
    exact ⟨_, exec_pwrOkFall_running hp h2 h10, by simp, reported_report_of _ _ hA,
      reported_report _ ((timeRuns_of_pins (report_pins ..)).trans ht) (by decide), by simp⟩
  case rise =>
    obtain ⟨h2, hp⟩ := imageCheck_mode (s := modPins s (fun p => { p with pwrOk := true, inA := true, inB := true })) hm
    exact ⟨_, (exec_pwrOkRise ht).trans (congrArg _ (toImageCheck_begins hb rfl hh hm)), congrArg Pins.pwrOk (settle_pins _), h2, hp⟩
  case held => exact ⟨_, (exec_pwrOkRise ht).trans (congrArg _ (toImageCheck_held hh)), rfl⟩
  case lossA => exact ⟨_, exec_inputLoss 0 high ht h2, reported_report _ ht (by decide), by simp, by simp, by simp⟩
  case lossB => exact ⟨_, exec_inputLoss 1 high ht h2, reported_report _ ht (by decide), by simp, by simp, by simp⟩
  case trip =>
    have hg : s.pins.standbyGood = true := (Bool.and_eq_true_iff.mp ht).1
    refine ⟨_, exec_thermalTrip hg (hi.imp id fun h => ?_), reported_report _ ht (by decide), rfl, by simp⟩
    simp [diesPowered, ht, h]
  case tripInReset =>
    have hv : report v Pt.thermTrip i = v := report_off _ _ (by simp [timeRuns, hr])
    exact ⟨_, exec_thermalTrip hg (.inl hi), rfl, by rw [hv]; rfl⟩

end Sys2Proof.Machine
end

section
/-! SUPPORT. What an instruction that completes, one that traps and the entry of a trap leave: the state past the issue of a memory or task
instruction, and the set that has entered a trap. -/

namespace Sys2Proof.Machine

/-! ## Issue of memory and task instructions -/

theorem runs_of_ready {s : State} {c : Nat} (h : ready s c = true) : runs s c = true := by
  simp only [ready, Bool.and_eq_true] at h
  exact h.1

theorem fpDue_of_ready {s : State} {c : Nat} (h : ready s c = true) : fpDue (curSet s c) = false := by
  simpa only [ready, Bool.and_eq_true, Bool.not_eq_true'] using (Bool.and_eq_true_iff.mp h).2

theorem issueWith_done {s : State} {c : Nat} {z : Size} {i : Instr} {body : State → MemRes} {s1 : State} (h : runs s c = true)
    (hb : body s = .done s1) : issueWith false s c z i body = retire s1 c (lcore s c).cur := by
  simp [issueWith, h, hb]

/-- A precise trap comes before a pending floating-point trap (R88). -/
theorem issueWith_trap {s : State} {c : Nat} {z : Size} {i : Instr} {body : State → MemRes} {s1 : State} {r : TrapRec} (fp : Bool)
    (h : runs s c = true) (hb : body s = .trap s1 r) : issueWith fp s c z i body = raiseTrap s1 c z r := by
  simp [issueWith, h, hb]

theorem issueMem_done {s : State} {c : Nat} {z : Size} {i : Instr} {body : State → MemRes} {s1 : State} (h : ready s c = true)
    (hb : body s = .done s1) : issueMem s c z i body = retire s1 c (lcore s c).cur := by
  rw [issueMem, fpDue_of_ready h, issueWith_done (runs_of_ready h) hb]

theorem issueMem_trap {s : State} {c : Nat} {z : Size} {i : Instr} {body : State → MemRes} {s1 : State} {r : TrapRec}
    (h : ready s c = true) (hb : body s = .trap s1 r) : issueMem s c z i body = raiseTrap s1 c z r :=
  issueWith_trap _ (runs_of_ready h) hb

theorem issuePoint_done {s : State} {c : Nat} {z : Size} {i : Instr} {body : State → MemRes} {s1 : State} (h : ready s c = true)
    (hp : (curSet s c).fstat.pend = 0#5) (hb : body s = .done s1) : issuePoint s c z i body = retire s1 c (lcore s c).cur := by
  rw [issuePoint, hp]
  exact issueWith_done (runs_of_ready h) hb

theorem issuePoint_trap {s : State} {c : Nat} {z : Size} {i : Instr} {body : State → MemRes} {s1 : State} {r : TrapRec}
    (h : ready s c = true) (hb : body s = .trap s1 r) : issuePoint s c z i body = raiseTrap s1 c z r :=
  issueWith_trap _ (runs_of_ready h) hb

/-! ## Retirement -/

/-- A retirement moves the counts of the core and of one set, and fetches; no memory and no cache but an instruction L1 changes. -/
theorem retire_frame (s : State) (c k : Nat) : ∃ ls l fr,
    retire s c k = { s with lcores := ls, coh := { s.coh with l1i := l }, free := fr } := by
  obtain ⟨l, fr, h⟩ := advance_frame s c
  exact ⟨_, l, fr, by rw [retire, h]; rfl⟩

@[simp] theorem retire_mem (s : State) (c k : Nat) : (retire s c k).mem = s.mem := by
  obtain ⟨ls, l, fr, h⟩ := retire_frame s c k
  rw [h]

theorem retire_coh (s : State) (c k : Nat) : { (retire s c k).coh with l1i := s.coh.l1i } = s.coh := by
  obtain ⟨ls, l, fr, h⟩ := retire_frame s c k
  rw [h]

theorem l2Data_retire (s : State) (c k a ln : Nat) : l2Data (retire s c k) a ln = l2Data s a ln := by
  obtain ⟨ls, l, fr, h⟩ := retire_frame s c k
  rw [h]; rfl

@[simp] theorem retire_cur (s : State) (c k : Nat) : (lcore (retire s c k) c).cur = (lcore s c).cur := by
  rw [retire, modSet_cur, lcore_advance, lcore_modLCore_same]

/-- The set as a retirement leaves it: the age of its pending floating-point exceptions moves (R106). -/
def aged (t : TaskSet) : TaskSet := { t with fpAge := if t.fstat.pend = 0#5 then 0 else t.fpAge + 1 }

theorem taskSet_retire_same (s : State) (c k : Nat) : taskSet (retire s c k) c k = aged (taskSet s c k) := by
  rw [retire, taskSet_modSet, if_pos ⟨rfl, rfl⟩, taskSet_advance]; rfl

theorem taskSet_retire_other (s : State) (c : Nat) {k j : Nat} (h : j ≠ k) : taskSet (retire s c k) c j = taskSet s c j := by
  rw [retire, taskSet_modSet, if_neg fun e => h e.2, taskSet_advance]

/-! ## The sets of one core -/

theorem taskSet_modSet_same (s : State) (c k : Nat) (f : TaskSet → TaskSet) : taskSet (modSet s c k f) c k = f (taskSet s c k) := by
  rw [taskSet_modSet, if_pos ⟨rfl, rfl⟩]

theorem taskSet_modSet_other (s : State) (c : Nat) {k j : Nat} (f : TaskSet → TaskSet) (h : j ≠ k) :
    taskSet (modSet s c k f) c j = taskSet s c j := by
  rw [taskSet_modSet, if_neg fun e => h e.2]

/-! ## Trap entry -/

@[simp] theorem consume_g (t : TaskSet) (n : Nat) : (consume t n).g = t.g := by unfold consume; (repeat' split) <;> rfl
@[simp] theorem consume_tvec (t : TaskSet) (n : Nat) : (consume t n).tvec = t.tvec := by unfold consume; (repeat' split) <;> rfl

@[simp] theorem entrySet_g (t : TaskSet) (r : TrapRec) (tepc : W64) (long : Bool) : (entrySet t r tepc long).g = t.g := consume_g ..

theorem entrySet_pc (t : TaskSet) (r : TrapRec) (tepc : W64) (long : Bool) :
    (entrySet t r tepc long).pc = TWord.mkCode (t.tvec.data + BitVec.ofNat 64 (64 * r.no)) := by simp [entrySet]

theorem consume_event (t : TaskSet) :
    consume t Trap.event = { t with tstat := { t.tstat with evpend := false }, staged := none } := rfl

theorem consume_machineCheck (t : TaskSet) : consume t Trap.machineCheck = { t with tstat := { t.tstat with mcpend := false } } := rfl

theorem takeTrap_entry {s : State} {c : Nat} {r : TrapRec} (n : Nat) (tepc : W64) (long : Bool) (hi : (curSet s c).tstat.intrap = false)
    (hv : tvecOk (curSet s c) = true) :
    takeTrap (n + 1) s c r tepc long = advance (modCur s c (fun t => entrySet t r tepc long)) c := by
  simp [takeTrap, hi, hv]

theorem curSet_advance (s : State) (c : Nat) : curSet (advance s c) c = curSet s c := by
  rw [curSet, taskSet_advance, lcore_advance, lcore_modLCore_same]; rfl

@[simp] theorem advance_mem (s : State) (c : Nat) : (advance s c).mem = s.mem := by
  obtain ⟨l, fr, h⟩ := advance_frame s c
  rw [h]; rfl

/-- What is pending is entered in the RUNNING set. -/
theorem enterPending_some {s : State} {c : Nat} {p : Bool} {r : TrapRec} (hr : pendingEntry (lcore s c) (curSet s c) p = some r)
    (hi : (curSet s c).tstat.intrap = false) (hv : tvecOk (curSet s c) = true) :
    enterPending s c p = advance (modCur s c (fun t => entrySet t r (curSet s c).pc.data false)) c := by
  rw [enterPending, hr]
  exact takeTrap_entry 32 _ _ hi hv

theorem enterPending_none {s : State} {c : Nat} {p : Bool} (hr : pendingEntry (lcore s c) (curSet s c) p = none) :
    enterPending s c p = s := by
  rw [enterPending, hr]

/-- Nothing is pending in a set with MCPEND and EVPEND clear. -/
theorem pendingEntry_none (l : LCore) {t : TaskSet} (p : Bool) (hm : t.tstat.mcpend = false) (he : t.tstat.evpend = false) :
    pendingEntry l t p = none := by simp [pendingEntry, hm, he]

/-- A machine check goes first (R119, R132). -/
theorem pendingEntry_machineCheck (l : LCore) {t : TaskSet} (p : Bool) (hm : t.tstat.mcpend = true) (hi : t.tstat.intrap = false) :
    pendingEntry l t p = some { no := Trap.machineCheck, sub := l.mcCause } := by simp [pendingEntry, hm, hi]

theorem pendingEntry_event (l : LCore) {t : TaskSet} (p : Bool) (hm : t.tstat.mcpend = false) (he : t.tstat.evpend = true)
    (hk : t.tstat.evmask = false) : pendingEntry l t p = some { no := Trap.event, sub := t.staged.getD 0 } := by
  simp [pendingEntry, hm, he, hk]

/-- The number, the SUBCAUSE and a clear LONG in the low bits of TCAUSE (R89). -/
theorem tcauseWord_low {no sub : Nat} (p : Bool) (hn : no < 256) (hs : sub < 256) :
    (tcauseWord { no := no, sub := sub } p false).toNat % 2 ^ 17 = sub * 256 + no := by
  have hp : flag p 17 = 2 ^ 17 * p.toNat := by cases p <;> rfl
  have hl : flag false 16 = 0 := rfl
  simp only [tcauseWord, place, hp, hl, BitVec.toNat_ofNat, Nat.shiftLeft_eq]
  omega

end Sys2Proof.Machine
end

section
/-! Entry of EVENT and MACHINE_CHECK, and RETT (R119, R129, R131, R132, R420). -/

namespace Sys2Proof.Machine

theorem exec_event {s : State} {c : LC} (h : runs s c = true) (he : (curSet s c).tstat.evpend = true)
    (hk : (curSet s c).tstat.evmask = false) : exec (.event c) s = .next (enterPending s c false) := by
  simp [exec, execEvent, h, he, hk]

theorem exec_machineCheck {s : State} {c : LC} (h : runs s c = true) (hm : (curSet s c).tstat.mcpend = true)
    (hi : (curSet s c).tstat.intrap = false) : exec (.machineCheck c) s = .next (enterPending s c false) := by
  simp [exec, execMachineCheck, h, hm, hi]

/-- The RUNNING set after an entry that no instruction causes. -/
theorem curSet_entered (s : State) (c : Nat) (r : TrapRec) :
    curSet (advance (modCur s c (fun t => entrySet t r (curSet s c).pc.data false)) c) c =
      entrySet (curSet s c) r (curSet s c).pc.data false := by
  rw [curSet_advance, curSet_modCur]

/-- The RUNNING set that RETT leaves (R129). -/
def returned (t : TaskSet) : TaskSet :=
  { t with pc := t.tepc, tstat := { t.tstat with priv := t.tstat.ppriv, evmask := t.tstat.pevmask, intrap := false } }

theorem rettBody_done {s : State} {c : Nat} (hp : (curSet s c).tstat.priv = true) (ht : (curSet s c).tepc.tag = Tag.code)
    (ha : (curSet s c).tepc.data.getLsbD 0 = false) (hm : (curSet s c).tstat.mcpend = false) :
    rettBody s c = .done (modCur s c returned) := by
  have hc : (curSet (modCur s c returned) c).tstat.mcpend = false := by rw [curSet_modCur]; exact hm
  simp only [rettBody, hp, ht, bitOf, ha, Bool.not_true, Bool.false_eq_true, if_false, ne_eq, not_true_eq_false]
  exact congrArg MemRes.done (if_neg (by rw [Bool.not_eq_true]; exact hc))

theorem rettBody_priv {s : State} {c : Nat} (hp : (curSet s c).tstat.priv = false) : rettBody s c = .trap s { no := Trap.priv } := by
  simp [rettBody, hp, privTrap]

theorem rettBody_tag {s : State} {c : Nat} (hp : (curSet s c).tstat.priv = true) (ht : (curSet s c).tepc.tag ≠ Tag.code) :
    rettBody s c = .trap s { no := Trap.tagMismatch, sub := 6, tagf := (curSet s c).tepc.tag } := by
  simp [rettBody, hp, ht, tagTrap]

/-- Settles O13: the entry that is pending is EVENT or MACHINE_CHECK, and the set that has entered it is read off; the three outcomes of
RETT are the three branches of its body. -/
theorem eventEntry : Obligations.EventEntry := by
  refine ⟨fun s c => ?entries, fun s c hr => ⟨fun hp ht ha hm => ?returns, fun hp => ?priv, fun hp ht => ?tag⟩⟩
  case entries =>
    intro t h hi hv
    refine ⟨fun hm he hk n hn hs => ?event, fun hm hn => ?machineCheck⟩
    case event =>
      subst hs
      refine ⟨_, (exec_event h he hk).trans (congrArg _ (enterPending_some (pendingEntry_event _ _ hm he hk) hi hv)), ?_⟩
      rw [curSet_entered, advance_mem]
      exact ⟨by simp [entrySet, consume_event], by simp [entrySet, consume_event], tcauseWord_low _ (by decide) hn, rfl,
        entrySet_pc .., entrySet_g .., rfl⟩
    case machineCheck =>
      refine ⟨_, (exec_machineCheck h hm hi).trans (congrArg _ (enterPending_some (pendingEntry_machineCheck _ _ hm hi) hi hv)), ?_⟩
      rw [curSet_entered, advance_mem]
      exact ⟨by simp [entrySet, consume_machineCheck], by simp [entrySet, consume_machineCheck, t],
        by simp [entrySet, consume_machineCheck, t], tcauseWord_low _ (by decide) hn, rfl, entrySet_pc .., entrySet_g .., rfl⟩
  case returns => exact congrArg _ (issueMem_done hr (rettBody_done hp ht ha hm))
  case priv => exact congrArg _ (issueMem_trap hr (rettBody_priv hp))
  case tag => exact congrArg _ (issueMem_trap hr (rettBody_tag hp ht))

end Sys2Proof.Machine
end

section
/-! SUPPORT. Words stored in lines that an L2 holds, and read back. -/

namespace Sys2Proof.Machine

/-! ## One store -/

/-- A store of a word that the L2 owns writes that line and nothing else: the line is held in M, so no L1 gives it up. -/
theorem l2Store_eq (s : State) (a ln k : Nat) (w : CWord) : l2Store s a ln k w =
    modCoh s (fun c => { c with
      l2 := tset c.l2 (l2Key a ln) { l2Line s a ln with st := .st .m, data := lineSet (l2Line s a ln).data k w } }) := by
  simp [l2Store, setL2, l2Holds]

@[simp] theorem l2Store_lcores (s : State) (a ln k : Nat) (w : CWord) : (l2Store s a ln k w).lcores = s.lcores := by rw [l2Store_eq]; rfl
@[simp] theorem l2Store_mem (s : State) (a ln k : Nat) (w : CWord) : (l2Store s a ln k w).mem = s.mem := by rw [l2Store_eq]; rfl

theorem l2Data_l2Store (s : State) (a ln m k : Nat) (w : CWord) :
    l2Data (l2Store s a ln k w) a m = if m = ln then lineSet (l2Data s a ln) k w else l2Data s a m := by
  have hk : l2Key a m = l2Key a ln ↔ m = ln := by simp [l2Key]
  rw [l2Store_eq]
  simp only [l2Data, l2Line, modCoh_coh, tget_tset, hk]
  split <;> rfl

theorem lineWord_lineSet {l : Line} {k : Nat} (j : Nat) (w : CWord) (h : k < l.length) :
    lineWord (lineSet l k w) j = if j = k then w else lineWord l j := by
  simp only [lineWord, lineSet, List.getD_eq_getElem?_getD, List.getElem?_set]
  by_cases hj : k = j
  · subst hj; simp [h]
  · simp [hj, Ne.symm hj]

/-! ## The words of a frame (R122, R123) -/

/-- Word `i` of the frame at the physical lines `pas`, as the L2 holds it. -/
def frameWord (s : State) (c : Nat) (pas : List Nat) (i : Nat) : CWord := lineWord (l2Data s c (lineOf (pas.getD (i / 16) 0))) (i % 16)

/-- The first `n` lines of a frame are distinct and whole in the L2. -/
def FrameHeld (s : State) (c : Nat) (pas : List Nat) (n : Nat) : Prop :=
  (∀ i < n, (l2Data s c (lineOf (pas.getD i 0))).length = 16) ∧
  (∀ i < n, ∀ j < n, lineOf (pas.getD i 0) = lineOf (pas.getD j 0) → i = j)

/-- The store of word `i` of a frame. -/
def frameSet (s : State) (c : Nat) (pas : List Nat) (i : Nat) (w : TWord) : State :=
  l2Store s c (lineOf (pas.getD (i / 16) 0)) (i % 16) { w := w, poison := false }

theorem frameStore_cons (s : State) (c : Nat) (pas : List Nat) (w : Nat × TWord) (ws : List (Nat × TWord)) :
    frameStore s c pas (w :: ws) = frameStore (frameSet s c pas w.1 w.2) c pas ws := rfl

theorem FrameHeld.frameSet {s : State} {c : Nat} {pas : List Nat} {n : Nat} (h : FrameHeld s c pas n) {i : Nat} (hi : i < 16 * n)
    (w : TWord) : FrameHeld (frameSet s c pas i w) c pas n := by
  refine ⟨fun j hj => ?_, h.2⟩
  rw [Machine.frameSet, l2Data_l2Store]
  split
  · rw [lineSet, List.length_set]
    exact h.1 _ (by omega)
  · exact h.1 j hj

/-- A word of a frame that is stored reads back, and no other word of the frame changes. -/
theorem frameWord_frameSet {s : State} {c : Nat} {pas : List Nat} {n : Nat} (h : FrameHeld s c pas n) {i j : Nat} (hi : i < 16 * n)
    (hj : j < 16 * n) (w : TWord) :
    frameWord (frameSet s c pas i w) c pas j = if j = i then { w := w, poison := false } else frameWord s c pas j := by
  rw [frameWord, frameSet, l2Data_l2Store]
  by_cases hl : j / 16 = i / 16
  · rw [hl, if_pos rfl, lineWord_lineSet _ _ (by rw [h.1 _ (by omega)]; omega), frameWord, hl]
    have he : j % 16 = i % 16 ↔ j = i := by omega
    simp only [he]
  · have hne : lineOf (pas.getD (j / 16) 0) ≠ lineOf (pas.getD (i / 16) 0) := fun e => hl (h.2 _ (by omega) _ (by omega) e)
    rw [if_neg hne, if_neg (fun e => hl (by rw [e])), frameWord]

theorem frameWord_frameStore_other {s : State} {c : Nat} {pas : List Nat} {n : Nat} {ws : List (Nat × TWord)} (h : FrameHeld s c pas n)
    (hw : ∀ w ∈ ws, w.1 < 16 * n) {j : Nat} (hj : j < 16 * n) (hn : j ∉ ws.map (·.1)) :
    frameWord (frameStore s c pas ws) c pas j = frameWord s c pas j := by
  induction ws generalizing s with
  | nil => rfl
  | cons w ws ih =>
    simp only [List.map_cons, List.mem_cons, not_or] at hn
    rw [List.forall_mem_cons] at hw
    rw [frameStore_cons, ih (h.frameSet hw.1 _) hw.2 hn.2, frameWord_frameSet h hw.1 hj, if_neg hn.1]

/-- Words stored under distinct numbers all read back. -/
theorem frameWord_frameStore {s : State} {c : Nat} {pas : List Nat} {n : Nat} {ws : List (Nat × TWord)} (h : FrameHeld s c pas n)
    (hw : ∀ w ∈ ws, w.1 < 16 * n) (hd : (ws.map (·.1)).Nodup) :
    ∀ w ∈ ws, frameWord (frameStore s c pas ws) c pas w.1 = { w := w.2, poison := false } := by
  induction ws generalizing s with
  | nil => simp
  | cons w ws ih =>
    rw [List.forall_mem_cons] at hw
    rw [List.map_cons, List.nodup_cons] at hd
    have h1 := h.frameSet hw.1 w.2
    rw [List.forall_mem_cons, frameStore_cons]
    refine ⟨?_, ih h1 hw.2 hd.2⟩
    rw [frameWord_frameStore_other h1 hw.2 hw.1 hd.1, frameWord_frameSet h hw.1 hw.1, if_pos rfl]

@[simp] theorem frameStore_lcores (s : State) (c : Nat) (pas : List Nat) (ws : List (Nat × TWord)) :
    (frameStore s c pas ws).lcores = s.lcores := by
  induction ws generalizing s with
  | nil => rfl
  | cons w ws ih => rw [frameStore_cons, ih, frameSet, l2Store_lcores]

@[simp] theorem frameStore_mem (s : State) (c : Nat) (pas : List Nat) (ws : List (Nat × TWord)) : (frameStore s c pas ws).mem = s.mem := by
  induction ws generalizing s with
  | nil => rfl
  | cons w ws ih => rw [frameStore_cons, ih, frameSet, l2Store_mem]

/-- The 40 words of the basic area, numbered as they lie in the frame. -/
theorem frameWords_numbers (k : Nat) {t : TaskSet} (h : t.tstat.vused = false) : (frameWords k t).map (·.1) = List.range 40 := by
  rw [frameWords, h]; rfl

/-! ## Lines that the L2 holds already -/

/-- An access whose lines are all there goes on at once. -/
theorem withLines_held {s : State} {c : Nat} {own : Bool} {l : List Nat} (k : State → MemRes)
    (h : ∀ ln ∈ l, (if own then storeHit s c ln else loadHit s c ln) = true) : withLines s c own l k = k s := by
  induction l with
  | nil => rfl
  | cons ln l ih =>
    rw [List.forall_mem_cons] at h
    simp only [withLines, h.1, if_true]
    exact ih h.2

/-- No home is asked for a line that is there. -/
theorem frameIsolated_held {s : State} {c : Nat} (base : W64) {pas : List Nat} {own : Bool} {ns : List Nat}
    (h : ∀ n ∈ ns, (if own then storeHit s c (lineOf (pas.getD n 0)) else loadHit s c (lineOf (pas.getD n 0))) = true) :
    frameIsolated s c base pas own ns = .ok () := by
  unfold frameIsolated
  split
  · next n hn =>
    have hlost := List.find?_some hn
    simp only [h n (List.mem_of_find?_eq_some hn), Bool.not_true, Bool.false_and, Bool.false_eq_true] at hlost
  · rfl

/-! ## Sets read through a change of the cores alone -/

theorem taskSet_of_lcores {s t : State} (h : t.lcores = s.lcores) (c k : Nat) : taskSet t c k = taskSet s c k := by
  simp only [taskSet, lcore, h]

theorem cur_of_lcores {s t : State} (h : t.lcores = s.lcores) (c : Nat) : (lcore t c).cur = (lcore s c).cur := by
  simp only [lcore, h]

end Sys2Proof.Machine
end

section
/-! TSAVE, TLOAD and TSWITCH (R114, R117-R119, R122-R124). -/

namespace Sys2Proof.Machine

/-! ## The target of TSAVE and TLOAD (R120, R121) -/

theorem frameTarget_save {s : State} {c rb k : Nat} (hp : (curSet s c).tstat.priv = true) (hk : setNumber (curSet s c) rb = .ok k)
    (hc : k ≠ (lcore s c).cur) (h0 : k ≠ 0) (he : (taskSet s c k).tstat.state ≠ .empty) : frameTarget s c rb true = .ok k := by
  simp [frameTarget, hp, hk, hc, h0, he, bind, Except.bind, pure, Except.pure]

theorem frameTarget_load {s : State} {c rb k : Nat} (hp : (curSet s c).tstat.priv = true) (hk : setNumber (curSet s c) rb = .ok k)
    (hc : k ≠ (lcore s c).cur) (he : (taskSet s c k).tstat.state = .empty) : frameTarget s c rb false = .ok k := by
  simp [frameTarget, hp, hk, hc, he, bind, Except.bind, pure, Except.pure]

/-! ## TSAVE -/

/-- The lines of a frame at consecutive addresses. -/
theorem frameLine_address {pas : List Nat} (hpas : pas = (List.range 9).map (fun n => pas.getD 0 0 + 128 * n)) {n : Nat} (hn : n < 9) :
    pas.getD n 0 = pas.getD 0 0 + 128 * n := by
  have h := congrArg (fun l => l.getD n 0) hpas
  simpa [hn] using h

/-- 252 GiB (R197). -/
theorem hbmTop_eq : hbmTop = 252 * 2 ^ 30 := rfl

/-- A frame that lies in HBM has no line in CXL memory or in a device window. -/
theorem frame_in_hbm {pas : List Nat} (hpas : pas = (List.range 9).map (fun n => pas.getD 0 0 + 128 * n))
    (htop : pas.getD 0 0 + 1152 ≤ hbmTop) :
    (List.range 9).find? (fun n => isCxl (pas.getD n 0) || (devOf (pas.getD n 0)).isSome) = none := by
  rw [hbmTop_eq] at htop
  rw [List.find?_eq_none]
  intro n hn
  rw [List.mem_range] at hn
  have hb := frameLine_address hpas hn
  have hc : ¬cxlBase ≤ pas.getD n 0 := by simp only [cxlBase]; omega
  have hd : ¬devBase ≤ pas.getD n 0 := by simp only [devBase]; omega
  simp only [isCxl, cxlPortOf, devOf, hc, hd, false_and, if_false]
  decide

theorem frameWords_low (k : Nat) {t : TaskSet} (h : t.tstat.vused = false) : ∀ w ∈ frameWords k t, w.1 < 16 * 3 := by
  intro w hw
  have hn := List.mem_map_of_mem (f := (·.1)) hw
  rw [frameWords_numbers k h, List.mem_range] at hn
  omega

theorem frameHeld_consecutive {s : State} {c : Nat} {pas : List Nat} (hpas : pas = (List.range 9).map (fun n => pas.getD 0 0 + 128 * n))
    (hw : ∀ n < 3, (l2Data s c (lineOf (pas.getD n 0))).length = 16) : FrameHeld s c pas 3 := by
  refine ⟨hw, fun i hi j hj h => ?_⟩
  rw [frameLine_address hpas (by omega), frameLine_address hpas (n := j) (by omega)] at h
  simp only [lineOf] at h
  omega

/-- The state in which TSAVE completes. -/
def tsaved (s : State) (c rd k : Nat) (pas : List Nat) (base : W64) : State :=
  modCur (modSet (frameStore s c pas (frameWords k (taskSet s c k))) c k savedSet) c
    (fun t => gwrite (pastPc t .long) rd (TWord.mkAddr base))

theorem tsaveBody_done {s : State} {c : Nat} {rd rb : Reg} {k : Nat} {pas : List Nat}
    (hk : frameTarget s c rb true = .ok k) (ha : (gread (taskSet s c k) 2).tag = Tag.addr)
    (hv : (taskSet s c k).tstat.vused = false) (he : (taskSet s c k).tstat.evpend = false)
    (hm : framePas s c (frameBase (gread (taskSet s c k) 2).data) .write false = .ok pas)
    (hh : (List.range 9).find? (fun n => isCxl (pas.getD n 0) || (devOf (pas.getD n 0)).isSome) = none)
    (hl : ∀ n < 3, storeHit s c (lineOf (pas.getD n 0)) = true) :
    tsaveBody s c rd rb = .done (tsaved s c rd k pas (frameBase (gread (taskSet s c k) 2).data)) := by
  have hi : frameIsolated s c (frameBase (gread (taskSet s c k) 2).data) pas true (frameLines false) = .ok () :=
    frameIsolated_held _ (by simpa [frameLines] using hl)
  have hu : unstage (frameStore s c pas (frameWords k (taskSet s c k))) c k = frameStore s c pas (frameWords k (taskSet s c k)) := by
    simp [unstage, taskSet_of_lcores (frameStore_lcores ..), he]
  simp only [tsaveBody, hk, ha, hv, hm, hh, hi, bind, Except.bind, pure, Except.pure, Except.mapError, orTrap, ne_eq,
    not_true_eq_false, if_false]
  rw [withLines_held _ (by simpa [frameLines] using hl), hu]
  rfl

theorem taskSet_tsaved_target {s : State} {c rd k : Nat} {pas : List Nat} {base : W64} (hc : k ≠ (lcore s c).cur) :
    taskSet (tsaved s c rd k pas base) c k = savedSet (taskSet s c k) := by
  have hcur : (lcore (frameStore s c pas (frameWords k (taskSet s c k))) c).cur = (lcore s c).cur := cur_of_lcores (frameStore_lcores ..) c
  rw [tsaved, modCur, modSet_cur, hcur, taskSet_modSet_other _ _ _ hc, taskSet_modSet_same, taskSet_of_lcores (frameStore_lcores ..)]

theorem gwrite_pastPc (t : TaskSet) (z : Size) (r : Nat) (w : TWord) : gwrite (pastPc t z) r w = pastPc (gwrite t r w) z := by
  unfold gwrite; split <;> rfl

theorem cur_tsaved (s : State) (c rd k : Nat) (pas : List Nat) (base : W64) :
    (lcore (tsaved s c rd k pas base) c).cur = (lcore s c).cur := by
  rw [tsaved, modCur, modSet_cur, modSet_cur, cur_of_lcores (frameStore_lcores ..)]

theorem curSet_tsaved {s : State} {c rd k : Nat} {pas : List Nat} {base : W64} (hc : k ≠ (lcore s c).cur) :
    curSet (tsaved s c rd k pas base) c = pastPc (gwrite (curSet s c) rd (TWord.mkAddr base)) .long := by
  have hcur : (lcore (frameStore s c pas (frameWords k (taskSet s c k))) c).cur = (lcore s c).cur := cur_of_lcores (frameStore_lcores ..) c
  rw [tsaved, curSet_modCur, curSet, modSet_cur, hcur, taskSet_modSet_other _ _ _ (Ne.symm hc), taskSet_of_lcores (frameStore_lcores ..),
    gwrite_pastPc]
  rfl

theorem tsaved_mem (s : State) (c rd k : Nat) (pas : List Nat) (base : W64) : (tsaved s c rd k pas base).mem = s.mem := by
  simp only [tsaved, modCur, modSet, modLCore_mem, frameStore_mem]

theorem frameWord_tsaved (s : State) (c rd k : Nat) (pas : List Nat) (base : W64) (i : Nat) :
    frameWord (tsaved s c rd k pas base) c pas i = frameWord (frameStore s c pas (frameWords k (taskSet s c k))) c pas i := by
  simp only [frameWord, l2Data, l2Line, tsaved, modCur, modSet, modLCore_coh]

theorem pastPc_gwrite_pc (t : TaskSet) (z : Size) (r : Nat) (w : TWord) : (pastPc (gwrite t r w) z).pc = (pastPc t z).pc := by
  simp only [pastPc, setPc, gwrite_pc]

/-- A retirement changes the RUNNING set's age alone. -/
theorem curSet_retire (s : State) (c : Nat) {k : Nat} (hk : (lcore s c).cur = k) : curSet (retire s c k) c = aged (curSet s c) := by
  rw [curSet, retire_cur, hk, taskSet_retire_same, curSet, hk]

/-! ## TLOAD -/

/-- The state in which TLOAD completes. -/
def tloaded (s : State) (c rd k : Nat) (pas : List Nat) : State :=
  modCur (modSet s c k (fun t => loadedSet t rd (fun i => (frameWord s c pas i).w))) c (fun t => pastPc t .long)

theorem loadWords_basic : ∀ i ∈ loadWords false, i < 40 := by decide

/-- A frame that TLOAD takes without asking a home: its lines are held, its header names the basic area alone, its program counter is
CODE, and no word of it is poisoned (R123, R124). -/
structure Loadable (s : State) (c : Nat) (pas : List Nat) : Prop where
  held : ∀ n < 3, loadHit s c (lineOf (pas.getD n 0)) = true
  raw : (frameWord s c pas 0).w.tag = Tag.raw
  version : field (frameWord s c pas 0).w.data 7 0 = 1
  reserved : field (frameWord s c pas 0).w.data 63 12 = 0
  basic : bitOf (frameWord s c pas 0).w.data 8 = false
  code : (frameWord s c pas 1).w.tag = Tag.code
  clean : ∀ i < 40, (frameWord s c pas i).poison = false

theorem Loadable.not_poisoned {s : State} {c : Nat} {pas : List Nat} (h : Loadable s c pas) :
    (loadWords false).find? (fun i => (frameWord s c pas i).poison) = none := by
  rw [List.find?_eq_none]
  intro i hi
  rw [h.clean i (loadWords_basic i hi)]
  decide

theorem tloadBody_done {s : State} {c : Nat} {rd ra rb : Reg} {k : Nat} {pas : List Nat} (hrd : rd.val ≤ 1)
    (hk : frameTarget s c rb false = .ok k) (ha : regTag s c ra = Tag.addr) (hal : (regData s c ra).toNat % 128 = 0)
    (hm : framePas s c (regData s c ra) .read true = .ok pas) (h : Loadable s c pas) :
    tloadBody s c rd ra rb = .done (tloaded s c rd k pas) := by
  obtain ⟨held, raw, version, reserved, basic, code, clean⟩ := id h
  have hclean := h.not_poisoned
  have hp0 : (frameWord s c pas 0).poison = false := clean 0 (by decide)
  have hp1 : (frameWord s c pas 1).poison = false := clean 1 (by decide)
  have hrd' : ¬1 < rd.val := by omega
  have hbase : baseReg (curSet s c) ra = .ok (regData s c ra) := baseReg_ok ha
  have hraw : isRawUser Tag.raw = true := by decide
  have hall : ∀ n ∈ frameLines false, loadHit s c (lineOf (pas.getD n 0)) = true := by simpa [frameLines] using held
  have hi0 : frameIsolated s c (regData s c ra) pas false [0] = .ok () := frameIsolated_held _ (by simpa using held 0 (by decide))
  have hi : frameIsolated s c (regData s c ra) pas false (frameLines false) = .ok () := frameIsolated_held _ (by simpa using hall)
  simp only [regData, frameWord] at hal hm hbase hi0 hi raw version reserved basic code hp0 hp1 hclean
  simp only [tloadBody, hrd', hk, hbase, hm, hal, hi0, bind, Except.bind, pure, Except.pure, orTrap, ne_eq, not_true_eq_false, if_false,
    ite_self]
  rw [withLines_held _ (by simpa using held 0 (by decide))]
  simp only [hp0, hp1, raw, hraw, version, reserved, basic, code, hi, Bool.not_true, Bool.false_eq_true, not_true_eq_false,
    or_self, if_false]
  rw [withLines_held _ (by simpa using hall)]
  simp only [hclean]
  rfl

/-- Reads of a table that lists the numbers that follow those from `a` on. -/
theorem tget_numbered {α : Type} (d : α) (f : Nat → α) {m a i : Nat} (ha : a ≤ i) (hi : i < a + m) :
    tget d ((List.range' a m).map (fun j => (j + 1, f j))) (i + 1) = f i := by
  induction m generalizing a with
  | zero => omega
  | succ m ih =>
    rw [List.range'_succ, List.map_cons, tget]
    by_cases he : i = a
    · rw [if_pos (by omega), he]
    · rw [if_neg (by omega), if_neg (by omega), ih (by omega) (by omega)]

theorem gread_loadedSet (t : TaskSet) (rd : Nat) (w : Nat → TWord) {n : Nat} (h1 : 1 ≤ n) (hn : n < 32) :
    gread (loadedSet t rd w) n = w (8 + n) := by
  obtain ⟨m, rfl⟩ := Nat.exists_eq_add_of_le' h1
  rw [gread, if_neg (by omega), loadedSet, List.range_eq_range', tget_numbered _ _ (Nat.zero_le m) (by omega)]
  congr 1; omega

/-- A frame without the extended area leaves the floating-point state and the V registers as in an EMPTY set. -/
theorem loadedSet_basic (t : TaskSet) (rd : Nat) {w : Nat → TWord} (h : bitOf (w 0).data 8 = false) :
    (loadedSet t rd w).fstat = {} ∧ (loadedSet t rd w).fepc = TWord.mkRaw 0#64 ∧ (loadedSet t rd w).v = [] := by
  simp [loadedSet, h]

theorem tloaded_mem (s : State) (c rd k : Nat) (pas : List Nat) : (tloaded s c rd k pas).mem = s.mem := by
  simp only [tloaded, modCur, modSet, modLCore_mem]

theorem taskSet_tloaded_target {s : State} {c rd k : Nat} {pas : List Nat} (hc : k ≠ (lcore s c).cur) :
    taskSet (tloaded s c rd k pas) c k = loadedSet (taskSet s c k) rd (fun i => (frameWord s c pas i).w) := by
  rw [tloaded, modCur, modSet_cur, taskSet_modSet_other _ _ _ hc, taskSet_modSet_same]

theorem cur_tloaded (s : State) (c rd k : Nat) (pas : List Nat) : (lcore (tloaded s c rd k pas) c).cur = (lcore s c).cur := by
  rw [tloaded, modCur, modSet_cur, modSet_cur]

theorem curSet_tloaded {s : State} {c rd k : Nat} {pas : List Nat} (hc : k ≠ (lcore s c).cur) :
    curSet (tloaded s c rd k pas) c = pastPc (curSet s c) .long := by
  rw [tloaded, curSet_modCur, curSet, modSet_cur, taskSet_modSet_other _ _ _ (Ne.symm hc)]; rfl

/-! ## TSWITCH -/

theorem switchCheck_ok {s : State} {c k : Nat} (hp : (curSet s c).tstat.priv = true ∨ (curSet s c).tstat.tallow.getLsbD k = true)
    (hr : (taskSet s c k).tstat.state = .ready) (hc : (taskSet s c k).pc.tag = Tag.code) : switchCheck s c k = .ok () := by
  rcases hp with h | h <;> simp [switchCheck, h, hr, hc]

theorem switchCheck_priv {s : State} {c k : Nat} (hp : (curSet s c).tstat.priv = false) (ha : (curSet s c).tstat.tallow.getLsbD k = false) :
    switchCheck s c k = .error { no := Trap.priv, sub := 1 } := by simp [switchCheck, hp, ha, privTrap]

theorem switchCheck_notReady {s : State} {c k : Nat} (hp : (curSet s c).tstat.priv = true) (hr : (taskSet s c k).tstat.state ≠ .ready) :
    switchCheck s c k = .error { no := Trap.priv, sub := 2 } := by simp [switchCheck, hp, hr, privTrap]

section
variable {s : State} {c : LC} {f : SwForm} {k : Nat} (h : ready s c = true) (hf : swTarget (curSet s c) f = .ok k)
include h hf

/-- To its own number TSWITCH only falls through (R118). -/
theorem exec_tswitch_self (hp : (curSet s c).fstat.pend = 0#5) (hk : k = (lcore s c).cur) :
    exec (.tswitch c f) s = .next (passed s c (swSize f) (curSet s c)) := by
  refine congrArg _ (issuePoint_done h hp (s1 := modCur s c (fun t => pastPc t (swSize f))) ?_)
  simp only [tswitchBody, hf, orTrap, hk, if_true]
  rfl

theorem exec_tswitch_trap {r : TrapRec} (hk : k ≠ (lcore s c).cur) (hr : switchCheck s c k = .error r) :
    exec (.tswitch c f) s = .next (raiseTrap s c (swSize f) r) := by
  refine congrArg _ (issuePoint_trap h ?_)
  simp only [tswitchBody, hf, orTrap, hk, hr, if_false]

theorem exec_tswitch_ok (hp : (curSet s c).fstat.pend = 0#5) (hk : k ≠ (lcore s c).cur) (hr : switchCheck s c k = .ok ()) :
    exec (.tswitch c f) s = .next (retire (switchTo s c k (swSize f)) c (lcore s c).cur) := by
  refine congrArg _ (issuePoint_done h hp ?_)
  simp only [tswitchBody, hf, orTrap, hk, hr, if_false]

end

/-- The sets of the core in a switch, before what the target has pending is entered. -/
def switched (s : State) (c k : Nat) (z : Size) : State :=
  modSet (modLCore (modCur s c (fun t => modTstat (pastPc t z) (fun x => { x with state := .ready }))) c (fun l => { l with cur := k })) c k
    (fun t => modTstat t (fun x => { x with state := .running }))

theorem switchTo_eq (s : State) (c k : Nat) (z : Size) : switchTo s c k z = enterPending (switched s c k z) c true := rfl

theorem cur_switched (s : State) (c k : Nat) (z : Size) : (lcore (switched s c k z) c).cur = k := by
  rw [switched, modSet_cur, lcore_modLCore_same]

theorem taskSet_modLCore_cur (s : State) (c k j : Nat) : taskSet (modLCore s c (fun l => { l with cur := k })) c j = taskSet s c j := by
  rw [taskSet, lcore_modLCore_same]; rfl

theorem taskSet_switched_target {s : State} {c k : Nat} {z : Size} (hk : k ≠ (lcore s c).cur) :
    taskSet (switched s c k z) c k = modTstat (taskSet s c k) (fun x => { x with state := .running }) := by
  rw [switched, taskSet_modSet_same, taskSet_modLCore_cur, modCur, taskSet_modSet_other _ _ _ hk]

theorem taskSet_switched_old {s : State} {c k : Nat} {z : Size} (hk : k ≠ (lcore s c).cur) :
    taskSet (switched s c k z) c (lcore s c).cur = modTstat (pastPc (curSet s c) z) (fun x => { x with state := .ready }) := by
  rw [switched, taskSet_modSet_other _ _ _ (Ne.symm hk), taskSet_modLCore_cur, modCur, taskSet_modSet_same]; rfl

theorem taskSet_switched_other {s : State} {c k j : Nat} {z : Size} (hj : j ≠ k) (hc : j ≠ (lcore s c).cur) :
    taskSet (switched s c k z) c j = taskSet s c j := by
  rw [switched, taskSet_modSet_other _ _ _ hj, taskSet_modLCore_cur, modCur, taskSet_modSet_other _ _ _ hc]

/-- A target with nothing pending runs on at its own program counter. -/
theorem switchTo_calm {s : State} {c k : Nat} {z : Size} (hk : k ≠ (lcore s c).cur) (hm : (taskSet s c k).tstat.mcpend = false)
    (he : (taskSet s c k).tstat.evpend = false) : switchTo s c k z = switched s c k z := by
  have ht : curSet (switched s c k z) c = modTstat (taskSet s c k) (fun x => { x with state := .running }) := by
    rw [curSet, cur_switched, taskSet_switched_target hk]
  rw [switchTo_eq]
  exact enterPending_none (by rw [ht]; exact pendingEntry_none _ _ hm he)

/-! ## The three instructions -/

theorem exec_tsave_done {s s1 : State} {c : LC} {rd rb : Reg} (h : ready s c = true) (hp : (curSet s c).fstat.pend = 0#5)
    (hb : tsaveBody s c rd rb = .done s1) : exec (.tsave c rd rb) s = .next (retire s1 c (lcore s c).cur) :=
  congrArg _ (issuePoint_done h hp hb)

theorem exec_tload_done {s s1 : State} {c : LC} {rd ra rb : Reg} (h : ready s c = true) (hb : tloadBody s c rd ra rb = .done s1) :
    exec (.tload c rd ra rb) s = .next (retire s1 c (lcore s c).cur) :=
  congrArg _ (issueMem_done h hb)

/-- Settles O12: with the lines held no home is asked, so that TSAVE and TLOAD complete at once and the state they leave is read off; a
frame's words are stored under distinct numbers and read back. TSWITCH is its target's check and the change of two sets. -/
theorem taskFrames : Obligations.TaskFrames := by
  refine ⟨fun s c rd rb k pas => ?save, fun s c rd ra rb k pas => ?load, fun s c f k h hp hf => ⟨?self, ?switch, ?priv, ?notReady⟩⟩
  case save =>
    intro t x base h hp hpriv hk hc h0 he ha hv hev hm hpas _ htop hl
    have hbody := tsaveBody_done (rd := rd) (frameTarget_save hpriv hk hc h0 he) ha hv hev hm (frame_in_hbm hpas htop)
      fun n hn => (hl n hn).1
    have hx := (taskSet_retire_other (tsaved s c rd k pas base) c hc).trans (taskSet_tsaved_target hc)
    have hcur := (curSet_retire _ c (cur_tsaved s c rd k pas base)).trans (congrArg aged (curSet_tsaved hc))
    refine ⟨_, exec_tsave_done h hp hbody, ?_⟩
    rw [hx, hcur]
    refine ⟨rfl, rfl, rfl, rfl, rfl, rfl, rfl, rfl, rfl, rfl, pastPc_gwrite_pc .., (retire_mem ..).trans (tsaved_mem ..),
      fun w hw => ?_⟩
    rw [l2Data_retire]
    have hd : ((frameWords k x).map (·.1)).Nodup := by rw [frameWords_numbers k hv]; exact List.nodup_range
    exact (frameWord_tsaved ..).trans
      (frameWord_frameStore (frameHeld_consecutive hpas fun n hn => (hl n hn).2) (frameWords_low k hv) hd w hw)
  case load =>
    intro t base word hdr h hpriv hrd hk hc he ha hal hm hl hraw hver hres hbasic hcode hclean
    have hload : Loadable s c pas := ⟨hl, hraw, hver, hres, hbasic, hcode, hclean⟩
    have hbody := tloadBody_done (rb := rb) hrd (frameTarget_load hpriv hk hc he) ha hal hm hload
    have hy := (taskSet_retire_other (tloaded s c rd k pas) c hc).trans (taskSet_tloaded_target hc)
    have hcur := (curSet_retire _ c (cur_tloaded s c rd k pas)).trans (congrArg aged (curSet_tloaded hc))
    refine ⟨_, exec_tload_done h hbody, ?_⟩
    rw [hy, hcur]
    have hmem : (retire (tloaded s c rd k pas) c (lcore s c).cur).mem = s.mem := (retire_mem ..).trans (tloaded_mem ..)
    obtain ⟨hfstat, hfepc, hregs⟩ := loadedSet_basic (taskSet s c k) rd (w := fun i => (frameWord s c pas i).w) hload.basic
    exact ⟨⟨rfl, rfl, hbasic, rfl, rfl, rfl, rfl, rfl, rfl, rfl, rfl, rfl, rfl, rfl, fun n h1 hn => gread_loadedSet _ _ _ h1 hn,
      hfstat, hfepc, hregs⟩, rfl, rfl, hmem⟩
  case self => exact exec_tswitch_self h hf hp
  case switch =>
    intro hk hpriv hr hcode hm he
    refine ⟨_, exec_tswitch_ok h hf hp hk (switchCheck_ok hpriv hr hcode), ?_⟩
    rw [switchTo_calm hk hm he, retire_cur, cur_switched, taskSet_retire_other _ _ hk, taskSet_switched_target hk, taskSet_retire_same,
      taskSet_switched_old hk, retire_mem]
    exact ⟨rfl, rfl, rfl, rfl, rfl, rfl, rfl,
      fun j hj hj' => (taskSet_retire_other _ _ hj').trans (taskSet_switched_other hj hj'), rfl,
      retire_coh (switched s c k (swSize f)) c _⟩
  case priv => exact fun hk hpriv ha => exec_tswitch_trap h hf hk (switchCheck_priv hpriv ha)
  case notReady => exact fun hk hpriv hr => exec_tswitch_trap h hf hk (switchCheck_notReady hpriv hr)

end Sys2Proof.Machine
end

section
/-! What a request that the holder takes and that is no repeat leads to: the checks on it, and the reply to a command that only reads
(R399-R408). -/

namespace Sys2Proof.Machine

@[simp] theorem tfind_tset_same {α : Type} (l : List (Nat × α)) (n : Nat) (a : α) : tfind (tset l n a) n = some a := by
  induction l with
  | nil => simp [tset, tfind_cons]
  | cons e l ih =>
    rw [tset]
    split
    · next hn => simp [tfind_cons, hn]
    · next hn =>
      split
      · simp [tfind_cons]
      · simp [tfind_cons, Ne.symm hn, ih]

/-- Only finished operations are forgotten. -/
@[simp] theorem openOps_dropFinished (s : State) (q : Request) : openOps (dropFinished s q) = openOps s := by
  refine congrArg List.length ((List.filter_filter ..).trans (List.filter_congr fun o _ => ?_))
  cases o.done <;> rfl

@[simp] theorem mode_dropFinished (s : State) (q : Request) : (dropFinished s q).mode = s.mode := rfl
@[simp] theorem group_dropFinished (s : State) (q : Request) (g : Nat) : group (dropFinished s q) g = group s g := rfl
@[simp] theorem keyE_dropFinished (s : State) (q : Request) (n : Nat) : keyE (dropFinished s q) n = keyE s n := rfl
@[simp] theorem entryValue_dropFinished (s : State) (q : Request) (n : Nat) : entryValue (dropFinished s q) n = entryValue s n := rfl

@[simp] theorem privileged_dropFinished (s : State) (op : Nat) (q : Request) : privileged (dropFinished s q) op q = privileged s op q := rfl

theorem precheck_dropFinished {s : State} {op : Nat} {q : Request} (hp : isPoll q = false) :
    precheck (dropFinished s q) op q = precheck s op q := by
  simp [precheck, hp]

theorem takeRequest_fresh {s : State} {op : Nat} {q : Request} {h : Handler} (hf : fresh s q = true) (hp : isPoll q = false) :
    takeRequest s op q h =
      if privileged s op q then serveOpen (dropFinished s q) op q h
      else if openToAll op && wouldBe (dropFinished s q) op q h == St.ok then serveOpen (dropFinished s q) op q h
      else refuse (dropFinished s q) op q (wouldBe (dropFinished s q) op q h) := by
  unfold takeRequest
  cases hk : tfind s.husks.kept (senderKey q) with
  | none => simp [hp]
  | some k =>
    simp only [fresh, hk, hp, Bool.false_or, Bool.not_eq_true'] at hf
    simp [hp, hf]

theorem serveOpen_ok {s t : State} {op : Nat} {q : Request} {h : Handler} {r : List Byte} (hc : precheck s op q = none)
    (hp : isPoll q = false) (hh : h s q = .ok t r) : serveOpen s op q h = reply t op q St.ok 0 r := by
  simp [serveOpen, hc, hp, hh]

theorem wouldBe_ok {s t : State} {op : Nat} {q : Request} {h : Handler} {r : List Byte} (hc : precheck s op q = none)
    (hp : isPoll q = false) (hh : h s q = .ok t r) : wouldBe s op q h = St.ok := by
  simp [wouldBe, hc, hp, hh]

/-- A reply is kept and shown, to be read 1 to 3 pips later. -/
theorem replied_reply (s : State) (op : Nat) (q : Request) (st pr : Nat) (r : List Byte) : replied s (reply s op q st pr r) op q st r := by
  obtain ⟨hlo, hhi⟩ := replyDelay_bounds s
  exact ⟨_, tfind_tset_same .., tfind_tset_same .., rfl, rfl, rfl, rfl, rfl, rfl, Nat.lt_add_of_pos_right hlo, Nat.add_le_add_left hhi _⟩

/-! ## Commands that read -/

/-- `h` reads `r`: it answers with `r` and leaves the state as it is, which no longer holds the sender's finished operations (R400). -/
def Reads (h : Handler) (s : State) (q : Request) (r : List Byte) : Prop := h (dropFinished s q) q = .ok (dropFinished s q) r

/-- The request is answered with `r`, and but for the husks one free value is used. -/
def ReadDone (row : Instr) (s : State) (op : Nat) (q : Request) (r : List Byte) : Prop :=
  ∃ u, exec row s = .next u ∧ replied s u op q St.ok r ∧ u = { s with husks := u.husks, free := s.free + 1 }

section
variable {s : State} {op : Nat} {q : Request} {h : Handler} {r : List Byte} {row : Instr}

theorem readDone_of_serve (hrow : exec row s = .next (serve s op q h))
    (hs : serve s op q h = reply (dropFinished s q) op q St.ok 0 r) : ReadDone row s op q r :=
  ⟨_, hrow.trans (congrArg _ hs), replied_reply (dropFinished s q) .., rfl⟩

theorem privileged_of_granted (hg : granted s op q = true) : privileged s op q = true := by
  simp only [granted, Bool.and_eq_true] at hg
  obtain ⟨⟨⟨_, hv⟩, _⟩, _⟩ := hg
  exact hv

theorem readDone_of_granted (hrow : exec row s = .next (serve s op q h)) (hr : Reads h s q r) (hg : granted s op q = true) :
    ReadDone row s op q r := by
  simp only [granted, Bool.and_eq_true, Bool.not_eq_true', Option.isNone_iff_eq_none] at hg
  obtain ⟨⟨⟨⟨ht, hf⟩, hv⟩, hp⟩, hc⟩ := hg
  refine readDone_of_serve hrow ?_
  rw [serve_takes ht, takeRequest_fresh hf hp, if_pos hv, serveOpen_ok hc hp hr]

/-- The two opcodes open to all answer an unprivileged sender too (R408). -/
theorem readDone_of_openToAll (hop : openToAll op = true) (hrow : exec row s = .next (serve s op q h)) (hr : Reads h s q r)
    (ht : taking s q = true) (hf : fresh s q = true) (hv : privileged s op q = false) (hp : isPoll q = false)
    (hc : precheck s op q = none) : ReadDone row s op q r := by
  have hc' := (precheck_dropFinished hp).trans hc
  refine readDone_of_serve hrow ?_
  rw [serve_takes ht, takeRequest_fresh hf hp, hv, wouldBe_ok hc' hp hr, hop, serveOpen_ok hc' hp hr]
  rfl

end
end Sys2Proof.Machine
end

section
/-! The commands that read, each granted with its parameters in range: the branch of its handler that answers. -/

namespace Sys2Proof.Machine

/-- Settles O43: every handler is asked in a state that differs from the one before by forgotten operations alone, and its guards leave
the branch that answers with the result. -/
theorem readCommands : Obligations.ReadCommands := by
  intro s q
  refine ⟨fun hk => ?identityPage0, fun h1 hk => ?identityPage, fun v hv => ?configRead, fun hi => ?faultStatus, fun i hi hn hl => ?faultRecord,
    fun hk => ?historyRead, fun hk => ?trioStatusRead, fun hw => ?hullStatusRead, fun r hr => ?classRead, ?powerRead, fun hw => ?sensorRead,
    ?pipStatusRead, fun hk ht => ?trioDump, ?huskStatus, ?huskStatusOpen, fun hk => ?privLogRead, fun hk => ?partStatus,
    fun hw => ?sliceStatus, fun hw ho => ?groupStatus, fun hk hh => ?engStatus, fun x hx => ?keyInfo,
    fun hk => ?measurementRead, ?imageStatus⟩
  case identityPage0 =>
    have hr : Reads cmdIdentity s q (identityPage0 s) := (if_neg (by omega)).trans (if_pos hk)
    exact ⟨readDone_of_granted rfl hr, readDone_of_openToAll rfl rfl hr⟩
  case identityPage =>
    have hr : Reads cmdIdentity s q _ := (if_neg (Nat.not_lt.mpr hk)).trans (if_neg (Nat.ne_of_gt h1))
    exact ⟨readDone_of_granted rfl hr, readDone_of_openToAll rfl rfl hr⟩
  case configRead => exact readDone_of_granted (h := cmdConfigRead) rfl (by simp [Reads, cmdConfigRead, hv])
  case faultStatus => exact readDone_of_granted (h := cmdFaultLogRead) rfl (if_pos (congrArg (BitVec.ofNat 32) hi))
  case faultRecord =>
    have hp : BitVec.ofNat 32 (par q 0 4) = i := by rw [← hi, BitVec.ofNat_toNat, BitVec.setWidth_eq]
    refine readDone_of_granted (h := cmdFaultLogRead) rfl ?_
    rw [Reads, cmdFaultLogRead, hp]
    exact (if_neg hn).trans (if_pos hl)
  case historyRead => exact readDone_of_granted (h := cmdHistoryRead) rfl (if_neg (Nat.not_lt.mpr hk))
  case trioStatusRead => exact readDone_of_granted (h := cmdTrioStatusRead) rfl (if_neg (Nat.not_le.mpr hk))
  case hullStatusRead => exact readDone_of_granted (h := cmdHullStatusRead) rfl (if_neg (Nat.not_le.mpr hw))
  case classRead => exact readDone_of_granted (h := cmdClassRead) rfl (by rw [Reads, cmdClassRead, hr]; rfl)
  case powerRead => exact readDone_of_granted (h := cmdPowerRead) rfl rfl
  case sensorRead => exact readDone_of_granted (h := cmdSensorRead) rfl (if_neg (Nat.not_le.mpr hw))
  case pipStatusRead => exact readDone_of_granted (h := cmdPipStatusRead) rfl rfl
  case trioDump =>
    exact readDone_of_granted (h := cmdTrioDump) rfl (if_neg (not_or.mpr ⟨Nat.not_le.mpr hk, Nat.not_le.mpr ht⟩))
  case huskStatus =>
    intro hg
    have hv := privileged_of_granted hg
    exact readDone_of_granted (h := cmdHuskStatus) rfl (by rw [Reads, cmdHuskStatus, privileged_dropFinished, hv]; rfl) hg
  case huskStatusOpen =>
    intro ht hf hv
    exact readDone_of_openToAll (h := cmdHuskStatus) rfl rfl (by rw [Reads, cmdHuskStatus, privileged_dropFinished, hv]; rfl) ht hf hv
  case privLogRead => exact readDone_of_granted (h := cmdPrivLogRead) rfl (if_neg (Nat.not_lt.mpr hk))
  case partStatus =>
    have hp : partPar q = some (par q 0 1) := if_pos hk
    exact readDone_of_granted (h := cmdPartStatus) rfl (by rw [Reads, cmdPartStatus, hp]; rfl)
  case sliceStatus =>
    have hn : slicePar q = some (par q 0 2) := if_pos hw
    exact readDone_of_granted (h := cmdSliceStatus) rfl (by rw [Reads, cmdSliceStatus, hn]; rfl)
  case groupStatus =>
    have hg : groupPar q = some (par q 0 2) := if_pos hw
    have hn : ¬(!(group (dropFinished s q) (par q 0 2)).opened) = true := by simp [ho]
    refine ⟨fun hz => readDone_of_granted (h := cmdPgStatus) rfl ?wholeGroup,
      fun h0 hl => readDone_of_granted (h := cmdPgStatus) rfl ?onePath⟩ <;> rw [Reads, cmdPgStatus, hg]
    case wholeGroup => exact (if_neg hn).trans ((if_neg (by omega)).trans (if_pos hz))
    case onePath => exact (if_neg hn).trans ((if_neg (Nat.not_lt.mpr hl)).trans (if_neg (Nat.ne_of_gt h0)))
  case engStatus =>
    exact readDone_of_granted (h := cmdEngStatus) rfl (if_neg (not_or.mpr ⟨Nat.not_le.mpr hk, Nat.not_le.mpr hh⟩))
  case keyInfo => exact readDone_of_granted (h := cmdKeyInfo) rfl (by simp [Reads, cmdKeyInfo, hx])
  case measurementRead => exact readDone_of_granted (h := cmdMeasurementRead) rfl (if_neg (Nat.not_le.mpr hk))
  case imageStatus => exact readDone_of_granted (h := cmdImageStatus) rfl rfl

end Sys2Proof.Machine
end

section
/-! Counterexamples to statements on cache maintenance and on the homes (R84, R139, R172, R189, R226). -/

namespace Sys2Proof.Machine

/-! ## L2WB while an eviction is outstanding -/

/-- LCORE[0] runs at level S just after the WbDirty of line 0 has reached its home: L3 holds the line, its Cmp is on the way, and the L2
waits for it in XI_A with no line left in M (R172). -/
def evicting : State :=
  { pins := { resetN := true }
    mode := { mode := 5, base := 5 }
    trios := [(0, { state := .voted })]
    lcores := [(0, { sets := [(0, { tstat := { priv := true, state := .running } })], started := true })]
    coh :=
      { l2 := [(l2Key 0 0, { st := .xiA .m })]
        homes := [(0, { l3 := some Line.zero, l3Dirty := true })]
        net := [{ kind := .cmp, agent := 0, line := 0 }] } }

theorem evicting_ready : ready evicting 0 = true ∧ (curSet evicting 0).tstat.priv = true ∧ modifiedLines evicting 0 = [] := by decide

/-- With nothing to write back, L2WB still waits for the eviction that another access has started. -/
theorem l2wbBody_evicting : l2wbBody evicting 0 = .wait evicting waitEvict := by
  obtain ⟨-, hp, hm⟩ := evicting_ready
  have hl : (linesOf evicting 0 (fun x => decide (x = .st .m) || l2Leaving x)).isEmpty = false := by decide
  simp only [l2wbBody, hp, hm, forEach, List.foldl_nil, hl, if_true, Bool.false_eq_true, if_false]

/-- A memory instruction that waits is held with its core. -/
theorem issueMem_wait {s s1 : State} {c : Nat} {z : Size} {i : Instr} {body : State → MemRes} {ln : Nat} (h : ready s c = true)
    (hb : body s = .wait s1 ln) : issueMem s c z i body = modLCore s1 c (fun l => { l with wait := some (ln, i) }) := by
  simp [issueMem, issueWith, runs_of_ready h, fpDue_of_ready h, hb]

theorem wait_passed (s : State) (c : Nat) (z : Size) (t : TaskSet) : (lcore (passed s c z t) c).wait = (lcore s c).wait := by
  simp [passed, retired, retire, modSet, modCur, lcore_advance]

/-- Refutes O21: L2WB with no modified line does not always fall through. A line that the L2 is giving up is in XI_A and no longer in M,
and L2WB waits until it has reached I, whoever started its eviction (R84, R189). -/
theorem not_maintenanceResults : ¬ Obligations.MaintenanceResults := by
  intro h
  obtain ⟨hr, hp, hm⟩ := evicting_ready
  obtain ⟨-, -, fallsThrough, -⟩ := h evicting 0 0 0#14 0 hr
  have hw : exec (.l2wb 0 0 0#14) evicting =
      .next (modLCore evicting (0 : LC) (fun l => { l with wait := some (waitEvict, .l2wb 0 0 0#14) })) :=
    congrArg _ (issueMem_wait hr l2wbBody_evicting)
  have he := Host.Outcome.next.inj (hw.symm.trans (fallsThrough hp hm))
  have hwait := congrArg (fun u => (lcore u (0 : LC)).wait) he
  rw [wait_passed, lcore_modLCore_same] at hwait
  cases hwait

/-! ## A request without a credit while an atomic outside LCORE[0] to LCORE[127] waits -/

/-- The L2 of agent 0 has used its four credits at the home of line 0. The core table has an entry 128, which no logical core has: its near
atomic waits for line 1, which the L2 of agent 128 already holds in M (R139, R182). -/
def strayAtomic : State :=
  { pins := { resetN := true }
    mode := { mode := 5, base := 5 }
    stackTab := [(0, { state := .active, weight := 8 })]
    lcores := [(128, { replay := some { set := 0, rd := 1, value := TWord.void, arrived := false
                                        amo := some { pa := 128, args := ⟨.swap, TWord.mkInt 5#64, TWord.void⟩, near := true } } })]
    coh :=
      { l2 := [(l2Key 128 1, { st := .st .m })]
        out := List.replicate 4 { agent := 0, line := 0, r := .rdShared 0 false, row := true } } }

theorem strayAtomic_meets : inService strayAtomic = true ∧ calm strayAtomic 128 = true ∧ (homeOf strayAtomic 0).queue = [] ∧
    isolatedFrom strayAtomic (agentHalf 0) 0 = false ∧
    hasCredit strayAtomic { agent := 0, line := 0, r := .rdShared 0 false, row := true } = false := by decide

/-- The response of a core's atomic is in its replay buffer. -/
def answered (s : State) (c : Nat) : Bool := (lcore s c).replay.any (fun r => r.arrived)

theorem rdshared_answers_strayAtomic :
    answered (thenWake (rowRequest strayAtomic 0 0 (.rdShared 0 false) false false)) 128 = true := by decide

/-- Refutes O22: a request without a credit does not leave all else as it was. `calm s 128` asks every entry of the core table but number
128 to wait for nothing, and each row lets every waiting entry go on, so an atomic waiting there is performed with the row. The
statement does not exclude such an entry, though the module has no LCORE[128]. -/
theorem not_homeTakesRequests : ¬ Obligations.HomeTakesRequests := by
  rintro ⟨requests, -⟩
  obtain ⟨hs, hc, hq, hi, hn⟩ := strayAtomic_meets
  obtain ⟨waits, -⟩ := requests strayAtomic 0 0#45 hs hc hq
  have hrow : exec (.rdshared 0 0#45 false) strayAtomic =
      .next (thenWake (rowRequest strayAtomic 0 0 (.rdShared 0 false) false false)) :=
    congrArg _ (whenServing_on hs)
  have he := Host.Outcome.next.inj (hrow.symm.trans (waits false hi hn))
  have hgoes := rdshared_answers_strayAtomic
  rw [he] at hgoes
  exact absurd hgoes (by decide)

end Sys2Proof.Machine
end

section
/-! What the operations on caches, homes, messages and partitions leave of the units that they run on. The frame lemmas `units_f` say so one
operation at a time, in the order of the model, from the shared combinators up to the end of a line's transaction and the reset of a
partition. -/

namespace Sys2Proof.Machine

/-- The state of each stack, which of the domains that may sleep are awake, and the network but for those domains; with `counts` its hulls
too. -/
def unitsOf (counts : Bool) (tab : Table Stack) (net : Net) : (Nat → StackState) × (Nat → Bool) × Net :=
  (fun j => (tget {} tab j).state, fun k => decide (tget .awake net.domains k = .awake),
    { net with domains := [], hulls := if counts then net.hulls else [] })

/-- What a message between caches and homes leaves of the units: a packet puts no domain to sleep and ends no wake (R229), and a dropped
write leaves its stack in its state (R206). -/
def units (counts : Bool) (s : State) : (Nat → StackState) × (Nat → Bool) × Net := unitsOf counts s.stackTab s.net

section
variable {counts : Bool} {s t : State}

theorem stack_of_units (h : units counts t = units counts s) (j : Nat) : (stack t j).state = (stack s j).state :=
  congrFun (congrArg Prod.fst h) j

theorem awake_of_units (h : units counts t = units counts s) {d : Domain} (hd : wakeOf s d = .awake) : wakeOf t d = .awake :=
  of_decide_eq_true ((congrFun (congrArg (·.2.1) h) (domainNo d)).trans (decide_eq_true hd))

theorem dead_of_units (h : units counts t = units counts s) : t.net.dead = s.net.dead := congrArg (·.2.2.dead) h
theorem hulls_of_units (h : units true t = units true s) : t.net.hulls = s.net.hulls := congrArg (·.2.2.hulls) h

theorem hull_of_units (h : units true t = units true s) (n : Nat) : hull t n = hull s n := by rw [hull, hulls_of_units h, hull]

/-- For the state that a `match` has found in an option. -/
theorem units_some {o : Option State} (h : o = some t) (ho : units counts (o.getD s) = units counts s) :
    units counts t = units counts s := by
  subst h; exact ho

end

section
variable (counts : Bool)

/-! ## The shared operations -/

@[simp] theorem units_mk (x0 x1 x2 x3 x4 x5 x6 x7 x8 x9 x10) (tab : Table Stack) (x12) (net : Net) (x14 x15 x16 x17 x18 x19 x20 x21 x22
    x23 x24 x25 x26 x27 x28 x29 x30 x31 x32 x33 x34 x35) :
    units counts ⟨x0, x1, x2, x3, x4, x5, x6, x7, x8, x9, x10, tab, x12, net, x14, x15, x16, x17, x18, x19, x20, x21, x22, x23, x24, x25,
      x26, x27, x28, x29, x30, x31, x32, x33, x34, x35⟩ = unitsOf counts tab net := rfl

@[simp] theorem units_fields (s : State) : unitsOf counts s.stackTab s.net = units counts s := rfl

@[simp] theorem units_ite {p : Prop} [Decidable p] (s t : State) :
    units counts (if p then s else t) = if p then units counts s else units counts t := apply_ite (units counts) p s t

@[simp] theorem units_foldl {α : Type} (f : State → α → State) (l : List α) (s : State)
    (hf : ∀ s x, units counts (f s x) = units counts s) : units counts (l.foldl f s) = units counts s := by
  induction l generalizing s with
  | nil => rfl
  | cons x l ih => rw [List.foldl_cons, ih, hf]

@[simp] theorem units_forEach (s : State) (l : List Nat) (f : State → Nat → State)
    (hf : ∀ s n, units counts (f s n) = units counts s) : units counts (forEach s l f) = units counts s := units_foldl counts f l s hf

@[simp] theorem units_modLCore (s : State) (c : Nat) (f : LCore → LCore) : units counts (modLCore s c f) = units counts s := by rfl
@[simp] theorem units_modChan (s : State) (n : Nat) (f : Chan → Chan) : units counts (modChan s n f) = units counts s := by rfl
@[simp] theorem units_modGroup (s : State) (g : Nat) (f : Group → Group) : units counts (modGroup s g f) = units counts s := by rfl
@[simp] theorem units_modPart (s : State) (p : Nat) (f : PartE → PartE) : units counts (modPart s p f) = units counts s := by rfl
@[simp] theorem units_modSlice (s : State) (n : Nat) (f : SliceE → SliceE) : units counts (modSlice s n f) = units counts s := by rfl
@[simp] theorem units_modRing (s : State) (k : Nat) (f : Ring → Ring) : units counts (modRing s k f) = units counts s := by rfl
@[simp] theorem units_modEq (s : State) (k : Nat) (f : EqQueue → EqQueue) : units counts (modEq s k f) = units counts s := by rfl
@[simp] theorem units_modExch (s : State) (x : ExId) (f : Exch → Exch) : units counts (modExch s x f) = units counts s := by rfl
@[simp] theorem units_modCxl (s : State) (k : Nat) (f : CxlPort → CxlPort) : units counts (modCxl s k f) = units counts s := by rfl
@[simp] theorem units_modCoh (s : State) (f : Coh → Coh) : units counts (modCoh s f) = units counts s := by rfl
@[simp] theorem units_modFaults (s : State) (f : Faults → Faults) : units counts (modFaults s f) = units counts s := by rfl
@[simp] theorem units_modEvents (s : State) (f : Events → Events) : units counts (modEvents s f) = units counts s := by rfl
@[simp] theorem units_modSource (s : State) (e : Nat) (f : EvSource → EvSource) : units counts (modSource s e f) = units counts s := by rfl
@[simp] theorem units_modMailbox (s : State) (m : Nat) (f : Mailbox → Mailbox) : units counts (modMailbox s m f) = units counts s := by rfl

@[simp] theorem units_modBlock (s : State) (c k : Nat) (f : SendBlock → SendBlock) : units counts (modBlock s c k f) = units counts s := by
  rfl

@[simp] theorem units_useFree (s : State) : units counts (useFree s).1 = units counts s := by rfl
@[simp] theorem units_report (s : State) (pt detail : Nat) : units counts (report s pt detail) = units counts s := by simp [report]
@[simp] theorem units_raiseFrom (s : State) (die src cause : Nat) : units counts (raiseFrom s die src cause) = units counts s := by rfl
@[simp] theorem units_raise (s : State) (src cause : Nat) : units counts (raise s src cause) = units counts s := by rfl

@[simp] theorem units_settle (s : State) : units counts (settle s) = units counts s := by
  obtain ⟨md, pr, h⟩ := setMode_frame s (modeFor s)
  rw [settle, h]; rfl

/-! ## Caches, homes and the messages between them -/

@[simp] theorem units_l1Drop (s : State) (a ln : Nat) : units counts (l1Drop s a ln) = units counts s := by simp [l1Drop]
@[simp] theorem units_pickLine (s : State) (l : List Nat) : units counts (pickLine s l).1 = units counts s := by simp [pickLine]
@[simp] theorem units_setL2 (s : State) (a ln : Nat) (x : L2Line) : units counts (setL2 s a ln x) = units counts s := by simp [setL2]
@[simp] theorem units_setL2St (s : State) (a ln : Nat) (x : L2St) : units counts (setL2St s a ln x) = units counts s := by simp [setL2St]
@[simp] theorem units_modHome (s : State) (ln : Nat) (f : Home → Home) : units counts (modHome s ln f) = units counts s := by rfl
@[simp] theorem units_setHomeSt (s : State) (ln : Nat) (x : HomeSt) : units counts (setHomeSt s ln x) = units counts s := by rfl

/-- A domain that is not awake stays so when its entry says anything but awake. -/
theorem units_setDomain {s : State} {k : Nat} {w : Wake} (hk : tget .awake s.net.domains k ≠ .awake) (hw : w ≠ .awake) :
    units counts (modNet s (fun n => { n with domains := tset n.domains k w })) = units counts s := by
  refine Prod.ext rfl (Prod.ext (funext fun m => ?_) rfl)
  simp only [units, unitsOf, modNet, tget_tset]
  split
  · next h => subst h; simp [hk, hw]
  · rfl

@[simp] theorem units_domainPacket (s : State) (k : Nat) : units counts (domainPacket s k) = units counts s := by
  unfold domainPacket; dsimp only; split
  · rfl
  · next h =>
    have hu := units_setDomain counts (s := s) (k := k) (w := .waking (pip s) 1) (by simp [h]) (by simp)
    split
    · rfl
    · split <;> exact hu
  · next h => exact units_setDomain counts (by simp [h]) (by simp)

@[simp] theorem units_linePacket (s : State) (ln : Nat) : units counts (linePacket s ln) = units counts s := by
  unfold linePacket; split <;> simp

/-- A stack keeps its state while it only counts. -/
theorem units_modStack {s : State} {j : Nat} {f : Stack → Stack} (hf : (f (stack s j)).state = (stack s j).state) :
    units counts (modStack s j f) = units counts s := by
  refine Prod.ext (funext fun m => ?_) rfl
  simp only [units, unitsOf, stack, modStack, tget_tmod] at hf ⊢
  split
  · next h => subst h; exact hf
  · rfl

@[simp] theorem units_memWriteLine (s : State) (ln : Nat) (l : Line) : units counts (memWriteLine s ln l) = units counts s := by
  have hu := units_linePacket counts s ln
  unfold memWriteLine; dsimp only; split
  · split <;> simp
  · split
    · split
      · rw [units_modStack, hu]; rfl
      · simp
    · exact hu

@[simp] theorem units_fillL3 (s : State) (ln : Nat) : units counts (fillL3 s ln) = units counts s := by rfl
@[simp] theorem units_writeL3 (s : State) (ln : Nat) (l : Line) : units counts (writeL3 s ln l) = units counts s := by rfl

@[simp] theorem units_cleanL3 (s : State) (ln : Nat) : units counts (cleanL3 s ln) = units counts s := by
  unfold cleanL3; dsimp only; split <;> simp

@[simp] theorem units_dropL3 (s : State) (ln : Nat) : units counts (dropL3 s ln) = units counts s := by rfl
@[simp] theorem units_sendAll (s : State) (ms : List CohMsg) : units counts (sendAll s ms) = units counts s := by rfl
@[simp] theorem units_send (s : State) (m : CohMsg) : units counts (send s m) = units counts s := by rfl

@[simp] theorem units_impossible (s : State) (k : MsgKind) (agent ln : Nat) (atHome : Bool) :
    units counts (impossible s k agent ln atHome) = units counts s := by
  simp [impossible]

@[simp] theorem units_returnCredit (s : State) (a ln k : Nat) : units counts (returnCredit s a ln k) = units counts s := by
  unfold returnCredit; split <;> simp

@[simp] theorem units_coreReply (s : State) (c ln : Nat) (isolated : Bool) : units counts (coreReply s c ln isolated) = units counts s := by
  unfold coreReply; split <;> simp

@[simp] theorem units_predMove (s : State) (a pa : Nat) (up : Bool) : units counts (predMove s a pa up) = units counts s := by rfl

@[simp] theorem units_amoAnswer (s : State) (m : CohMsg) : units counts (amoAnswer s m) = units counts s := by
  unfold amoAnswer; (repeat' split) <;> simp

@[simp] theorem units_l2Recv (s : State) (m : CohMsg) : units counts (l2Recv s m) = units counts s := by
  unfold l2Recv; dsimp only; (repeat' split) <;> simp

@[simp] theorem units_invalAll (s : State) (ln : Nat) (l : List Nat) : units counts (invalAll s ln l) = units counts s := by rfl

@[simp] theorem units_performTake (s : State) (ln : Nat) (r : HomeReq) : units counts (performTake s ln r) = units counts s := by
  unfold performTake; dsimp only; (repeat' split) <;> simp

@[simp] theorem units_homeRdOwn (s : State) (ln : Nat) (a : Nat) (zero : Bool) (x : HStable) :
    units counts (homeRdOwn s ln a zero x) = units counts s := by
  unfold homeRdOwn; split <;> simp

@[simp] theorem units_homeTake (s : State) (ln : Nat) (r : HomeReq) (x : HStable) : units counts (homeTake s ln r x) = units counts s := by
  unfold homeTake; split <;> simp

@[simp] theorem units_homeRequest (s : State) (ln : Nat) (r : HomeReq) (x : HStable) :
    units counts (homeRequest s ln r x) = units counts s := by
  unfold homeRequest; (repeat' split) <;> simp

@[simp] theorem units_drainFrom (n : Nat) (s : State) (ln : Nat) : units counts (drainFrom n s ln) = units counts s := by
  induction n generalizing s with
  | zero => rfl
  | succ n ih => unfold drainFrom; dsimp only; (repeat' split) <;> simp [ih]

@[simp] theorem units_drainHome (s : State) (ln : Nat) : units counts (drainHome s ln) = units counts s := by simp [drainHome]

@[simp] theorem units_homeRecvReq (s : State) (ln : Nat) (r : HomeReq) : units counts (homeRecvReq s ln r) = units counts s := by
  unfold homeRecvReq; split <;> simp

@[simp] theorem units_homeBecomes (s : State) (ln : Nat) (x : HStable) : units counts (homeBecomes s ln x) = units counts s := by
  simp [homeBecomes]

@[simp] theorem units_applyEvict (s : State) (ln : Nat) (m : CohMsg) : units counts (applyEvict s ln m) = units counts s := by
  unfold applyEvict; split <;> simp

@[simp] theorem units_homeEvict (s : State) (m : CohMsg) : units counts (homeEvict s m) = units counts s := by
  unfold homeEvict; dsimp only; split <;> simp

@[simp] theorem units_fwdDone (s : State) (ln : Nat) (r : HomeReq) (base : HStable) (gone : List Nat) :
    units counts (fwdDone s ln r base gone) = units counts s := by
  unfold fwdDone; split <;> simp

@[simp] theorem units_homeInvalAck (s : State) (a ln : Nat) : units counts (homeInvalAck s a ln) = units counts s := by
  unfold homeInvalAck; (repeat' split) <;> simp

@[simp] theorem units_homeDataRecv (s : State) (m : CohMsg) : units counts (homeDataRecv s m) = units counts s := by
  unfold homeDataRecv; dsimp only; split <;> simp

@[simp] theorem units_homeCmpRecv (s : State) (a ln : Nat) : units counts (homeCmpRecv s a ln) = units counts s := by
  unfold homeCmpRecv; split <;> simp

@[simp] theorem units_isoEnd (s : State) (r : HomeReq) (ln : Nat) : units counts (isoEnd s r ln) = units counts s := by
  unfold isoEnd; dsimp only; (repeat' split) <;> simp

@[simp] theorem units_homeAnswerIso (s : State) (a ln : Nat) : units counts (homeAnswerIso s a ln) = units counts s := by
  unfold homeAnswerIso; split <;> simp

@[simp] theorem units_removeMsg (s : State) (m : CohMsg) : units counts (removeMsg s m) = units counts s := by rfl

@[simp] theorem units_deliver (s : State) (m : CohMsg) : units counts (deliver s m) = units counts s := by unfold deliver; split <;> simp

/-! ## Requests that end with ISOLATED -/

@[simp] theorem units_cutHome (gone : Nat → Nat → Bool) (forget : Bool) (s : State) (ln : Nat) :
    units counts (cutHome gone forget s ln) = units counts s := by
  unfold cutHome; dsimp only; split <;> simp

@[simp] theorem units_cutHomes (gone : Nat → Nat → Bool) (forget : Bool) (s : State) :
    units counts (cutHomes gone forget s) = units counts s := by simp [cutHomes]

@[simp] theorem units_cutRequests (gone : Nat → Nat → Bool) (s : State) : units counts (cutRequests gone s) = units counts s := by
  simp [cutRequests]

@[simp] theorem units_dropHalf (s : State) (h : Nat) : units counts (dropHalf s h) = units counts s := by simp [dropHalf]

/-! ## The reset of a partition -/

@[simp] theorem units_startRekey (s : State) (g : Nat) : units counts (startRekey s g) = units counts s := by
  unfold startRekey; dsimp only; split <;> simp

@[simp] theorem units_putFrame (s : State) (n : Nat) (f : TxFrame) : units counts (putFrame s n f) = units counts s := by
  unfold putFrame; dsimp only; split <;> simp

@[simp] theorem units_sendFrame (s : State) (n ftype : Nat) (sequenced : Bool) (tag : W64) (body : List Byte) (last : Bool) :
    units counts (sendFrame s n ftype sequenced tag body last) = units counts s := by
  simp [sendFrame]

@[simp] theorem units_sendOrQueue (s : State) (n ftype : Nat) (tag : W64) (body : List Byte) :
    units counts (sendOrQueue s n ftype tag body) = units counts s := by
  simp [sendOrQueue]

@[simp] theorem units_sendAbort (s : State) (x : ExId) (cause : Nat) : units counts (sendAbort s x cause) = units counts s := by
  unfold sendAbort; dsimp only; (repeat' split) <;> simp

@[simp] theorem units_modCounters (s : State) (key : Nat) (f : Ring → Ring) : units counts (modCounters s key f) = units counts s := by
  simp [modCounters, raiseRing]

@[simp] theorem units_startSliceReset (s : State) (sl : Nat) : units counts (startSliceReset s sl) = units counts s := by
  simp [startSliceReset]

@[simp] theorem units_abortOne (s : State) (m : Nat) (x : Sender) (sentEpoch : Nat) :
    units counts (abortOne s m x sentEpoch) = units counts s := by
  simp [abortOne]

@[simp] theorem units_mbxReset (s : State) (m : Nat) : units counts (mbxReset s m) = units counts s := by simp [mbxReset]
@[simp] theorem units_holdCores (s : State) (p : Nat) : units counts (holdCores s p) = units counts s := by simp [holdCores]

@[simp] theorem units_beginReset (s : State) (p : Nat) (after : PartState) : units counts (beginReset s p after) = units counts s := by
  simp [beginReset, resetMailboxes]

@[simp] theorem units_stopPartsOf (s : State) (h : Nat) : units counts (stopPartsOf s h) = units counts s := by simp [stopPartsOf]

end

/-! ## Messages on their way, but for the counts of the hulls -/

@[simp] theorem units_atHull (s : State) (l : List Nat) (f : Hull → Hull) : units false (atHull s l f) = units false s := by
  unfold atHull; split <;> rfl

@[simp] theorem units_countIso (s : State) (h ln : Nat) : units false (countIso s h ln) = units false s := by simp [countIso]

@[simp] theorem units_evictIsolated (s : State) (a ln : Nat) : units false (evictIsolated s a ln) = units false s := by simp [evictIsolated]

@[simp] theorem units_move (s : State) (m : CohMsg) : units false ((move s m).getD s) = units false s := by
  unfold move; dsimp only; (repeat' split) <;> simp

@[simp] theorem units_runLine (n : Nat) (s : State) (ln : Nat) : units false (runLine n s ln) = units false s := by
  induction n generalizing s with
  | zero => rfl
  | succ n ih =>
    unfold runLine; split
    · rfl
    · next s1 h =>
      obtain ⟨m, -, hm⟩ := List.exists_of_findSome?_eq_some h
      split at hm
      · rw [ih, units_some hm (units_move s m)]
      · cases hm

@[simp] theorem units_victimTake (s : State) (ln : Nat) : units false (victimTake s ln) = units false s := by
  unfold victimTake; split <;> simp

@[simp] theorem units_trimL3 (s : State) (ln : Nat) : units false (trimL3 s ln) = units false s := by
  unfold trimL3; dsimp only; (repeat' split) <;> simp

@[simp] theorem units_trimDir (s : State) (ln : Nat) : units false (trimDir s ln) = units false s := by
  unfold trimDir; dsimp only; (repeat' split) <;> simp

@[simp] theorem units_settleLine (s : State) (ln : Nat) : units false (settleLine s ln) = units false s := by simp [settleLine]

end Sys2Proof.Machine
end

section
/-! Sleeping domains: packets for them, the end of a wake and its overrun (R229-R231). -/

namespace Sys2Proof.Machine

variable {s : State} {d : Domain}

/-! ## Packets for a sleeping domain -/

@[simp] theorem wakeOf_setWake (s : State) (d : Domain) (w : Wake) : wakeOf (setWake s d w) d = w := tget_tset_same ..

theorem domainNo_lt (h : ∀ t, d ≠ .trio t) : domainNo d < 64 := by
  cases d with
  | engine e => exact Nat.lt_of_lt_of_le e.isLt (by decide)
  | stack j => exact Nat.add_lt_add_left (Nat.lt_of_lt_of_le j.isLt (by decide : 8 ≤ 32)) 32
  | trio t => exact absurd rfl (h t)

/-- The engine that a packet wakes is waking too. -/
def wokenEngine (s : State) (n : Nat) : State :=
  if n < 32 ∧ (eng s n).state = .sleep then modEng s n (fun x => { x with state := .waking }) else s

theorem domainPacket_asleep (hw : wakeOf s d = .asleep) (hp : s.mode.parkCond = false ∨ ∀ t, d ≠ .trio t) :
    domainPacket s (domainNo d) = wokenEngine (setWake s d (.waking (pip s) 1)) (domainNo d) := by
  have hn : ¬(s.mode.parkCond = true ∧ 64 ≤ domainNo d) := by
    rintro ⟨hc, hd⟩
    rcases hp with hp | hp
    · rw [hp] at hc; cases hc
    · exact absurd (domainNo_lt hp) (Nat.not_lt.mpr hd)
  rw [wakeOf] at hw
  simp only [domainPacket, hw, hn, if_false]
  rfl

theorem domainPacket_parked {t : TrioNo} (hw : wakeOf s (.trio t) = .asleep) (hp : s.mode.parkCond = true) :
    domainPacket s (domainNo (.trio t)) = s := by
  have ht : 64 ≤ domainNo (.trio t) := Nat.le_add_right 64 _
  rw [wakeOf] at hw
  simp only [domainPacket, hw, hp, ht, and_self, if_true]

theorem domainPacket_waking {k n : Nat} (hw : wakeOf s d = .waking k n) :
    domainPacket s (domainNo d) = setWake s d (.waking k (n + 1)) := by
  rw [wakeOf] at hw
  simp only [domainPacket, hw]
  rfl

theorem wakeOf_wokenEngine (s : State) (n : Nat) (d : Domain) : wakeOf (wokenEngine s n) d = wakeOf s d := by
  unfold wokenEngine; split <;> rfl

theorem eng_wokenEngine (e : EngNo) (h : (eng s e).state = .sleep) : (eng (wokenEngine s e) e).state = .waking := by
  rw [wokenEngine, if_pos ⟨e.isLt, h⟩, eng, modEng, tget_tmod_same]

/-! ## The end of a wake -/

@[simp] theorem units_stackRequests (s : State) (j : Nat) : units false (stackRequests s j) = units false s := by simp [stackRequests]

theorem stackRequests_of_noQueue (j : Nat) (h : ∀ e ∈ s.coh.homes, e.2.queue = []) : stackRequests s j = s := by
  have hnone : s.coh.homes.filter (fun e => !e.2.queue.isEmpty) = [] := by
    simpa [List.filter_eq_nil_iff] using h
  simp [stackRequests, hnone]

theorem stack_domainAwake {j : StackNo} (h : (stack s j).state = .selfRefresh) : (stack (domainAwake s (.stack j)) j).state = .active := by
  rw [domainAwake, stack_of_units (units_stackRequests ..), stack_modStack_same]
  exact if_pos h

theorem eng_domainAwake {e : EngNo} (h : (eng s e).state = .waking) : (eng (domainAwake s (.engine e)) e).state = .active := by
  dsimp only [domainAwake]
  rw [if_pos h, eng, modEng, tget_tmod_same]

theorem trio_domainAwake (s : State) (t : TrioNo) : (trio (domainAwake s (.trio t)) t).parked = false := by
  have h : (domainAwake s (.trio t)).trios = tmod {} s.trios t (fun t => { t with parked := false, idlePips := 0 }) := rfl
  rw [trio, h, tget_tmod_same]

theorem wakeOf_domainAwake (s : State) (d : Domain) : wakeOf (domainAwake s d) d = .awake := by
  have hs : wakeOf (setWake s d .awake) d = .awake := wakeOf_setWake ..
  cases d with
  | engine e => dsimp only [domainAwake]; split <;> exact hs
  | stack j => exact awake_of_units (units_stackRequests ..) hs
  | trio t => exact hs

theorem domainAwake_mem (h : ∀ j, d ≠ .stack j) : (domainAwake s d).mem = s.mem := by
  cases d with
  | engine e => dsimp only [domainAwake]; split <;> rfl
  | stack j => exact absurd rfl (h j)
  | trio t => rfl

/-- While no request waits at a home, only a trio's wake changes a cache, and none changes memory. -/
theorem domainAwake_of_noQueue (h : ∀ t, d ≠ .trio t) (hq : ∀ e ∈ s.coh.homes, e.2.queue = []) :
    (domainAwake s d).mem = s.mem ∧ (domainAwake s d).coh = s.coh := by
  cases d with
  | engine e => dsimp only [domainAwake]; split <;> exact ⟨rfl, rfl⟩
  | stack j =>
    dsimp only [domainAwake]
    rw [stackRequests_of_noQueue _ (by exact hq)]
    exact ⟨rfl, rfl⟩
  | trio t => exact absurd rfl (h t)

/-! ## The rows -/

section
variable (h : inService s = true)
include h

theorem exec_domainWake (d : Domain) : exec (.domainWake d) s = .next (domainPacket s (domainNo d)) := congrArg _ (whenServing_on h)

variable {k n : Nat} (hw : wakeOf s d = .waking k n)
include hw

theorem exec_domainWakeDone : exec (.domainWakeDone d) s = .next (domainAwake s d) := by
  simp only [exec, execDomainWakeDone, whenServing_on h, hw]

theorem exec_wakeOverrun_late (hp : k + wakeBound d < pip s) :
    exec (.wakeOverrun d) s = .next (report s (Pt.wakeOverrun (domainDie d)) (wakeDetail d)) := by
  simp only [exec, execWakeOverrun, whenServing_on h, hw, if_pos (Nat.succ_le_of_lt hp)]

theorem exec_wakeOverrun_inTime (hp : pip s ≤ k + wakeBound d) : exec (.wakeOverrun d) s = .next s := by
  simp only [exec, execWakeOverrun, whenServing_on h, hw, if_neg (Nat.not_le.mpr (Nat.lt_succ_of_le hp))]

end

theorem domainDie_lt (d : Domain) : domainDie d < 6 := by
  cases d <;> simp only [domainDie] <;> omega

/-- A late wake is reported, and the report leaves the network as it is. -/
theorem wakeOverrun_reported (h : inService s = true) :
    reported (report s (Pt.wakeOverrun (domainDie d)) (wakeDetail d)) (874 + domainDie d) :=
  reported_report _ (inService_runs h).1 (Nat.lt_of_lt_of_le (Nat.add_lt_add_left (domainDie_lt d) 874) (by decide))

@[simp] theorem report_net (s : State) (pt n : Nat) : (report s pt n).net = s.net := by
  obtain ⟨f, hf, -⟩ := report_frame s pt n; rw [hf]

end Sys2Proof.Machine
end

section
/-! Dead targets and their hulls (R231-R236). -/

namespace Sys2Proof.Machine

variable {s : State} {h : Nat}

/-! ## The timer of R232 -/

theorem silent_of_out {d : Nat} {o : OutReq} (ho : o ∈ s.coh.out) (hd : agentDie o.agent = d) (hh : h ∈ lineTargets s o.line)
    (hp : max o.since (timerFrom s h) + 8 ≤ pip s) : silent s d h = true := by
  have hq : (d, h, o.since) ∈ unanswered s := by
    simp only [unanswered, List.mem_append, List.mem_flatMap, List.mem_map]
    exact .inl (.inl (.inl ⟨o, ho, h, hh, by rw [hd]⟩))
  exact List.any_eq_true.mpr ⟨_, hq, by simpa using hp⟩

theorem not_silent {d : Nat} (hq : ∀ q ∈ unanswered s, q.1 = d → q.2.1 = h → pip s < max q.2.2 (timerFrom s h) + 8) :
    silent s d h = false := by
  refine List.any_eq_false.mpr fun q hm hs => ?_
  simp only [Bool.and_eq_true, beq_iff_eq, decide_eq_true_eq] at hs
  obtain ⟨⟨hd, ht⟩, hp⟩ := hs
  exact absurd (hq q hm hd ht) (Nat.not_lt.mpr hp)

theorem exec_netTimeout_silent {d : DieNo} {h : HullPos} (hp : diesPowered s = true) (hs : silent s d h = true) :
    exec (.netTimeout d h) s = .next (report s (Pt.netTimeout d) h) := by
  simp only [exec, execNetTimeout, whenPowered_on hp, hs, if_true]

theorem exec_netTimeout_answered {d : DieNo} {h : HullPos} (hs : silent s d h = false) : exec (.netTimeout d h) s = .next s := by
  simp [exec, execNetTimeout, hs, whenPowered]

theorem netTimeout_reported (d : DieNo) (n : Nat) (hp : diesPowered s = true) : reported (report s (Pt.netTimeout d) n) (868 + d) :=
  reported_report _ (diesPowered_runs hp).1 (Nat.lt_of_lt_of_le (Nat.add_lt_add_left d.isLt 868) (by decide))

/-! ## The hull of a declared target -/

/-- The hull stands and the declaration is done with; no request has ended yet (R233, R236). -/
def hullPlaced (s : State) (h : Nat) (cause : BitVec 2) : State :=
  modNet (modHull s h (fun x => { x with active := true, ever := true, cause := cause }))
    (fun n => { n with dead := n.dead.filter (fun e => e.1 != h) })

/-- The requests that end when a hull is placed change no hull and no declaration (R234). -/
theorem units_placeHull {c : BitVec 2} {k : Nat} (hf : s.net.dead.find? (fun e => e.1 == h) = some (h, c, k)) :
    units true (placeHull s h) = units true (hullPlaced s h c) := by
  simp only [placeHull, hf, units_ite, units_cutHomes, units_cutRequests, ite_self]
  rfl

theorem hull_hullPlaced (s : State) (h : Nat) (c : BitVec 2) (n : Nat) : hull (hullPlaced s h c) n =
    if n = h then { hull s h with active := true, ever := true, cause := c } else hull s n := by
  have hn : (hullPlaced s h c).net.hulls = tmod {} s.net.hulls h (fun x => { x with active := true, ever := true, cause := c }) := rfl
  rw [hull, hn, tget_tmod]
  rfl

/-! ## Messages at a hull -/

/-- What a hull counts of a message: an answer of its own, a message dropped, or one discarded from its target (R233, R236). -/
def countedAt (m : HullMsg) (x : Hull) : Hull :=
  match m with
  | .request => { x with isoCount := x.isoCount + 1 }
  | .posted | .response => { x with dropped := x.dropped + 1 }
  | .fromTarget => { x with late := x.late + 1 }

theorem exec_hullArrival {h : HullPos} (ha : (hull s h).active = true) (m : HullMsg) :
    exec (.hullArrival h m) s = .next (modHull s h (countedAt m)) := congrArg _ (if_pos ha)

end Sys2Proof.Machine
end

section
/-! The self-stop of a die (R240). -/

namespace Sys2Proof.Machine

/-! ## A die is marked lost -/

theorem targetDead_declareDead (s : State) (h : Nat) (c : BitVec 2) : targetDead (declareDead s h c) h = true := by
  unfold declareDead; split
  · assumption
  · simp [targetDead]

/-- A declaration writes the list of the targets declared dead and nothing else. -/
theorem declareDead_frame (s : State) (h : Nat) (c : BitVec 2) : ∃ l, declareDead s h c = modNet s (fun n => { n with dead := l }) := by
  unfold declareDead; split
  · exact ⟨s.net.dead, rfl⟩
  · exact ⟨_, rfl⟩

/-- The die is noted as lost, with the pip. -/
def noteLost (s : State) (d : Nat) : State :=
  modNet s (fun n => { n with lost := tset n.lost d true, lostPip := tset n.lostPip d (pip s) })

/-- The die is noted as lost and declared dead; nothing of it has ended yet. -/
def markLost (s : State) (d : Nat) : State := declareDead (noteLost s d) (HullAt.die d) HullCause.collector

theorem markLost_marks (s : State) (d : Nat) : dieLost (markLost s d) d = true ∧ tget 0 (markLost s d).net.lostPip d = pip s ∧
    targetDead (markLost s d) (HullAt.die d) = true := by
  obtain ⟨l, hl⟩ := declareDead_frame (noteLost s d) (HullAt.die d) HullCause.collector
  refine ⟨?_, ?_, targetDead_declareDead ..⟩
  · rw [markLost, hl]; exact tget_tset_same ..
  · rw [markLost, hl]; exact tget_tset_same ..

theorem stack_markLost (s : State) (d j : Nat) : stack (markLost s d) j = stack s j := by
  obtain ⟨l, hl⟩ := declareDead_frame (noteLost s d) (HullAt.die d) HullCause.collector
  rw [markLost, hl]; rfl

/-- What a half was running ends with it (R234, R494). -/
def endLost (s : State) (d : Nat) : State := if d < 2 then dropHalf (stopPartsOf (markLost s d) d) d else markLost s d

theorem units_endLost (s : State) (d : Nat) : units true (endLost s d) = units true (markLost s d) := by
  unfold endLost; split <;> simp

/-! ## M11 -/

theorem setSafeCause_frame (s : State) (cause point : Nat) : ∃ f, setSafeCause s cause point = { s with faults := f } := by
  unfold setSafeCause; split
  · exact ⟨_, rfl⟩
  · exact ⟨s.faults, rfl⟩

/-- In M11 every stack that is not fenced is in self-refresh (R488). -/
def safeStack (x : Stack) : Stack := if x.state = .fenced then x else { x with state := .selfRefresh }

/-- The way into M11 leaves the network as it is and takes every stack of the table into self-refresh. -/
theorem enterSafe_frame (s : State) (cause point reason : Nat) : (enterSafe s cause point reason).net = s.net ∧
    ((enterSafe s cause point reason).stackTab = s.stackTab ∨
      (enterSafe s cause point reason).stackTab = s.stackTab.map (fun e => (e.1, safeStack e.2))) := by
  obtain ⟨f, hf⟩ := setSafeCause_frame s cause point
  unfold enterSafe; split
  · exact ⟨rfl, .inl rfl⟩
  · dsimp only
    obtain ⟨md, pr, h⟩ := setMode_frame _ 11
    rw [hf, h]
    exact ⟨rfl, .inr rfl⟩

/-- A table after a change of every entry: an entry that is not listed keeps its default. -/
theorem tget_map_or {α : Type} (f : α → α) (d : α) (l : List (Nat × α)) (n : Nat) :
    tget d (l.map (fun e => (e.1, f e.2))) n = f (tget d l n) ∨ tget d (l.map (fun e => (e.1, f e.2))) n = tget d l n := by
  induction l with
  | nil => exact .inr rfl
  | cons e t ih =>
    simp only [List.map_cons, tget]
    split
    · exact .inl rfl
    · split
      · exact .inr rfl
      · exact ih

/-- A stack that is neither fenced nor without power. -/
def stands (x : Stack) : Prop := x.state ≠ .fenced ∧ x.state ≠ .unpowered

theorem stands_safeStack {x : Stack} (h : stands x) : stands (safeStack x) := by
  rw [safeStack, if_neg h.1]
  exact ⟨by simp, by simp⟩

theorem stands_enterSafe {s : State} {j : Nat} (cause point reason : Nat) (h : stands (stack s j)) :
    stands (stack (enterSafe s cause point reason) j) := by
  obtain ⟨-, ht⟩ := enterSafe_frame s cause point reason
  rcases ht with ht | ht
  · rwa [stack, ht]
  · rw [stack, ht]
    rcases tget_map_or safeStack {} s.stackTab j with hm | hm
    · rw [hm]; exact stands_safeStack h
    · rwa [hm]

/-! ## A die is lost -/

section
variable {s : State} {d : Nat} (hd : dieLost s d = false)
include hd

/-- A die that is lost is marked so with what ends on it; with no half left the module enters M11. -/
theorem loseDie_cases : units true (loseDie s d) = units true (endLost s d) ∨
    ∃ reason, units true (loseDie s d) = units true (enterSafe (endLost s d) 3 0 reason) := by
  have he : loseDie s d = settle (if dieLost (endLost s d) 0 && dieLost (endLost s d) 1 then
      enterSafe (endLost s d) 3 0 (if huskAble (endLost s d) then 2 else 1) else endLost s d) := if_neg (by simp [hd])
  rw [he, units_settle]
  split
  · exact .inr ⟨_, rfl⟩
  · exact .inl rfl

theorem loseDie_net : ({ (loseDie s d).net with domains := [] } : Net) = { (markLost s d).net with domains := [] } := by
  have ht := units_endLost s d
  rcases loseDie_cases hd with hu | ⟨reason, hu⟩
  · exact congrArg (·.2.2) (hu.trans ht)
  · have hn := congrArg (·.2.2) hu
    simp only [units, unitsOf, (enterSafe_frame (endLost s d) 3 0 reason).1] at hn
    exact hn.trans (congrArg (·.2.2) ht)

theorem stands_loseDie {j : Nat} (h : stands (stack s j)) : stands (stack (loseDie s d) j) := by
  have hm : stands (stack (endLost s d) j) := by
    rwa [stands, stack_of_units (units_endLost s d), stack_markLost]
  rcases loseDie_cases hd with hu | ⟨reason, hu⟩
  · rwa [stands, stack_of_units hu]
  · rw [stands, stack_of_units hu]
    exact stands_enterSafe 3 0 reason hm

/-- What a lost die shows, whatever becomes of the links (R240, R443). -/
theorem marked_of_net {u : State} {k : Table LinkSt} (hu : u.net = { (loseDie s d).net with links := k }) :
    dieLost u d = true ∧ tget 0 u.net.lostPip d = pip s ∧ targetDead u (HullAt.die d) = true := by
  obtain ⟨hl, hp, ht⟩ := markLost_marks s d
  have hn := loseDie_net hd
  have hlost : u.net.lost = (markLost s d).net.lost := by rw [hu]; exact congrArg (·.lost) hn
  have hpip : u.net.lostPip = (markLost s d).net.lostPip := by rw [hu]; exact congrArg (·.lostPip) hn
  have hdead : u.net.dead = (markLost s d).net.dead := by rw [hu]; exact congrArg (·.dead) hn
  have hhulls : u.net.hulls = (markLost s d).net.hulls := by rw [hu]; exact congrArg (·.hulls) hn
  rw [dieLost, hlost, hpip, targetDead, hull, hhulls, hdead]
  exact ⟨hl, hp, ht⟩

end

/-! ## A half stops itself -/

/-- One change of each stack of a list that may be made twice. -/
theorem stack_forEach_modStack {f : Stack → Stack} (hf : ∀ x, f (f x) = f x) (l : List Nat) (s : State) (j : Nat) :
    stack (forEach s l (fun s j => modStack s j f)) j = if j ∈ l then f (stack s j) else stack s j := by
  induction l generalizing s with
  | nil => rfl
  | cons n l ih =>
    have hs : stack (modStack s n f) j = if j = n then f (stack s n) else stack s j := tget_tmod ..
    rw [forEach, List.foldl_cons, ← forEach, ih, hs]
    by_cases hn : j = n
    · subst hn; simp [hf]
    · simp [hn]

theorem forEach_modStack_net (l : List Nat) (s : State) (f : Stack → Stack) : (forEach s l (fun s j => modStack s j f)).net = s.net := by
  induction l generalizing s with
  | nil => rfl
  | cons n l ih => exact ih _

/-- A change of links writes the table of the links and nothing else. -/
theorem forEach_modLink_frame (l : List Nat) (s : State) (f : LinkSt → LinkSt) :
    ∃ k, forEach s l (fun s n => modLink s n f) = modNet s (fun n => { n with links := k }) := by
  induction l generalizing s with
  | nil => exact ⟨s.net.links, rfl⟩
  | cons n l ih => obtain ⟨k, hk⟩ := ih (modLink s n f); exact ⟨k, hk⟩

/-- A stack of a half that stops itself is held in self-refresh as in M11, if it stands (R240). -/
def heldStack (x : Stack) : Stack := { x with state := if x.state = .fenced ∨ x.state = .unpowered then x.state else .selfRefresh }

theorem heldStack_twice (x : Stack) : heldStack (heldStack x) = heldStack x := by
  unfold heldStack; split <;> simp_all

/-- A half that stops itself is lost; then its own four stacks and its links to the I/O dies change. -/
theorem stopHalf_frame (s : State) (h : Nat) : ∃ k, stopHalf s h =
    modNet (forEach (loseDie s h) ((List.range 4).map (fun q => 4 * h + q)) (fun s j => modStack s j heldStack))
      (fun n => { n with links := k }) :=
  forEach_modLink_frame _ _ _

theorem stopHalf_net (s : State) (h : Nat) : ∃ k, (stopHalf s h).net = { (loseDie s h).net with links := k } := by
  obtain ⟨k, hk⟩ := stopHalf_frame s h
  refine ⟨k, ?_⟩
  rw [hk, modNet, forEach_modStack_net]

theorem stack_stopHalf {s : State} {h : Nat} (hd : dieLost s h = false) (q : Fin 4) (hs : stands (stack s (4 * h + q))) :
    (stack (stopHalf s h) (4 * h + q)).state = .selfRefresh := by
  obtain ⟨k, hk⟩ := stopHalf_frame s h
  have hq : 4 * h + q.val ∈ (List.range 4).map (fun q => 4 * h + q) := List.mem_map.mpr ⟨q, List.mem_range.mpr q.isLt, rfl⟩
  have hu := stack_forEach_modStack heldStack_twice ((List.range 4).map (fun q => 4 * h + q)) (loseDie s h) (4 * h + q)
  rw [if_pos hq] at hu
  rw [hk]
  refine (congrArg Stack.state hu).trans ?_
  have hl := stands_loseDie hd hs
  exact if_neg (not_or.mpr hl)

theorem exec_dieSelfStop {s : State} {d : DieNo} (hb : 2 ≤ s.mode.base) (hm : s.mode.mode ≠ 11) (hd : dieLost s d = false)
    (hp : tget 0 s.net.renewSeen d + 2100 < pip s) :
    exec (.dieSelfStop d) s = .next (if d.val < 2 then stopHalf s d else loseDie s d) := by
  have hr : tget 0 s.net.renewSeen d + leaseGuard + 1 ≤ pip s := hp
  simp only [exec, execDieSelfStop]
  rw [if_pos ⟨hb, hm, by simp [hd], hr⟩]

end Sys2Proof.Machine
end

section
/-! Sleeping domains, dead targets and the self-stop of a die together (R229-R236, R240). -/

namespace Sys2Proof.Machine

/-! ## The rows together -/

section
variable {s : State} {d : Domain} (hs : inService s = true)
include hs

/-- A packet wakes a sleeping domain (R229). -/
theorem domainWake_row (hw : wakeOf s d = .asleep) (hp : s.mode.parkCond = false ∨ ∀ t, d ≠ .trio t) :
    ∃ u, exec (.domainWake d) s = .next u ∧ wakeOf u d = .waking (pip s) 1 ∧
      (∀ e, d = .engine e → (eng s e).state = .sleep → (eng u e).state = .waking) := by
  refine ⟨_, exec_domainWake hs d, ?_, ?_⟩
  · rw [domainPacket_asleep hw hp, wakeOf_wokenEngine, wakeOf_setWake]
  · rintro e rfl he
    rw [domainPacket_asleep hw hp]
    exact eng_wokenEngine e he

theorem domainWakeDone_row {k n : Nat} (hw : wakeOf s d = .waking k n) :
    ∃ u, exec (.domainWakeDone d) s = .next u ∧ wakeOf u d = .awake ∧
      ((∀ j, d ≠ .stack j) → u.mem = s.mem) ∧
      ((∀ t, d ≠ .trio t) → (∀ e ∈ s.coh.homes, e.2.queue = []) → u.mem = s.mem ∧ u.coh = s.coh) ∧
      (∀ e, d = .engine e → (eng s e).state = .waking → (eng u e).state = .active) ∧
      (∀ j, d = .stack j → (stack s j).state = .selfRefresh → (stack u j).state = .active) ∧
      (∀ t, d = .trio t → (trio u t).parked = false) := by
  refine ⟨_, exec_domainWakeDone hs hw, wakeOf_domainAwake s d, domainAwake_mem, domainAwake_of_noQueue, ?_, ?_, ?_⟩
  · rintro e rfl he; exact eng_domainAwake he
  · rintro j rfl hj; exact stack_domainAwake hj
  · rintro t rfl; exact trio_domainAwake s t

end

theorem hullPlacement_row {s : State} {h : HullPos} {c : BitVec 2} {k : Nat}
    (hf : s.net.dead.find? (fun e => e.1 == h.val) = some (h.val, c, k)) :
    ∃ u, exec (.hullPlacement h) s = .next u ∧ (hull u h).active = true ∧ (hull u h).ever = true ∧ (hull u h).cause = c ∧
      u.net.dead = s.net.dead.filter (fun e => e.1 != h.val) ∧ (∀ n, n ≠ h.val → hull u n = hull s n) := by
  have hu := units_placeHull hf
  have hh : hull (placeHull s h) h = { hull s h with active := true, ever := true, cause := c } := by
    rw [hull_of_units hu, hull_hullPlaced, if_pos rfl]
  refine ⟨placeHull s h, rfl, by rw [hh], by rw [hh], by rw [hh], dead_of_units hu, fun n hn => ?_⟩
  rw [hull_of_units hu, hull_hullPlaced, if_neg hn]

theorem dieSelfStop_row {s : State} {d : DieNo} (hb : 2 ≤ s.mode.base) (hm : s.mode.mode ≠ 11) (hd : dieLost s d = false)
    (hp : tget 0 s.net.renewSeen d + 2100 < pip s) :
    ∃ u, exec (.dieSelfStop d) s = .next u ∧ dieLost u d = true ∧ tget 0 u.net.lostPip d = pip s ∧ targetDead u (HullAt.die d) = true ∧
      (d.val < 2 → ∀ j : Fin 4, (stack s (4 * d + j)).state ≠ .fenced → (stack s (4 * d + j)).state ≠ .unpowered →
        (stack u (4 * d + j)).state = .selfRefresh) := by
  have he := exec_dieSelfStop hb hm hd hp
  by_cases hh : d.val < 2
  · rw [if_pos hh] at he
    obtain ⟨k, hk⟩ := stopHalf_net s d
    obtain ⟨hlost, hpip, hdead⟩ := marked_of_net hd hk
    exact ⟨_, he, hlost, hpip, hdead, fun _ j hf hu => stack_stopHalf hd j ⟨hf, hu⟩⟩
  · rw [if_neg hh] at he
    obtain ⟨hlost, hpip, hdead⟩ := marked_of_net hd (u := loseDie s d) (k := (loseDie s d).net.links) rfl
    exact ⟨_, he, hlost, hpip, hdead, fun h => absurd h hh⟩

/-- Settles O31: what a row writes is read off the one table that it changes, and the requests that end with it, or go on, leave the hulls,
the declarations and the stacks as they were. -/
theorem sleepAndDeadTargets : Obligations.SleepAndDeadTargets := by
  refine ⟨fun s d hs => ⟨domainWake_row hs, ?parked, fun k n hw => ⟨?waits, domainWakeDone_row hs hw, ?late, ?inTime⟩⟩,
    fun s h d => ⟨?timeout, ?answered, fun c k => hullPlacement_row, fun ha => ?arrival, dieSelfStop_row⟩⟩
  case parked =>
    rintro t rfl hw hp
    rw [exec_domainWake hs, domainPacket_parked hw hp]
  case waits => exact ⟨_, exec_domainWake hs d, by rw [domainPacket_waking hw, wakeOf_setWake]⟩
  case late =>
    intro hp
    exact ⟨_, exec_wakeOverrun_late hs hw hp, wakeOverrun_reported hs, report_net ..⟩
  case inTime => exact exec_wakeOverrun_inTime hs hw
  case timeout =>
    intro o ho hp hd hh ht
    exact ⟨_, exec_netTimeout_silent hp (silent_of_out ho hd hh ht), netTimeout_reported d _ hp, report_net ..⟩
  case answered => exact fun hq => exec_netTimeout_answered (not_silent hq)
  case arrival =>
    exact ⟨⟨_, exec_hullArrival ha .request, hull_modHull_same ..⟩, ⟨_, exec_hullArrival ha .posted, hull_modHull_same ..⟩,
      ⟨_, exec_hullArrival ha .response, hull_modHull_same ..⟩, ⟨_, exec_hullArrival ha .fromTarget, hull_modHull_same .., rfl, rfl⟩⟩

end Sys2Proof.Machine
end

section
/-! Ring counters: the page that a doorbell reaches, what a counter write leaves of its ring or queue, and the causes of its watermarks
(R249, R250, R285, R286, R334, R359). -/

namespace Sys2Proof.Machine

/-! ## Rings, queues and causes -/

@[simp] theorem ring_modRing_same (s : State) (k : Nat) (f : Ring → Ring) : ring (modRing s k f) k = f (ring s k) := tget_tmod_same ..
@[simp] theorem eqq_modEq_same (s : State) (k : Nat) (f : EqQueue → EqQueue) : eqq (modEq s k f) k = f (eqq s k) := tget_tmod_same ..
@[simp] theorem ring_raiseRing (s : State) (key cause m : Nat) : ring (raiseRing s key cause) m = ring s m := rfl
@[simp] theorem eqq_raiseQueue (s : State) (key cause m : Nat) : eqq (raiseQueue s key cause) m = eqq s m := rfl

theorem caused_raiseFrom (s : State) (die src : Nat) {cause : Nat} (h : cause < 32) : caused (raiseFrom s die src cause) src cause := by
  simp [caused, raiseFrom, raiseMaskAt, evSource_modSource, h]

theorem caused_raiseFrom_of {s : State} {n c : Nat} (die src cause : Nat) (h : caused s n c) : caused (raiseFrom s die src cause) n c := by
  unfold caused raiseFrom raiseMaskAt at *
  rw [evSource_modSource]
  split
  · next hn => subst hn; simp [h]
  · exact h

/-- The counter that a doorbell write carries. -/
theorem low32 (v : W64) : BitVec.ofNat 32 (field v 31 0) = v.setWidth 32 := BitVec.eq_of_toNat_eq (by simp [field])

/-! ## Watermarks (R285, R286) -/

theorem wmLevel_crosses {mark old new : Nat} (w : Wm) (hm : mark ≠ 0) (ho : old < mark) (hn : mark ≤ new) :
    wmLevel mark old new w = ({ crossings := w.crossings + 1, hit := true, peak := max w.peak new }, true) := by
  simp [wmLevel, hm, ho, hn]

theorem wmLevel_stays {mark old new : Nat} (w : Wm) (h : mark = 0 ∨ mark ≤ old ∨ new < mark) :
    wmLevel mark old new w = ({ w with peak := max w.peak new }, false) := by
  have hc : ¬ (mark ≠ 0 ∧ old < mark ∧ mark ≤ new) := by omega
  simp [wmLevel, hc]

section
variable (s : State) (key : Nat) (f : Ring → Ring)

/-- A change of the counters leaves the ring as changed, but for its two watermarks. -/
theorem ring_modCounters : ring (modCounters s key f) key =
    { f (ring s key) with
      sqWmSt := (wmLevel (f (ring s key)).sqWm (sqLevel (ring s key)) (sqLevel (f (ring s key))) (f (ring s key)).sqWmSt).1
      cqWmSt := (wmLevel (f (ring s key)).cqWm (cqLevel (ring s key)) (cqLevel (f (ring s key))) (f (ring s key)).cqWmSt).1 } := by
  simp only [modCounters]
  split <;> split <;> simp

theorem modCounters_exchs : (modCounters s key f).exchs = s.exchs := by
  simp only [modCounters]
  split <;> split <;> rfl

theorem modCounters_mem : (modCounters s key f).mem = s.mem := by
  simp only [modCounters]
  split <;> split <;> rfl

/-- A submission level that reaches its mark raises the cause of the ring's source, whatever the completion level does. -/
theorem caused_modCounters
    (h : (wmLevel (f (ring s key)).sqWm (sqLevel (ring s key)) (sqLevel (f (ring s key))) (f (ring s key)).sqWmSt).2 = true) :
    caused (modCounters s key f) (f (ring s key)).source QCause.sqWm := by
  have hc (t : State) : caused (raiseRing t key QCause.sqWm) (ring t key).source QCause.sqWm := caused_raiseFrom _ _ _ (by decide)
  simp only [modCounters, h, if_true]
  split
  · refine caused_raiseFrom_of _ _ _ ?_
    simpa using hc (modRing s key _)
  · simpa using hc (modRing s key _)

end

theorem eqq_modEqCounters (s : State) (key : Nat) (f : EqQueue → EqQueue) : eqq (modEqCounters s key f) key =
    { f (eqq s key) with
      wmSt := (wmLevel (f (eqq s key)).wm (eqLevel (eqq s key)) (eqLevel (f (eqq s key))) (f (eqq s key)).wmSt).1 } := by
  simp only [modEqCounters]
  split <;> simp

theorem caused_modEqCounters {s : State} {key : Nat} {f : EqQueue → EqQueue}
    (h : (wmLevel (f (eqq s key)).wm (eqLevel (eqq s key)) (eqLevel (f (eqq s key))) (f (eqq s key)).wmSt).2 = true) :
    caused (modEqCounters s key f) (f (eqq s key)).source QCause.eqWm := by
  have hc (t : State) : caused (raiseQueue t key QCause.eqWm) (eqq t key).source QCause.eqWm := caused_raiseFrom _ _ _ (by decide)
  simp only [modEqCounters, h, if_true]
  simpa using hc (modEq s key _)

/-! ## Which counters are taken (R250) -/

theorem sqTailOk_iff (x : Ring) (t : W32) :
    sqTailOk x t = true ↔ (t - x.sqTail).toNat < 2 ^ 31 ∧ (t - x.sqHead).toNat ≤ 2 ^ x.sqK := by
  simp only [sqTailOk, backwards, Bool.and_eq_true, Bool.not_eq_true', decide_eq_true_eq, decide_eq_false_iff_not, Nat.not_le]
  exact Iff.rfl

theorem cqHeadOk_iff (x : Ring) (t : W32) :
    cqHeadOk x t = true ↔ (t - x.cqHead).toNat < 2 ^ 31 ∧ (x.cqTail - t).toNat < 2 ^ 31 := by
  simp only [cqHeadOk, backwards, Bool.and_eq_true, Bool.not_eq_true', decide_eq_true_eq, decide_eq_false_iff_not, Nat.not_le]
  exact Iff.rfl

theorem eqTailOk_iff (q : EqQueue) (t : W32) :
    eqTailOk q t = true ↔ (t - q.eqTail).toNat < 2 ^ 31 ∧ (t - q.eqHead).toNat ≤ 2 ^ q.k := by
  simp only [eqTailOk, backwards, Bool.and_eq_true, Bool.not_eq_true', decide_eq_true_eq, decide_eq_false_iff_not, Nat.not_le]
  exact Iff.rfl

section
variable {s : State} {key : Nat} {v : W64}

theorem sqTailWrite_rejected (h : ¬ sqTailOk (ring s key) (v.setWidth 32) = true) :
    sqTailWrite s key v = modRing s key (fun r => { r with dbError := true }) := by
  simp only [sqTailWrite, low32]; exact if_neg h

theorem sqTailWrite_taken (h : sqTailOk (ring s key) (v.setWidth 32) = true) : sqTailWrite s key v =
    modCounters s key (fun r => { r with sqTail := v.setWidth 32, fetchStopped := r.fetchStopped && r.fetchError }) := by
  simp only [sqTailWrite, low32]; exact if_pos h

theorem cqHeadWrite_rejected (h : ¬ cqHeadOk (ring s key) (v.setWidth 32) = true) :
    cqHeadWrite s key v = modRing s key (fun r => { r with dbError := true }) := by
  simp only [cqHeadWrite, low32]; exact if_neg h

theorem cqHeadWrite_taken (h : cqHeadOk (ring s key) (v.setWidth 32) = true) :
    cqHeadWrite s key v = modCounters s key (fun r => { r with cqHead := v.setWidth 32 }) := by
  simp only [cqHeadWrite, low32]; exact if_pos h

theorem eqTailWrite_rejected (h : ¬ eqTailOk (eqq s key) (v.setWidth 32) = true) :
    eqTailWrite s key v = modEq s key (fun q => { q with dbError := true }) := by
  simp only [eqTailWrite, low32]; exact if_neg h

theorem eqTailWrite_taken (h : eqTailOk (eqq s key) (v.setWidth 32) = true) : eqTailWrite s key v =
    modEqCounters s key (fun q => { q with eqTail := v.setWidth 32, fetchStopped := q.fetchStopped && q.fetchError }) := by
  simp only [eqTailWrite, low32]; exact if_pos h

end

/-! ## The page that a write reaches (R334) -/

section
variable {s : State} {sl r : Nat} (f : State → Nat → State)

theorem doorbell_live (h : pageLive s sl r = true) : doorbell s sl r f = f s (pairKey sl r) := if_pos h

theorem doorbell_dropped (hf : (sliceE s sl).state ≠ .free) (ha : (ring s (pairKey sl r)).active = false) :
    doorbell s sl r f = dropWrite s (sliceE s sl).part := by
  simp [doorbell, pageLive, ha, hf]

theorem doorbell_free (hf : (sliceE s sl).state = .free) : doorbell s sl r f = s := by simp [doorbell, pageLive, hf]

theorem eqDoorbell_live (h : queueLive s sl r = true) : eqDoorbell s sl r f = f s (pairKey sl r) := if_pos h

theorem eqDoorbell_dropped (hf : (sliceE s sl).state ≠ .free) (ha : (eqq s (pairKey sl r)).active = false) :
    eqDoorbell s sl r f = dropWrite s (sliceE s sl).part := by
  simp [eqDoorbell, queueLive, ha, hf]

theorem eqDoorbell_free (hf : (sliceE s sl).state = .free) : eqDoorbell s sl r f = s := by simp [eqDoorbell, queueLive, hf]

end

theorem wmClear_ring (x : Ring) (v : W64) : { x with sqWmSt := wmClear (sqLevel x) x.sqWmSt v } =
      (if v.getLsbD 17 then { x with sqWmSt := { crossings := 0, hit := false, peak := (x.sqTail - x.sqHead).toNat } } else x) ∧
    { x with cqWmSt := wmClear (cqLevel x) x.cqWmSt v } =
      (if v.getLsbD 17 then { x with cqWmSt := { crossings := 0, hit := false, peak := (x.cqTail - x.cqHead).toNat } } else x) := by
  unfold wmClear bitOf
  cases v.getLsbD 17 <;> exact ⟨rfl, rfl⟩

theorem wmClear_queue (q : EqQueue) (v : W64) : { q with wmSt := wmClear (eqLevel q) q.wmSt v } =
    (if v.getLsbD 17 then { q with wmSt := { crossings := 0, hit := false, peak := (q.eqTail - q.eqHead).toNat } } else q) := by
  unfold wmClear bitOf
  cases v.getLsbD 17 <;> rfl

/-! ## The rows -/

section
variable {s : State} {sl : SliceNo} {r : PairNo} (v : W64) (hs : inService s = true)
include hs

theorem exec_sqTailWrite : exec (.sqTailWrite sl r v) s = .next (doorbell s sl r (fun s key => sqTailWrite s key v)) :=
  congrArg _ (whenServing_on hs)

theorem exec_cqHeadWrite : exec (.cqHeadWrite sl r v) s = .next (doorbell s sl r (fun s key => cqHeadWrite s key v)) :=
  congrArg _ (whenServing_on hs)

theorem exec_eqTailWrite : exec (.eqTailWrite sl r v) s = .next (eqDoorbell s sl r (fun s key => eqTailWrite s key v)) :=
  congrArg _ (whenServing_on hs)

theorem exec_sqWmClear : exec (.wmStatusClear sl r .sq v) s = .next (doorbell s sl r (fun s key => sqWmClear s key v)) :=
  congrArg _ (whenServing_on hs)

theorem exec_cqWmClear : exec (.wmStatusClear sl r .cq v) s = .next (doorbell s sl r (fun s key => cqWmClear s key v)) :=
  congrArg _ (whenServing_on hs)

theorem exec_eqWmClear (hq : queueLive s sl r = true) :
    exec (.wmStatusClear sl r .eq v) s = .next (eqWmClear s (pairKey sl r) v) := by
  obtain ⟨hf, ha⟩ := Bool.and_eq_true_iff.1 hq
  refine congrArg _ ((whenServing_on hs).trans ?_)
  simp only [if_neg (of_decide_eq_true hf), ha, if_true]

end

/-- Settles O32: a counter write is either rejected with DB_ERROR or taken by the change of the counters, which evaluates the watermarks. -/
theorem ringCounters : Obligations.RingCounters := by
  intro s sl r v hs key x q t
  refine ⟨fun hp => ?page, fun hq => ?queue, fun hf => ?dropped, fun hf => ?free⟩
  case page =>
    have sq := (exec_sqTailWrite v hs).trans (congrArg _ (doorbell_live _ hp))
    have cq := (exec_cqHeadWrite v hs).trans (congrArg _ (doorbell_live _ hp))
    refine ⟨fun hr => ?sqRejected, fun hb hl => ?sqTaken, fun hr => ?cqRejected, fun hb hl => ?cqTaken,
      ⟨_, (exec_sqWmClear v hs).trans (congrArg _ (doorbell_live _ hp)), (ring_modRing_same ..).trans (wmClear_ring x v).1⟩,
      ⟨_, (exec_cqWmClear v hs).trans (congrArg _ (doorbell_live _ hp)), (ring_modRing_same ..).trans (wmClear_ring x v).2⟩⟩
    case sqRejected =>
      rw [sqTailWrite_rejected (mt (sqTailOk_iff x t).1 (by omega))] at sq
      exact ⟨_, sq, ring_modRing_same .., rfl, rfl, rfl⟩
    case sqTaken =>
      rw [sqTailWrite_taken ((sqTailOk_iff x t).2 ⟨hb, hl⟩)] at sq
      have hr := ring_modCounters s key (fun r => { r with sqTail := t, fetchStopped := r.fetchStopped && r.fetchError })
      refine ⟨_, sq, by rw [hr], by rw [hr], by rw [hr], by rw [hr], by rw [hr], by rw [hr]; rfl,
        modCounters_exchs .., modCounters_mem ..,
        fun h0 ho hn => ?_, fun hn => ?_⟩
      · have hw := wmLevel_crosses x.sqWmSt h0 ho hn
        exact ⟨caused_modCounters _ _ _ (congrArg Prod.snd hw), by rw [hr]; exact congrArg (·.1.hit) hw,
          by rw [hr]; exact congrArg (·.1.crossings) hw⟩
      · have hw := wmLevel_stays x.sqWmSt hn
        exact ⟨by rw [hr]; exact congrArg (·.1.hit) hw, by rw [hr]; exact congrArg (·.1.crossings) hw⟩
    case cqRejected =>
      rw [cqHeadWrite_rejected (mt (cqHeadOk_iff x t).1 (by omega))] at cq
      exact ⟨_, cq, ring_modRing_same .., rfl⟩
    case cqTaken =>
      rw [cqHeadWrite_taken ((cqHeadOk_iff x t).2 ⟨hb, hl⟩)] at cq
      have hr := ring_modCounters s key (fun r => { r with cqHead := t })
      exact ⟨_, cq, by rw [hr], by rw [hr], by rw [hr], by rw [hr], by rw [hr]⟩
  case queue =>
    have eq := (exec_eqTailWrite v hs).trans (congrArg _ (eqDoorbell_live _ hq))
    refine ⟨fun hr => ?rejected, fun hb hl => ?taken, _, exec_eqWmClear v hs hq, (eqq_modEq_same ..).trans (wmClear_queue q v)⟩
    case rejected =>
      rw [eqTailWrite_rejected (mt (eqTailOk_iff q t).1 (by omega))] at eq
      exact ⟨_, eq, eqq_modEq_same .., rfl⟩
    case taken =>
      rw [eqTailWrite_taken ((eqTailOk_iff q t).2 ⟨hb, hl⟩)] at eq
      have hr := eqq_modEqCounters s key (fun q => { q with eqTail := t, fetchStopped := q.fetchStopped && q.fetchError })
      refine ⟨_, eq, by rw [hr], by rw [hr], by rw [hr], fun h0 ho hn => ?_⟩
      have hw := wmLevel_crosses q.wmSt h0 ho hn
      exact ⟨caused_modEqCounters (congrArg Prod.snd hw), by rw [hr]; exact congrArg (·.1.hit) hw⟩
  case dropped =>
    refine ⟨fun ha => ⟨?_, ?_⟩, fun ha => ?_⟩
    · rw [exec_sqTailWrite v hs, doorbell_dropped _ hf ha]
    · rw [exec_cqHeadWrite v hs, doorbell_dropped _ hf ha]
    · rw [exec_eqTailWrite v hs, eqDoorbell_dropped _ hf ha]
  case free =>
    exact ⟨by rw [exec_sqTailWrite v hs, doorbell_free _ hf], by rw [exec_cqHeadWrite v hs, doorbell_free _ hf],
      by rw [exec_eqTailWrite v hs, eqDoorbell_free _ hf]⟩

end Sys2Proof.Machine
end

section
/-! Loss of a mirror pair while a CANCEL of the other pair holds one of its exchanges (R268, R276, R280). -/

namespace Sys2Proof.Machine

/-- A READ in flight from pair 0 that the CANCEL `heldFrom` of pair 1, in the same slice, holds (R280). -/
def heldTarget : Exch :=
  { id := { slice := 0, pair := 0, idx := 0#32 }, part := 0, gen := 1, seqNo := 5, opcode := Op.read, flags := 0, group := 0, length := 128
    sgl := 0, sglCount := 1, timeout := 0, remote := 0#64, arg := 0#64, cookie := 1#64, owner := 0, st := .data
    cancelledBy := some { slice := 0, pair := 1, idx := 0#32 } }

/-- The CANCEL waits for its target's record. -/
def heldFrom : Exch :=
  { heldTarget with id := { slice := 0, pair := 1, idx := 0#32 }, seqNo := 6, opcode := Op.cancel, length := 0, sglCount := 0, arg := 5#64
                    owner := 2, st := .accepted, cancelledBy := none, target := some heldTarget.id }

/-- Both dies of pair 0 are lost. -/
def pairGone : State :=
  { pins := { resetN := true }
    mode := { mode := 5, base := 5 }
    net := { lost := [(2, true), (3, true)] }
    exchs := [heldTarget, heldFrom] }

theorem pairGone_meets : inService pairGone = true ∧ ioLost pairGone 0 = true ∧ ioLost pairGone 1 = true ∧
    heldFrom ∈ pairGone.exchs ∧ heldFrom.id.pair ≠ 0 := by decide

theorem pairLoss_decides_heldFrom : (pairLoss pairGone 0).exchs =
    [{ heldFrom with res := some { code := Rec.tooLate, detail := 0, synth := true } }] := by decide

/-- Refutes O36: the loss of a pair does not leave every exchange of the other pair as it was. A CANCEL of the other pair that held one of
the lost exchanges ends with TOO_LATE (R280; LOG 131), so its entry changes. -/
theorem not_takeoverAndReset : ¬ Obligations.TakeoverAndReset := by
  intro h
  obtain ⟨hs, h0, h1, hm, hp⟩ := pairGone_meets
  obtain ⟨-, loss, -⟩ := h pairGone hs
  obtain ⟨u, hu, -, kept, -⟩ := loss 0 h0 h1
  have hrow : exec (.pairLoss 0) pairGone = .next (pairLoss pairGone 0) := by
    refine congrArg _ ((whenServing_on hs).trans (if_pos ⟨h0, h1⟩))
  obtain rfl := Host.Outcome.next.inj (hrow.symm.trans hu)
  have hin := kept heldFrom hm hp
  rw [pairLoss_decides_heldFrom] at hin
  exact absurd hin (by decide)

end Sys2Proof.Machine
end

section
/-! Frames and exchanges: what sending a frame, restarting the exchanges that wait and deciding one leave of channels, groups and entries
(R266, R298-R301, R326). -/

namespace Sys2Proof.Machine

/-! ## Entries of the exchange tables -/

theorem exch_id {s : State} {x : ExId} {e : Exch} (h : exch s x = some e) : e.id = x := by
  rw [exch] at h
  simpa using List.find?_some h

theorem exch_map {s u : State} {F : Exch → Exch} (hF : ∀ e, (F e).id = e.id) (hu : u.exchs = s.exchs.map F) (x : ExId) :
    exch u x = (exch s x).map F := by
  have hp : (fun e : Exch => decide (e.id = x)) ∘ F = fun e => decide (e.id = x) := funext fun e => by simp [hF]
  rw [exch, hu, List.find?_map, hp, exch]

theorem exch_congr {s u : State} (hu : u.exchs = s.exchs) (x : ExId) : exch u x = exch s x := by rw [exch, hu, exch]

section
variable {f : Exch → Exch} (hf : ∀ e, (f e).id = e.id)
include hf

theorem exch_modExch (s : State) (y x : ExId) : exch (modExch s y f) x = if x = y then (exch s x).map f else exch s x := by
  rw [exch_map (F := fun e => if e.id = y then f e else e) (fun e => by split <;> simp [hf]) rfl]
  cases h : exch s x with
  | none => simp
  | some e => rw [← exch_id h]; simp only [Option.map_some]; split <;> rfl

theorem exch_modExch_same {s : State} {x : ExId} {e : Exch} (h : exch s x = some e) : exch (modExch s x f) x = some (f e) := by
  rw [exch_modExch hf, if_pos rfl, h]; rfl

end

/-! ## Channels and groups -/

theorem chan_modChan (s : State) (n k : Nat) (f : Chan → Chan) : chan (modChan s n f) k = if k = n then f (chan s n) else chan s k :=
  tget_tmod ..

@[simp] theorem chan_modChan_same (s : State) (n : Nat) (f : Chan → Chan) : chan (modChan s n f) n = f (chan s n) := tget_tmod_same ..

theorem chan_modChan_other {n k : Nat} (s : State) (f : Chan → Chan) (h : k ≠ n) : chan (modChan s n f) k = chan s k :=
  tget_tmod_other _ _ _ h

theorem group_modGroup (s : State) (g k : Nat) (f : Group → Group) :
    group (modGroup s g f) k = if k = g then f (group s g) else group s k := tget_tmod ..

@[simp] theorem group_modGroup_same (s : State) (g : Nat) (f : Group → Group) : group (modGroup s g f) g = f (group s g) :=
  tget_tmod_same ..
@[simp] theorem group_modChan (s : State) (n g : Nat) (f : Chan → Chan) : group (modChan s n f) g = group s g := rfl
@[simp] theorem chan_modGroup (s : State) (n g : Nat) (f : Group → Group) : chan (modGroup s g f) n = chan s n := rfl
@[simp] theorem chan_modExch (s : State) (n : Nat) (x : ExId) (f : Exch → Exch) : chan (modExch s x f) n = chan s n := rfl

/-- The state but for channels, groups and exchanges. -/
def beyondPaths (s : State) : State := { s with chans := [], groups := [], exchs := [] }

/-- Whatever does not read channels, groups or exchanges reads the same in a state that differs in those alone. -/
theorem read_of_beyondPaths {α : Type} {s t : State} (h : beyondPaths t = beyondPaths s) (f : State → α)
    (hf : ∀ u, f (beyondPaths u) = f u) : f t = f s := by rw [← hf t, h, hf]

/-! ## Rekey and the wire -/

/-- A change of channels one after the other changes channels alone. -/
theorem forEach_modChan_frame (s : State) (l : List Nat) (f : State → Nat → Chan → Chan) :
    ∃ t, forEach s l (fun s n => modChan s n (f s n)) = { s with chans := t } := by
  induction l generalizing s with
  | nil => exact ⟨s.chans, rfl⟩
  | cons n l ih => exact ih (modChan s n (f s n))

/-- What such a change leaves of each channel is left by all of them. -/
theorem chan_forEach_modChan {α : Type} (p : Chan → α) {f : State → Nat → Chan → Chan} (hp : ∀ s n c, p (f s n c) = p c)
    (s : State) (l : List Nat) (k : Nat) : p (chan (forEach s l (fun s n => modChan s n (f s n))) k) = p (chan s k) := by
  induction l generalizing s with
  | nil => rfl
  | cons n l ih =>
    refine (ih (modChan s n (f s n))).trans ?_
    rw [chan_modChan]
    split
    · next h => rw [hp, h]
    · rfl

/-- A rekey clears NEXT_READY of the group's channels, and changes no other field of any. -/
theorem chan_startRekey (s : State) (g k : Nat) : ∃ r, chan (startRekey s g) k = { chan s k with nextReady := r } := by
  have he : ({ chan (startRekey s g) k with nextReady := false } : Chan) = { chan s k with nextReady := false } := by
    unfold startRekey; dsimp only; split
    · rfl
    · exact chan_forEach_modChan (fun c : Chan => { c with nextReady := false }) (f := fun _ _ c => { c with nextReady := false })
        (fun _ _ _ => rfl) (modGroup s g _) (group s g).chans k
  exact ⟨(chan (startRekey s g) k).nextReady, congrArg (fun c : Chan => { c with nextReady := (chan (startRekey s g) k).nextReady }) he⟩

theorem startRekey_cases (s : State) (g : Nat) : ∃ t r, startRekey s g = s ∨
    startRekey s g = { modGroup s g (fun x => { x with rekey := r, rekeyRetry := none }) with chans := t } := by
  unfold startRekey; dsimp only; split
  · exact ⟨[], none, .inl rfl⟩
  · obtain ⟨t, ht⟩ := forEach_modChan_frame (modGroup s g (fun x => { x with
      rekey := some { since := pip s, nextEpoch := x.keyEpoch + 1 }, rekeyRetry := none })) (group s g).chans
      (fun _ _ c => { c with nextReady := false })
    exact ⟨t, some { since := pip s, nextEpoch := (group s g).keyEpoch + 1 }, .inr ht⟩

/-- A rekey writes its own two fields of the group. -/
theorem group_startRekey (s : State) (g k : Nat) :
    ∃ a b, group (startRekey s g) k = { group s k with rekey := a, rekeyRetry := b } := by
  obtain ⟨t, r, h | h⟩ := startRekey_cases s g <;> rw [h]
  · exact ⟨_, _, rfl⟩
  · have hk := group_modGroup s g k (fun x => { x with rekey := r, rekeyRetry := none })
    split at hk
    · next h => exact ⟨r, none, h ▸ hk⟩
    · exact ⟨_, _, hk⟩

theorem startRekey_frame (s : State) (g : Nat) : (startRekey s g).exchs = s.exchs ∧ beyondPaths (startRekey s g) = beyondPaths s := by
  obtain ⟨t, r, h | h⟩ := startRekey_cases s g <;> rw [h] <;> exact ⟨rfl, rfl⟩

/-- A frame as it goes out on CH[n]. -/
def onWire (s : State) (n : Nat) (f : TxFrame) : TxFrame :=
  let c := chan s n
  let g := match c.group with | some g => group s g | none => {}
  { f with
    epoch := c.epoch, ackSeq := c.rxSeq, counter := c.frameCounter, path := c.pathIndex, etherType := chEtherType s, vlan := c.vlan
    dst := c.peer.getD 0xFFFFFFFFFFFF#48, src := Config.channelAddress n, enc := g.keyValue.isSome, keyEpoch := g.keyEpoch }

/-- CH[n] with a frame put on its wire, before the rekey that its counter may start. -/
def wired (s : State) (n : Nat) (f : TxFrame) : State :=
  modChan s n (fun c => { c with wire := onWire s n f :: c.wire, frameCounter := c.frameCounter + 1 })

theorem putFrame_cases (s : State) (n : Nat) (f : TxFrame) :
    putFrame s n f = wired s n f ∨ ∃ g, putFrame s n f = startRekey (wired s n f) g := by
  unfold putFrame; dsimp only; split
  · next g hg =>
    split
    · exact .inr ⟨g, by simp only [wired, onWire, hg]⟩
    · exact .inl (by simp only [wired, onWire, hg])
  · next hg => exact .inl (by simp only [wired, onWire, hg])

theorem chan_putFrame (s : State) (n : Nat) (f : TxFrame) (k : Nat) :
    ∃ r, chan (putFrame s n f) k = { chan (wired s n f) k with nextReady := r } := by
  rcases putFrame_cases s n f with h | ⟨g, h⟩ <;> rw [h]
  · exact ⟨_, rfl⟩
  · exact chan_startRekey ..

theorem putFrame_same (s : State) (n : Nat) (f : TxFrame) : ∃ r, chan (putFrame s n f) n =
    { chan s n with wire := onWire s n f :: (chan s n).wire, frameCounter := (chan s n).frameCounter + 1, nextReady := r } := by
  obtain ⟨r, hr⟩ := chan_putFrame s n f n
  exact ⟨r, by rw [hr, wired, chan_modChan_same]⟩

theorem putFrame_other {n k : Nat} (s : State) (f : TxFrame) (h : k ≠ n) :
    ∃ r, chan (putFrame s n f) k = { chan s k with nextReady := r } := by
  obtain ⟨r, hr⟩ := chan_putFrame s n f k
  exact ⟨r, by rw [hr, wired, chan_modChan_other _ _ h]⟩

theorem group_putFrame (s : State) (n : Nat) (f : TxFrame) (k : Nat) :
    ∃ a b, group (putFrame s n f) k = { group s k with rekey := a, rekeyRetry := b } := by
  rcases putFrame_cases s n f with h | ⟨g, h⟩ <;> rw [h]
  · exact ⟨_, _, rfl⟩
  · exact group_startRekey (wired s n f) g k

theorem putFrame_frame (s : State) (n : Nat) (f : TxFrame) :
    (putFrame s n f).exchs = s.exchs ∧ beyondPaths (putFrame s n f) = beyondPaths s := by
  rcases putFrame_cases s n f with h | ⟨g, h⟩ <;> rw [h]
  · exact ⟨rfl, rfl⟩
  · exact startRekey_frame (wired s n f) g

/-! ## A new frame -/

section
variable (s : State) (n ftype : Nat) (sequenced : Bool) (tag : W64) (body : List Byte) (last : Bool)

/-- A new frame of CH[n] with its number, before it goes out. -/
def numbered : TxFrame := { ftype := ftype, seq := (chan s n).txSeq, sequenced := sequenced, tag := tag, body := body, last := last }

/-- What a new frame leaves of its channel: the frame is on the wire, and one that is sequenced has taken the next number and waits for its
acknowledgement. -/
theorem sendFrame_same : ∃ r, chan (sendFrame s n ftype sequenced tag body last) n =
    { chan s n with
      wire := onWire s n (numbered s n ftype sequenced tag body last) :: (chan s n).wire
      frameCounter := (chan s n).frameCounter + 1
      nextReady := r
      txSeq := if sequenced then ((chan s n).txSeq + 1) % 2 ^ 32 else (chan s n).txSeq
      unacked := if sequenced then (chan s n).unacked ++ [numbered s n ftype sequenced tag body last] else (chan s n).unacked
      oldestSince := if sequenced && (chan s n).unacked.isEmpty then pip s else (chan s n).oldestSince } := by
  obtain ⟨r, hr⟩ := putFrame_same s n (numbered s n ftype sequenced tag body last)
  refine ⟨r, ?_⟩
  unfold numbered at hr
  cases sequenced with
  | false => simp [sendFrame, hr, numbered]
  | true => simp [sendFrame, hr, numbered]

theorem sendFrame_other {k : Nat} (h : k ≠ n) :
    ∃ r, chan (sendFrame s n ftype sequenced tag body last) k = { chan s k with nextReady := r } := by
  obtain ⟨r, hr⟩ := putFrame_other s (numbered s n ftype sequenced tag body last) h
  refine ⟨r, ?_⟩
  unfold numbered at hr
  cases sequenced with
  | false => exact hr
  | true => exact (chan_modChan_other _ _ h).trans hr

theorem group_sendFrame (k : Nat) :
    ∃ a b, group (sendFrame s n ftype sequenced tag body last) k = { group s k with rekey := a, rekeyRetry := b } := by
  have h := group_putFrame s n (numbered s n ftype sequenced tag body last) k
  cases sequenced <;> exact h

theorem sendFrame_frame : (sendFrame s n ftype sequenced tag body last).exchs = s.exchs ∧
    beyondPaths (sendFrame s n ftype sequenced tag body last) = beyondPaths s := by
  have h := putFrame_frame s n (numbered s n ftype sequenced tag body last)
  cases sequenced <;> exact h

end

end Sys2Proof.Machine
end

section
/-! What the module may send when nothing but room on a path has come about: frames that waited, ABORTs that found no room and a query
(R300, R306, R323). -/

namespace Sys2Proof.Machine

/-! ## What sending keeps -/

/-- What a channel knows of the frames it receives, with its count of frames sent again and its group. -/
def rxSide (c : Chan) : Nat × Option Nat × Nat × Nat × Option Nat := (c.rxSeq, c.nakFor, c.nakPip, c.retxCount, c.group)

/-- The fields of a group that sending leaves and a frame received reads or counts. -/
def grpSide (g : Group) : Nat × Nat × Nat := (g.rto, g.lateDiscards, g.staleDiscards)

/-- An entry but for its ABORT and the path it was last sent on. -/
def task (e : Exch) : Exch := { e with abort := none, lastCh := none }

/-- The cause of an entry's ABORT, 0 where it has none. -/
def causeOf (e : Exch) : Nat := match e.abort with | some a => a.cause | none => 0

/-- Channel `d` is channel `c` after sending: its wire and its unacknowledged frames have grown. -/
structure ChanSent (c d : Chan) : Prop where
  wire : c.wire <:+ d.wire
  unacked : c.unacked <+: d.unacked
  rx : rxSide d = rxSide c

/-- State `u` is state `s` after frames, ABORTs and a query have gone out. -/
structure Sends (s u : State) : Prop where
  chans : ∀ k, ChanSent (chan s k) (chan u k)
  groups : ∀ k, grpSide (group u k) = grpSide (group s k)
  exchs : ∃ F : Exch → Exch, (∀ e, task (F e) = task e) ∧ u.exchs = s.exchs.map F
  causes : ∀ x, (exch u x).map causeOf = (exch s x).map causeOf
  rest : beyondPaths u = beyondPaths s

theorem read_of_task {α : Type} {a b : Exch} (h : task a = task b) (p : Exch → α) (hp : ∀ e, p (task e) = p e) : p a = p b := by
  rw [← hp a, h, hp]

theorem ChanSent.refl (c : Chan) : ChanSent c c := ⟨List.suffix_rfl, List.prefix_rfl, rfl⟩

theorem ChanSent.trans {a b c : Chan} (h : ChanSent a b) (k : ChanSent b c) : ChanSent a c :=
  ⟨h.wire.trans k.wire, h.unacked.trans k.unacked, k.rx.trans h.rx⟩

theorem Sends.refl (s : State) : Sends s s where
  chans _ := .refl _
  groups _ := rfl
  exchs := ⟨id, fun _ => rfl, by simp⟩
  causes _ := rfl
  rest := rfl

theorem Sends.trans {s t u : State} (h : Sends s t) (k : Sends t u) : Sends s u where
  chans n := (h.chans n).trans (k.chans n)
  groups n := (k.groups n).trans (h.groups n)
  exchs := by
    obtain ⟨F, hF, hs⟩ := h.exchs
    obtain ⟨G, hG, ht⟩ := k.exchs
    exact ⟨G ∘ F, fun e => (hG _).trans (hF e), by rw [ht, hs, List.map_map]⟩
  causes x := (k.causes x).trans (h.causes x)
  rest := k.rest.trans h.rest

theorem Sends.foldl {α : Type} {f : State → α → State} (hf : ∀ s a, Sends s (f s a)) (l : List α) (s : State) :
    Sends s (l.foldl f s) := by
  induction l generalizing s with
  | nil => exact .refl s
  | cons a l ih => exact (hf s a).trans (ih _)

/-! ## The steps of sending -/

/-- A step that leaves the entries sends when its channels and groups do. -/
theorem Sends.of_same_exchs {s u : State} (chans : ∀ k, ChanSent (chan s k) (chan u k))
    (groups : ∀ k, grpSide (group u k) = grpSide (group s k)) (he : u.exchs = s.exchs)
    (rest : beyondPaths u = beyondPaths s) : Sends s u where
  chans := chans
  groups := groups
  exchs := ⟨id, fun _ => rfl, by simp [he]⟩
  causes x := by rw [exch_congr he]
  rest := rest

theorem sends_modChan {s : State} {n : Nat} {f : Chan → Chan} (hf : ChanSent (chan s n) (f (chan s n))) : Sends s (modChan s n f) := by
  refine .of_same_exchs (fun k => ?_) (fun _ => rfl) rfl rfl
  rw [chan_modChan]
  split
  · next h => exact h ▸ hf
  · exact .refl _

theorem sends_modGroup {s : State} {g : Nat} {f : Group → Group} (hf : grpSide (f (group s g)) = grpSide (group s g)) :
    Sends s (modGroup s g f) := by
  refine .of_same_exchs (fun _ => .refl _) (fun k => ?_) rfl rfl
  rw [group_modGroup]
  split
  · next h => exact h ▸ hf
  · rfl

theorem sends_modExch {s : State} {x : ExId} {f : Exch → Exch} (hf : ∀ e, task (f e) = task e)
    (hc : ∀ e, exch s x = some e → causeOf (f e) = causeOf e) : Sends s (modExch s x f) where
  chans _ := .refl _
  groups _ := rfl
  exchs := ⟨fun e => if e.id = x then f e else e, fun e => by dsimp only; split <;> simp [hf], rfl⟩
  causes y := by
    rw [exch_modExch fun e => read_of_task (hf e) (·.id) fun _ => rfl]
    split
    · next h =>
      subst h
      cases he : exch s y with
      | none => rfl
      | some e => exact congrArg some (hc e he)
    · rfl
  rest := rfl

theorem sends_sendFrame (s : State) (n ftype : Nat) (sequenced : Bool) (tag : W64) (body : List Byte) (last : Bool) :
    Sends s (sendFrame s n ftype sequenced tag body last) := by
  refine .of_same_exchs (fun k => ?_) (fun k => ?_) (sendFrame_frame ..).1 (sendFrame_frame ..).2
  · by_cases hk : k = n
    · subst hk
      obtain ⟨r, hr⟩ := sendFrame_same s k ftype sequenced tag body last
      rw [hr]
      refine ⟨List.suffix_cons .., ?_, rfl⟩
      dsimp only; split
      · exact List.prefix_append ..
      · exact List.prefix_rfl
    · obtain ⟨r, hr⟩ := sendFrame_other s n ftype sequenced tag body last hk
      rw [hr]
      exact ⟨List.suffix_rfl, List.prefix_rfl, rfl⟩
  · obtain ⟨a, b, h⟩ := group_sendFrame s n ftype sequenced tag body last k
    rw [h]; rfl

theorem sends_sendOrQueue (s : State) (n ftype : Nat) (tag : W64) (body : List Byte) : Sends s (sendOrQueue s n ftype tag body) := by
  unfold sendOrQueue; split
  · exact sends_sendFrame ..
  · exact sends_modChan ⟨List.suffix_rfl, List.prefix_rfl, rfl⟩

theorem sends_sendQueued (s : State) (n : Nat) : Sends s (sendQueued s n) := by
  refine Sends.foldl (fun s f => ?_) _ s
  split
  · exact (sends_modChan ⟨List.suffix_rfl, List.prefix_rfl, rfl⟩).trans (sends_sendFrame ..)
  · exact .refl s

/-- The ABORT that an entry sends: the one it has, or a new one. -/
def abortOf (s : State) (e : Exch) (cause : Nat) : AbortSt := e.abort.getD { cause := cause, sends := 0, since := pip s }

/-- The entry's path lets its ABORT go. -/
def abortGoes (s : State) (e : Exch) (cause : Nat) : Bool :=
  e.path.any (fun n => decide ((chan s n).state = .live) && (windowRoom (chan s n) || cause == AbortBy.reset))

/-- The entry with its ABORT sent, or waiting for room. -/
def aborting (s : State) (e : Exch) (cause : Nat) (o : Exch) : Exch :=
  { o with
    abort := some { abortOf s e cause with
      sends := (abortOf s e cause).sends + (if abortGoes s e cause then 1 else 0), since := pip s }
    lastCh := if abortGoes s e cause then o.path else o.lastCh }

theorem sendAbort_eq {s : State} {x : ExId} {e : Exch} (he : exch s x = some e) (cause : Nat) :
    sendAbort s x cause = if abortGoes s e cause then
      sendOrQueue (modExch s x (aborting s e cause)) (e.path.getD 0) FType.abort (tagOf e)
        (BitVec.ofNat 8 (abortOf s e cause).cause :: List.replicate 7 0#8)
    else modExch s x (aborting s e cause) := by
  unfold sendAbort aborting abortOf abortGoes
  rw [he]
  dsimp only
  cases e.abort <;> cases e.path <;> rfl

/-- An ABORT sent for no cause of its own keeps the cause of the one that waited. -/
theorem sends_sendAbort (s : State) (x : ExId) : Sends s (sendAbort s x 0) := by
  cases he : exch s x with
  | none => rw [sendAbort, he]; exact .refl s
  | some e =>
    have hm : Sends s (modExch s x (aborting s e 0)) := by
      refine sends_modExch (fun _ => rfl) fun o ho => ?_
      obtain rfl : e = o := Option.some.inj (he.symm.trans ho)
      simp only [causeOf, aborting, abortOf]
      cases e.abort <;> rfl
    rw [sendAbort_eq he]
    split
    · exact hm.trans (sends_sendOrQueue ..)
    · exact hm

theorem sends_sendAborts (s : State) (n : Nat) : Sends s (sendAborts s n) := by
  refine Sends.foldl (fun s e => ?_) _ s
  split
  · exact sends_sendAbort s e.id
  · exact .refl s

theorem sends_sendQuery (s : State) (g : Nat) : Sends s (sendQuery s g) := by
  unfold sendQuery; split
  · split
    · exact .refl s
    · exact (sends_sendFrame ..).trans (sends_modGroup rfl)
  · exact .refl s

/-! ## Nothing waits -/

/-- No frame, ABORT or query waits for room on CH[n] of PG[g]. -/
def NothingWaits (s : State) (n g : Nat) : Prop :=
  (chan s n).queued = [] ∧ (∀ q, (group s g).query = some q → q.sent = true) ∧
  ∀ e ∈ s.exchs, e.path = some n → ∀ a, e.abort = some a → a.sends ≠ 0

theorem sendQueued_of_nil {s : State} {n : Nat} (h : (chan s n).queued = []) : sendQueued s n = s := by rw [sendQueued, h]; rfl

theorem sendAborts_of_none {s : State} {n : Nat} (h : ∀ e ∈ s.exchs, e.path = some n → ∀ a, e.abort = some a → a.sends ≠ 0) :
    sendAborts s n = s := by
  have hnil : s.exchs.filter (fun e => e.path == some n && e.res.isNone && !e.terminating &&
      e.abort.any (fun a => a.sends == 0)) = [] := by
    rw [List.filter_eq_nil_iff]
    intro e he hp
    simp only [Bool.and_eq_true, beq_iff_eq] at hp
    obtain ⟨⟨⟨hpath, -⟩, -⟩, hab⟩ := hp
    obtain ⟨a, ha, hs⟩ := (Option.any_eq_true ..).mp hab
    exact h e he hpath a ha (by simpa using hs)
  rw [sendAborts, hnil]; rfl

theorem sendQuery_of_sent {s : State} {g : Nat} (h : ∀ q, (group s g).query = some q → q.sent = true) : sendQuery s g = s := by
  unfold sendQuery; split
  · next q _ hq _ => rw [if_pos (h q hq)]
  · rfl

/-! ## Acknowledgements taken -/

/-- The frames of CH[n] that wait on after an ACK_SEQ. -/
def unackedAfter (s : State) (n ackSeq : Nat) : List TxFrame := (chan s n).unacked.filter (fun f => !seqAfter ackSeq f.seq)

theorem takeAck_same (s : State) (n ackSeq : Nat) :
    ∃ k p, chan (takeAck s n ackSeq) n = { chan s n with unacked := unackedAfter s n ackSeq, rtoCount := k, oldestSince := p } := by
  rw [takeAck, chan_modChan_same]; dsimp only; split
  · exact ⟨_, _, rfl⟩
  · next h =>
    have hall : unackedAfter s n ackSeq = (chan s n).unacked :=
      List.filter_sublist.eq_of_length (Nat.le_antisymm List.filter_sublist.length_le (Nat.not_lt.mp h))
    exact ⟨_, _, by rw [hall]⟩

theorem nothingWaits_takeAck {s : State} {n g : Nat} (h : NothingWaits s n g) (ackSeq : Nat) : NothingWaits (takeAck s n ackSeq) n g := by
  obtain ⟨k, p, hc⟩ := takeAck_same s n ackSeq
  exact ⟨by rw [hc]; exact h.1, h.2⟩

theorem sends_acked (s : State) (n g ackSeq : Nat) : Sends (takeAck s n ackSeq) (acked s n g ackSeq) :=
  ((sends_sendQueued ..).trans (sends_sendAborts ..)).trans (sends_sendQuery ..)

/-- Where nothing waits for room, an acknowledgement takes frames away and sends nothing. -/
theorem acked_of_nothingWaits {s : State} {n g : Nat} (h : NothingWaits s n g) (ackSeq : Nat) :
    acked s n g ackSeq = takeAck s n ackSeq := by
  obtain ⟨hq, hquery, habort⟩ := nothingWaits_takeAck h ackSeq
  rw [acked, sendQueued_of_nil hq, sendAborts_of_none habort, sendQuery_of_sent hquery]

end Sys2Proof.Machine
end

section
/-! What the start of waiting exchanges leaves: sequence numbers received and the entries that are decided (R262, R266). -/

namespace Sys2Proof.Machine

/-- State `u` is state `s` after exchanges have been decided or started: an entry that was decided keeps its end. -/
structure Restarts (s u : State) : Prop where
  rx : ∀ k, (chan u k).rxSeq = (chan s k).rxSeq
  exchs : ∀ x e, exch s x = some e → ∃ e', exch u x = some e' ∧ (e.res.isSome → e'.res = e.res ∧ e'.st = e.st)

theorem Restarts.refl (s : State) : Restarts s s := ⟨fun _ => rfl, fun _ e h => ⟨e, h, fun _ => ⟨rfl, rfl⟩⟩⟩

theorem Restarts.trans {s t u : State} (h : Restarts s t) (k : Restarts t u) : Restarts s u where
  rx n := (k.rx n).trans (h.rx n)
  exchs x e he := by
    obtain ⟨e1, h1, hk1⟩ := h.exchs x e he
    obtain ⟨e2, h2, hk2⟩ := k.exchs x e1 h1
    refine ⟨e2, h2, fun hr => ?_⟩
    obtain ⟨hres, hst⟩ := hk1 hr
    obtain ⟨hres2, hst2⟩ := hk2 (hres ▸ hr)
    exact ⟨hres2.trans hres, hst2.trans hst⟩

theorem Restarts.foldl {α : Type} {f : State → α → State} (hf : ∀ s a, Restarts s (f s a)) (l : List α) (s : State) :
    Restarts s (l.foldl f s) := by
  induction l generalizing s with
  | nil => exact .refl s
  | cons a l ih => exact (hf s a).trans (ih _)

/-- A change of an entry restarts when it keeps the end of one that is decided. -/
theorem restarts_modExch {s : State} {x : ExId} {f : Exch → Exch} (hid : ∀ e, (f e).id = e.id)
    (hf : ∀ e, exch s x = some e → e.res.isSome → (f e).res = e.res ∧ (f e).st = e.st) : Restarts s (modExch s x f) where
  rx _ := rfl
  exchs y e he := by
    rw [exch_modExch hid]
    split
    · next h => exact ⟨f e, by rw [he]; rfl, hf e (h ▸ he)⟩
    · exact ⟨e, he, fun _ => ⟨rfl, rfl⟩⟩

theorem restarts_modExch_undecided {s : State} {x : ExId} {e : Exch} {f : Exch → Exch} (he : exch s x = some e) (hr : e.res = none)
    (hid : ∀ e, (f e).id = e.id) : Restarts s (modExch s x f) :=
  restarts_modExch hid fun o ho hs => by
    obtain rfl : e = o := Option.some.inj (he.symm.trans ho)
    simp [hr] at hs

theorem restarts_noteChain (s : State) (e : Exch) (r : ExRes) : Restarts s (noteChain s e r) := by
  unfold noteChain; split
  · exact .refl s
  · split
    · exact .refl s
    · refine restarts_modExch (fun o => ?_) fun o _ _ => ?_ <;> split <;> simp

/-- An entry as a decision leaves it. -/
def decided (r : ExRes) (e : Exch) : Exch := { e with res := some { r with synth := decide (e.st ≠ .remoteComplete) }, abort := none }

theorem decideWith_eq {s : State} {x : ExId} {e : Exch} (he : exch s x = some e) (hr : e.res = none) (r : ExRes) :
    decideWith s x r = noteChain (modExch s x (decided r)) e r := by
  rw [decideWith, he]
  dsimp only
  rw [hr]
  rfl

theorem restarts_decideWith (s : State) (x : ExId) (r : ExRes) : Restarts s (decideWith s x r) := by
  cases he : exch s x with
  | none => rw [decideWith, he]; exact .refl s
  | some e =>
    cases hr : e.res with
    | some v => simp only [decideWith, he, hr, Option.isSome_some, if_true]; exact .refl s
    | none =>
      rw [decideWith_eq he hr]
      refine .trans ?_ (restarts_noteChain ..)
      exact restarts_modExch_undecided he hr fun _ => rfl

/-- An undecided exchange is decided as given; the record shows SYNTH unless a COMPLETE ended it. -/
theorem decideWith_decides {s : State} {x : ExId} {e : Exch} (he : exch s x = some e) (hr : e.res = none) (r : ExRes) :
    ∃ e', exch (decideWith s x r) x = some e' ∧ e'.res = some { r with synth := decide (e.st ≠ .remoteComplete) } ∧
      e'.st = e.st := by
  rw [decideWith_eq he hr]
  have hx : exch (modExch s x (decided r)) x = some (decided r e) := exch_modExch_same (f := decided r) (fun _ => rfl) he
  obtain ⟨e', he', hk⟩ := (restarts_noteChain _ e r).exchs x _ hx
  exact ⟨e', he', hk rfl⟩

theorem restarts_setChainPath (s : State) (e : Exch) (k : Nat) : Restarts s (setChainPath s e k) := by
  unfold setChainPath; split
  · split
    · exact restarts_modExch (fun _ => rfl) fun _ _ _ => ⟨rfl, rfl⟩
    · exact .refl s
  · exact .refl s

theorem restarts_moveTo {s : State} {e : Exch} (he : exch s e.id = some e) (hr : e.res = none) (k : Nat) : Restarts s (moveTo s e k) := by
  unfold moveTo; split
  · refine .trans ?_ (restarts_setChainPath ..)
    exact restarts_modExch_undecided he hr fun _ => rfl
  · split
    · exact restarts_decideWith ..
    · refine .trans ?_ (restarts_setChainPath ..)
      obtain ⟨hc, hx⟩ := restarts_modExch_undecided
        (f := fun e => { e with st := .inFlight, path := some k, owner := chanDie k, attempt := e.attempt + 1 }) he hr fun _ => rfl
      exact ⟨hc, hx⟩

/-- The choice of a path changes the channels' running weights alone. -/
theorem choosePath_frame (s : State) (g : Nat) (lost : Option Nat) :
    (choosePath s g lost).1.exchs = s.exchs ∧ ∀ k, (chan (choosePath s g lost).1 k).rxSeq = (chan s k).rxSeq := by
  unfold choosePath; dsimp only
  generalize (livePaths s g).filter (fun n => some n != lost) = l
  split
  · exact ⟨rfl, fun _ => rfl⟩
  · next k _ =>
    obtain ⟨t, ht⟩ := forEach_modChan_frame s l (fun s _ c => { c with cur := c.cur + weff (group s g) c })
    have hrx := chan_forEach_modChan (·.rxSeq) (f := fun s _ c => { c with cur := c.cur + weff (group s g) c }) (fun _ _ _ => rfl) s l
    have hx := congrArg State.exchs ht
    refine ⟨hx, fun j => ?_⟩
    rw [chan_modChan]
    split
    · next h => exact h ▸ hrx k
    · exact hrx j

theorem restarts_choosePath_moveTo {s s1 : State} {e : Exch} {g k : Nat} {lost p : Option Nat} (he : exch s e.id = some e)
    (hr : e.res = none) (h : choosePath s g lost = (s1, p)) : Restarts s (moveTo s1 e k) := by
  have hf := choosePath_frame s g lost
  rw [h] at hf
  obtain ⟨hx, hc⟩ := hf
  refine .trans ⟨hc, fun x o ho => ⟨o, (exch_congr hx x).trans ho, fun _ => ⟨rfl, rfl⟩⟩⟩ (restarts_moveTo ?_ hr k)
  exact (exch_congr hx _).trans he

theorem restarts_promote (s : State) (x : ExId) : Restarts s (promote s x) := by
  unfold promote
  split
  · exact .refl s
  · next e he =>
    obtain rfl : e.id = x := exch_id he
    split
    · exact .refl s
    · next h =>
      have hr : e.res = none := by simp at h; exact h.2.1
      split
      · exact .refl s
      · split
        · exact restarts_decideWith ..
        · split
          · split
            · split
              · exact restarts_modExch_undecided he hr fun _ => rfl
              · exact restarts_moveTo he hr _
            · split
              · exact .refl s
              · split
                · next hc => exact restarts_choosePath_moveTo he hr hc
                · exact .refl s
          · split
            · next hc => exact restarts_choosePath_moveTo he hr hc
            · exact .refl s

theorem restarts_abortLater (s : State) (e : Exch) : Restarts s (abortLater s e) := by
  unfold abortLater; split
  · exact .refl s
  · exact iteInduction (fun _ => restarts_decideWith ..) fun _ => .refl s

theorem restarts_promoteAll (s : State) : Restarts s (promoteAll s) :=
  (Restarts.foldl restarts_abortLater s.exchs s).trans (Restarts.foldl restarts_promote _ _)

/-- A decision stands while waiting exchanges are started. -/
theorem promoteAll_decideWith {s : State} {x : ExId} {e : Exch} (he : exch s x = some e) (hr : e.res = none) (r : ExRes) :
    ∃ e', exch (promoteAll (decideWith s x r)) x = some e' ∧ e'.res = some { r with synth := decide (e.st ≠ .remoteComplete) } ∧
      e'.st = e.st := by
  obtain ⟨e1, h1, hr1, hst1⟩ := decideWith_decides he hr r
  obtain ⟨e2, h2, hk⟩ := (restarts_promoteAll _).exchs x e1 h1
  obtain ⟨hr2, hst2⟩ := hk (by rw [hr1]; rfl)
  exact ⟨e2, h2, hr2.trans hr1, hst2.trans hst1⟩

end Sys2Proof.Machine
end

section
/-! The last wait for an ABORT's answer (R264, R306). -/

namespace Sys2Proof.Machine

/-- An undecided exchange whose ABORT has gone out four times ends with ABORT_UNCONFIRMED once ABORT_WAIT has passed; the record shows SYNTH
unless the exchange stands as completed by the far end. -/
theorem abortWaitExpiry_decides {s : State} {x : ExId} {e : Exch} {a : AbortSt} (hon : inService s = true) (he : exch s x = some e)
    (hr : e.res = none) (hab : e.abort = some a) (hterm : e.terminating = false) (hpath : e.path.isSome = true)
    (hdue : a.since + 200 ≤ pip s) (hsends : 4 ≤ a.sends) :
    ∃ u e', exec (.abortWaitExpiry x) s = .next u ∧ exch u x = some e' ∧
      e'.res = some { code := 0x0F, detail := 0, synth := decide (e.st ≠ .remoteComplete) } := by
  obtain ⟨e1, he1, hr1, -⟩ := decideWith_decides he hr { code := Rec.abortUnconfirmed, detail := 0 }
  obtain ⟨-, hkeep⟩ := restarts_promoteAll (modGroup (decide_ s x Rec.abortUnconfirmed 0) e.group
    (fun g => { g with abortUnconfirmed := g.abortUnconfirmed + 1 }))
  obtain ⟨e2, he2, hk⟩ := hkeep x e1 he1
  obtain ⟨hr2, -⟩ := hk (by rw [hr1]; rfl)
  refine ⟨_, e2, ?_, he2, hr2.trans hr1⟩
  change execAbortWaitExpiry x s = _
  rw [execAbortWaitExpiry, whenServing_on hon, he]
  dsimp only
  rw [hab]
  have hnot : ¬ (e.res.isSome ∨ e.terminating ∨ pip s < a.since + abortWait ∨ e.path.isNone) := by
    simp [hr, hterm, abortWait, hdue, Option.isSome_iff_ne_none.mp hpath]
  dsimp only
  rw [if_neg hnot, if_pos hsends]

/-- A READ that stands in REMOTE_COMPLETE with no decision and with an ABORT that has gone out four times. -/
def abortedLate : Exch :=
  { id := { slice := 0, pair := 0, idx := 0#32 }, part := 0, gen := 1, seqNo := 5, opcode := Op.read, flags := 0, group := 0, length := 128
    sgl := 0, sglCount := 1, timeout := 0, remote := 0#64, arg := 0#64, cookie := 1#64, owner := 0, st := .remoteComplete
    path := some 0, abort := some { cause := AbortBy.timeout, sends := 4, since := 0 } }

/-- ABORT_WAIT has passed for it. -/
def lateWait : State :=
  { pins := { resetN := true }
    mode := { mode := 5, base := 5 }
    time := { pip := 200, grain := 20 }
    exchs := [abortedLate] }

theorem lateWait_meets : inService lateWait = true ∧ exch lateWait abortedLate.id = some abortedLate ∧ 0 + 200 ≤ pip lateWait := by
  decide

/-- Refutes O34: the clause on ABORT_UNCONFIRMED asks for SYNTH whatever the exchange's state is. The statement admits an undecided exchange
in REMOTE_COMPLETE, and its record shows no SYNTH, since that state says that a COMPLETE came (R264). -/
theorem not_exchangeExpiries : ¬ Obligations.ExchangeExpiries := by
  intro h
  obtain ⟨hs, he, hdue⟩ := lateWait_meets
  obtain ⟨limits, -⟩ := h
  obtain ⟨-, -, waits⟩ := limits lateWait abortedLate.id abortedLate hs he rfl
  obtain ⟨-, -, last⟩ := waits { cause := AbortBy.timeout, sends := 4, since := 0 } 0 rfl rfl rfl
  obtain ⟨u, e', hu, hx, hres, -⟩ := last hdue (Nat.le_refl 4)
  obtain ⟨v, o, hv, ho, hshown⟩ := abortWaitExpiry_decides hs he rfl rfl rfl rfl hdue (Nat.le_refl 4)
  obtain rfl := Host.Outcome.next.inj (hu.symm.trans hv)
  obtain rfl := Option.some.inj (hx.symm.trans ho)
  rw [hres] at hshown
  exact absurd hshown (by decide)

end Sys2Proof.Machine
end

section
/-! SUPPORT. What an access of an I/O die to memory leaves: all but caches, memory, links, translation and the reports of faults. -/

namespace Sys2Proof.Machine

/-- The state but for what an access to memory may change: cores' replies, caches and memory, stacks and CXL ports, hulls and sleeping
domains, slices' fault counts and cached leaves, engines that wake, reports, and free values. -/
def beyondMemory (s : State) : State :=
  { s with lcores := [], coh := {}, mem := {}, stackTab := [], cxl := [], net := { s.net with hulls := [], domains := [] }
           slices := [], leaves := [], engs := [], faults := {}, free := 0 }

@[simp] theorem beyondMemory_ite {p : Prop} [Decidable p] (s t : State) :
    beyondMemory (if p then s else t) = if p then beyondMemory s else beyondMemory t := apply_ite beyondMemory p s t

/-- For the first of a pair that a `match` has taken apart. -/
theorem beyondMemory_fst {α : Type} {s t : State} {p : State × α} {x : α} (h : p = (t, x)) (hp : beyondMemory p.1 = beyondMemory s) :
    beyondMemory t = beyondMemory s := by subst h; exact hp

/-- For the state that a `match` has found in an option. -/
theorem beyondMemory_some {s t : State} {o : Option State} (h : o = some t) (ho : beyondMemory (o.getD s) = beyondMemory s) :
    beyondMemory t = beyondMemory s := by subst h; exact ho

@[simp] theorem beyondMemory_modLCore (s : State) (c : Nat) (f : LCore → LCore) : beyondMemory (modLCore s c f) = beyondMemory s := by rfl
@[simp] theorem beyondMemory_modStack (s : State) (j : Nat) (f : Stack → Stack) : beyondMemory (modStack s j f) = beyondMemory s := by rfl
@[simp] theorem beyondMemory_modCxl (s : State) (k : Nat) (f : CxlPort → CxlPort) : beyondMemory (modCxl s k f) = beyondMemory s := by rfl
@[simp] theorem beyondMemory_modHull (s : State) (h : Nat) (f : Hull → Hull) : beyondMemory (modHull s h f) = beyondMemory s := by rfl
@[simp] theorem beyondMemory_modCoh (s : State) (f : Coh → Coh) : beyondMemory (modCoh s f) = beyondMemory s := by rfl
@[simp] theorem beyondMemory_modSlice (s : State) (n : Nat) (f : SliceE → SliceE) : beyondMemory (modSlice s n f) = beyondMemory s := by rfl
@[simp] theorem beyondMemory_useFree (s : State) : beyondMemory (useFree s).1 = beyondMemory s := by rfl
@[simp] theorem beyondMemory_report (s : State) (pt detail : Nat) : beyondMemory (report s pt detail) = beyondMemory s := by
  obtain ⟨f, h, -⟩ := report_frame s pt detail
  rw [h]; rfl

/-! ## Caches, homes and the messages between them -/

@[simp] theorem beyondMemory_l1Drop (s : State) (a ln : Nat) : beyondMemory (l1Drop s a ln) = beyondMemory s := by simp [l1Drop]
@[simp] theorem beyondMemory_pickLine (s : State) (l : List Nat) : beyondMemory (pickLine s l).1 = beyondMemory s := by simp [pickLine]

@[simp] theorem beyondMemory_setL2 (s : State) (a ln : Nat) (x : L2Line) : beyondMemory (setL2 s a ln x) = beyondMemory s := by simp [setL2]
@[simp] theorem beyondMemory_setL2St (s : State) (a ln : Nat) (x : L2St) :
    beyondMemory (setL2St s a ln x) = beyondMemory s := by simp [setL2St]
@[simp] theorem beyondMemory_modHome (s : State) (ln : Nat) (f : Home → Home) : beyondMemory (modHome s ln f) = beyondMemory s := by rfl
@[simp] theorem beyondMemory_setHomeSt (s : State) (ln : Nat) (x : HomeSt) : beyondMemory (setHomeSt s ln x) = beyondMemory s := by rfl

@[simp] theorem beyondMemory_domainPacket (s : State) (k : Nat) : beyondMemory (domainPacket s k) = beyondMemory s := by
  unfold domainPacket; dsimp only; (repeat' split) <;> rfl

@[simp] theorem beyondMemory_linePacket (s : State) (ln : Nat) : beyondMemory (linePacket s ln) = beyondMemory s := by
  unfold linePacket; split <;> simp

@[simp] theorem beyondMemory_memWriteLine (s : State) (ln : Nat) (l : Line) : beyondMemory (memWriteLine s ln l) = beyondMemory s := by
  have hu := beyondMemory_linePacket s ln
  unfold memWriteLine; dsimp only; split
  · split
    · simp
    · exact hu
  · split
    · split
      · simp
      · exact hu
    · exact hu

@[simp] theorem beyondMemory_fillL3 (s : State) (ln : Nat) : beyondMemory (fillL3 s ln) = beyondMemory s := by rfl
@[simp] theorem beyondMemory_writeL3 (s : State) (ln : Nat) (l : Line) : beyondMemory (writeL3 s ln l) = beyondMemory s := by rfl

@[simp] theorem beyondMemory_cleanL3 (s : State) (ln : Nat) : beyondMemory (cleanL3 s ln) = beyondMemory s := by
  unfold cleanL3; dsimp only; split <;> simp

@[simp] theorem beyondMemory_dropL3 (s : State) (ln : Nat) : beyondMemory (dropL3 s ln) = beyondMemory s := by rfl
@[simp] theorem beyondMemory_sendAll (s : State) (ms : List CohMsg) : beyondMemory (sendAll s ms) = beyondMemory s := by rfl
@[simp] theorem beyondMemory_send (s : State) (m : CohMsg) : beyondMemory (send s m) = beyondMemory s := by simp [send]

@[simp] theorem beyondMemory_impossible (s : State) (k : MsgKind) (agent ln : Nat) (atHome : Bool) :
    beyondMemory (impossible s k agent ln atHome) = beyondMemory s := by
  simp [impossible]

@[simp] theorem beyondMemory_returnCredit (s : State) (a ln k : Nat) : beyondMemory (returnCredit s a ln k) = beyondMemory s := by
  unfold returnCredit; split <;> simp

@[simp] theorem beyondMemory_coreReply (s : State) (c ln : Nat) (isolated : Bool) :
    beyondMemory (coreReply s c ln isolated) = beyondMemory s := by
  unfold coreReply; split <;> simp

@[simp] theorem beyondMemory_predMove (s : State) (a pa : Nat) (up : Bool) : beyondMemory (predMove s a pa up) = beyondMemory s := by
  simp [predMove]

@[simp] theorem beyondMemory_amoAnswer (s : State) (m : CohMsg) : beyondMemory (amoAnswer s m) = beyondMemory s := by
  unfold amoAnswer; (repeat' split) <;> simp

@[simp] theorem beyondMemory_l2Recv (s : State) (m : CohMsg) : beyondMemory (l2Recv s m) = beyondMemory s := by
  unfold l2Recv; dsimp only; (repeat' split) <;> simp

@[simp] theorem beyondMemory_invalAll (s : State) (ln : Nat) (l : List Nat) :
    beyondMemory (invalAll s ln l) = beyondMemory s := by simp [invalAll]

@[simp] theorem beyondMemory_performTake (s : State) (ln : Nat) (r : HomeReq) : beyondMemory (performTake s ln r) = beyondMemory s := by
  unfold performTake; dsimp only; (repeat' split) <;> simp

@[simp] theorem beyondMemory_homeRdOwn (s : State) (ln : Nat) (a : Nat) (zero : Bool) (x : HStable) :
    beyondMemory (homeRdOwn s ln a zero x) = beyondMemory s := by
  unfold homeRdOwn; split <;> simp

@[simp] theorem beyondMemory_homeTake (s : State) (ln : Nat) (r : HomeReq) (x : HStable) :
    beyondMemory (homeTake s ln r x) = beyondMemory s := by
  unfold homeTake; split <;> simp

@[simp] theorem beyondMemory_homeRequest (s : State) (ln : Nat) (r : HomeReq) (x : HStable) :
    beyondMemory (homeRequest s ln r x) = beyondMemory s := by
  unfold homeRequest; (repeat' split) <;> simp

@[simp] theorem beyondMemory_drainFrom (n : Nat) (s : State) (ln : Nat) : beyondMemory (drainFrom n s ln) = beyondMemory s := by
  induction n generalizing s with
  | zero => rfl
  | succ n ih => unfold drainFrom; dsimp only; (repeat' split) <;> simp [ih]

@[simp] theorem beyondMemory_drainHome (s : State) (ln : Nat) : beyondMemory (drainHome s ln) = beyondMemory s := by simp [drainHome]

@[simp] theorem beyondMemory_homeRecvReq (s : State) (ln : Nat) (r : HomeReq) : beyondMemory (homeRecvReq s ln r) = beyondMemory s := by
  unfold homeRecvReq; split <;> simp

@[simp] theorem beyondMemory_homeBecomes (s : State) (ln : Nat) (x : HStable) : beyondMemory (homeBecomes s ln x) = beyondMemory s := by
  simp [homeBecomes]

@[simp] theorem beyondMemory_applyEvict (s : State) (ln : Nat) (m : CohMsg) : beyondMemory (applyEvict s ln m) = beyondMemory s := by
  unfold applyEvict; split <;> simp

@[simp] theorem beyondMemory_homeEvict (s : State) (m : CohMsg) : beyondMemory (homeEvict s m) = beyondMemory s := by
  unfold homeEvict; dsimp only; split <;> simp

@[simp] theorem beyondMemory_fwdDone (s : State) (ln : Nat) (r : HomeReq) (base : HStable) (gone : List Nat) :
    beyondMemory (fwdDone s ln r base gone) = beyondMemory s := by
  unfold fwdDone; split <;> simp

@[simp] theorem beyondMemory_homeInvalAck (s : State) (a ln : Nat) : beyondMemory (homeInvalAck s a ln) = beyondMemory s := by
  unfold homeInvalAck; (repeat' split) <;> simp

@[simp] theorem beyondMemory_homeDataRecv (s : State) (m : CohMsg) : beyondMemory (homeDataRecv s m) = beyondMemory s := by
  unfold homeDataRecv; dsimp only; split <;> simp

@[simp] theorem beyondMemory_homeCmpRecv (s : State) (a ln : Nat) : beyondMemory (homeCmpRecv s a ln) = beyondMemory s := by
  unfold homeCmpRecv; split <;> simp

@[simp] theorem beyondMemory_isoEnd (s : State) (r : HomeReq) (ln : Nat) : beyondMemory (isoEnd s r ln) = beyondMemory s := by
  unfold isoEnd; dsimp only; (repeat' split) <;> simp

@[simp] theorem beyondMemory_homeAnswerIso (s : State) (a ln : Nat) : beyondMemory (homeAnswerIso s a ln) = beyondMemory s := by
  unfold homeAnswerIso; split <;> simp

@[simp] theorem beyondMemory_atHull (s : State) (l : List Nat) (f : Hull → Hull) : beyondMemory (atHull s l f) = beyondMemory s := by
  unfold atHull; split <;> simp

@[simp] theorem beyondMemory_countIso (s : State) (h ln : Nat) : beyondMemory (countIso s h ln) = beyondMemory s := by simp [countIso]

@[simp] theorem beyondMemory_evictIsolated (s : State) (a ln : Nat) : beyondMemory (evictIsolated s a ln) = beyondMemory s := by
  simp [evictIsolated]

@[simp] theorem beyondMemory_removeMsg (s : State) (m : CohMsg) : beyondMemory (removeMsg s m) = beyondMemory s := by rfl

@[simp] theorem beyondMemory_deliver (s : State) (m : CohMsg) : beyondMemory (deliver s m) = beyondMemory s := by
  unfold deliver; split <;> simp

@[simp] theorem beyondMemory_move (s : State) (m : CohMsg) : beyondMemory ((move s m).getD s) = beyondMemory s := by
  unfold move; dsimp only; (repeat' split) <;> simp

@[simp] theorem beyondMemory_runLine (n : Nat) (s : State) (ln : Nat) : beyondMemory (runLine n s ln) = beyondMemory s := by
  induction n generalizing s with
  | zero => rfl
  | succ n ih =>
    unfold runLine; split
    · rfl
    · next s1 h =>
      obtain ⟨m, -, hm⟩ := List.exists_of_findSome?_eq_some h
      split at hm
      · rw [ih, beyondMemory_some hm (beyondMemory_move s m)]
      · cases hm

@[simp] theorem beyondMemory_victimTake (s : State) (ln : Nat) : beyondMemory (victimTake s ln) = beyondMemory s := by
  unfold victimTake; split <;> simp

@[simp] theorem beyondMemory_trimL3 (s : State) (ln : Nat) : beyondMemory (trimL3 s ln) = beyondMemory s := by
  unfold trimL3; dsimp only; (repeat' split) <;> simp

@[simp] theorem beyondMemory_trimDir (s : State) (ln : Nat) : beyondMemory (trimDir s ln) = beyondMemory s := by
  unfold trimDir; dsimp only; (repeat' split) <;> simp

@[simp] theorem beyondMemory_settleLine (s : State) (ln : Nat) : beyondMemory (settleLine s ln) = beyondMemory s := by simp [settleLine]

@[simp] theorem beyondMemory_startEvict (s : State) (a ln : Nat) : beyondMemory (startEvict s a ln) = beyondMemory s := by
  unfold startEvict; dsimp only; split <;> simp

@[simp] theorem beyondMemory_evictRun (s : State) (a ln : Nat) : beyondMemory (evictRun s a ln) = beyondMemory s := by simp [evictRun]

@[simp] theorem beyondMemory_makeRoom (s : State) (a ln : Nat) : beyondMemory ((makeRoom s a ln).getD s) = beyondMemory s := by
  unfold makeRoom; dsimp only; (repeat' split) <;> simp

@[simp] theorem beyondMemory_requestState (s : State) (o : OutReq) : beyondMemory (requestState s o) = beyondMemory s := by
  unfold requestState; dsimp only; split <;> simp

@[simp] theorem beyondMemory_bounce (s : State) (o : OutReq) : beyondMemory (bounce s o) = beyondMemory s := by simp [bounce]

@[simp] theorem beyondMemory_inject (s : State) (o : OutReq) : beyondMemory ((inject s o).getD s) = beyondMemory s := by
  unfold inject; dsimp only; split
  · simp
  · split
    · rfl
    · split
      · rfl
      · next s1 h =>
        have h1 : beyondMemory s1 = beyondMemory s := by
          split at h
          · exact beyondMemory_some h (by simp)
          · cases h; rfl
        simp [h1]

@[simp] theorem beyondMemory_launch (s : State) (o : OutReq) : beyondMemory (launch s o) = beyondMemory s := by
  unfold launch; dsimp only; split
  · next s1 h =>
    have h1 := beyondMemory_some h (beyondMemory_inject s o)
    split <;> simp [h1]
  · simp

@[simp] theorem beyondMemory_ioWriteLine (s : State) (d ln : Nat) (bs : List Byte) (mask : BitVec 128) (alloc : Bool) :
    beyondMemory (ioWriteLine s d ln bs mask alloc) = beyondMemory s := by
  simp [ioWriteLine]

@[simp] theorem beyondMemory_ioWrite (alloc : Bool) (n : Nat) (s : State) (d pa : Nat) (bs : List Byte) :
    beyondMemory (ioWrite alloc n s d pa bs) = beyondMemory s := by
  induction n generalizing s pa bs with
  | zero => rfl
  | succ n ih => cases bs with
    | nil => rfl
    | cons b bs => simp [ioWrite, ih]

@[simp] theorem beyondMemory_ioWriteBytes (s : State) (d pa : Nat) (bs : List Byte) (alloc : Bool) :
    beyondMemory (ioWriteBytes s d pa bs alloc) = beyondMemory s := by
  simp [ioWriteBytes]

/-! ## Translated accesses and the buffers of an exchange -/

@[simp] theorem beyondMemory_ioTranslate (s : State) (d sl : Nat) (iova : W64) (n : Nat) (wr : Bool) :
    beyondMemory (ioTranslate s d sl iova n wr).1 = beyondMemory s := by
  unfold ioTranslate; dsimp only; split
  · rfl
  · split
    · rfl
    · split
      · split
        · simp
        · rfl
      · rfl

@[simp] theorem beyondMemory_noteFault (s : State) (sl reason : Nat) : beyondMemory (noteFault s sl reason) = beyondMemory s := by rfl

@[simp] theorem beyondMemory_ioCount (s : State) (d pa n : Nat) : beyondMemory (ioCount s d pa n) = beyondMemory s := by
  unfold ioCount; split <;> simp

@[simp] theorem beyondMemory_logPage (s : State) (d sl iova : Nat) : beyondMemory (logPage s d sl iova) = beyondMemory s := by
  simp [logPage]

@[simp] theorem beyondMemory_ioWriteChunks (alloc : Bool) (k : Nat) (s : State) (d sl iova : Nat) (bs : List Byte) :
    beyondMemory (ioWriteChunks alloc k s d sl iova bs).1 = beyondMemory s := by
  induction k generalizing s iova bs with
  | zero => rfl
  | succ k ih => cases bs with
    | nil => rfl
    | cons b bs =>
      unfold ioWriteChunks; dsimp only; split
      · next s1 r h => simp [beyondMemory_fst h (beyondMemory_ioTranslate ..)]
      · next s1 pa h =>
        have h1 := beyondMemory_fst h (beyondMemory_ioTranslate ..)
        split <;> simp [ih, h1]

@[simp] theorem beyondMemory_ioWriteV (s : State) (d sl iova : Nat) (bs : List Byte) (alloc : Bool) :
    beyondMemory (ioWriteV s d sl iova bs alloc).1 = beyondMemory s := by
  simp [ioWriteV]

@[simp] theorem beyondMemory_sglWrite (d sl : Nat) (alloc : Bool) (s : State) (l : List (Nat × Nat)) (bs : List Byte) :
    beyondMemory (sglWrite d sl alloc s l bs).1 = beyondMemory s := by
  induction l generalizing s bs with
  | nil => rfl
  | cons p l ih =>
    unfold sglWrite; split
    · next s1 e h => exact beyondMemory_fst h (beyondMemory_ioWriteV ..)
    · next s1 h => rw [ih, beyondMemory_fst h (beyondMemory_ioWriteV ..)]

/-! ## What stands outside -/

/-- Whatever does not read what an access may change reads the same after it. -/
theorem read_of_beyondMemory {α : Type} {s t : State} (h : beyondMemory t = beyondMemory s) (f : State → α)
    (hf : ∀ u, f (beyondMemory u) = f u) : f t = f s := by rw [← hf t, h, hf]

theorem exchs_of_beyondMemory {s t : State} (h : beyondMemory t = beyondMemory s) : t.exchs = s.exchs :=
  read_of_beyondMemory h State.exchs fun _ => rfl

theorem chan_of_beyondMemory {s t : State} (h : beyondMemory t = beyondMemory s) (n : Nat) : chan t n = chan s n :=
  read_of_beyondMemory h (chan · n) fun _ => rfl

theorem group_of_beyondMemory {s t : State} (h : beyondMemory t = beyondMemory s) (g : Nat) : group t g = group s g :=
  read_of_beyondMemory h (group · g) fun _ => rfl

end Sys2Proof.Machine
end

section
/-! A frame that passed every check: what it leaves once its ACK_SEQ has been taken and it has been acknowledged or NAKed (R296, R299,
R300). -/

namespace Sys2Proof.Machine

/-! ## The checks -/

section
variable {s : State} {n g ft : Nat} {h : FrameHdr}

theorem acceptable_iff : acceptable s n g ft h = true ↔ (chan s n).group = some g ∧ (chan s n).pcs = true ∧
    ioLost s (chanDie n) = false ∧ outerOk s n ft h = true ∧ authAccepted s g h = true ∧ (chan s n).state = .live ∧
    h.epoch.toNat = (chan s n).epoch := by
  simp [acceptable, and_assoc]

/-- CH[n] has heard the frame; its ACK_SEQ has not been taken. -/
def heard (s : State) (n g : Nat) (h : FrameHdr) : State := noteEpoch (modChan s n (fun c => { c with lastValid := pip s })) g h

/-- The ACK_SEQ has been taken, and what its room lets go has gone. -/
def admitted (s : State) (n g : Nat) (h : FrameHdr) : State := acked (heard s n g h) n g h.ackSeq.toNat

theorem admitFrame_of_acceptable (ha : acceptable s n g ft h = true) : admitFrame s n ft h = (admitted s n g h, some g) := by
  obtain ⟨hg, hp, hl, ho, hau, hlive, hep⟩ := acceptable_iff.mp ha
  simp [admitFrame, hg, hp, hl, ho, hau, hlive, hep, admitted, heard]

theorem outerOk_of_type_ne (ht : h.ftype.toNat ≠ ft) : outerOk s n ft h = false := by simp [outerOk, ht]

/-- A frame of another type than its row's is discarded and counted (R296). -/
theorem admitFrame_of_type_ne (hg : (chan s n).group = some g) (hp : (chan s n).pcs = true) (hl : ioLost s (chanDie n) = false)
    (ht : h.ftype.toNat ≠ ft) : admitFrame s n ft h = (discard s n, none) := by
  simp [admitFrame, hg, hp, hl, outerOk_of_type_ne ht]

end

/-! ## What a frame's admission keeps -/

/-- State `u` is state `s` after a frame has been heard on CH[n] of PG[g] and frames have gone out: but for memory and the entries' ABORTs,
the exchanges stand. -/
structure Keeps (s u : State) (n g : Nat) : Prop where
  wire : (chan s n).wire <:+ (chan u n).wire
  groups : ∀ k, grpSide (group u k) = grpSide (group s k)
  exchs : ∃ F : Exch → Exch, (∀ e, task (F e) = task e) ∧ u.exchs = s.exchs.map F
  causes : ∀ x, (exch u x).map causeOf = (exch s x).map causeOf
  rest : beyondPaths u = beyondPaths s
  quiet : NothingWaits s n g → u.exchs = s.exchs

/-- The state once the frame's ACK_SEQ has been taken: nothing is lost of what waits, and the receiving side stands. -/
structure Admits (s u : State) (n g ackSeq : Nat) : Prop extends Keeps s u n g where
  unacked : ∃ m, (chan u n).unacked = unackedAfter s n ackSeq ++ m ∧ (NothingWaits s n g → m = [])
  rx : rxSide (chan u n) = rxSide (chan s n)

section
variable {s u v : State} {n g : Nat}

/-- A step that leaves the entries keeps them when it puts frames on the wire and counts none of the group's. -/
theorem Keeps.step (h : Keeps s u n g) (hw : (chan u n).wire <:+ (chan v n).wire) (hg : ∀ k, grpSide (group v k) = grpSide (group u k))
    (he : v.exchs = u.exchs) (hb : beyondPaths v = beyondPaths u) : Keeps s v n g where
  wire := h.wire.trans hw
  groups k := (hg k).trans (h.groups k)
  exchs := by rw [he]; exact h.exchs
  causes x := by rw [exch_congr he]; exact h.causes x
  rest := hb.trans h.rest
  quiet hq := he.trans (h.quiet hq)

theorem Keeps.modChan (h : Keeps s u n g) {f : Chan → Chan} (hf : (chan u n).wire <:+ (f (chan u n)).wire) :
    Keeps s (modChan u n f) n g :=
  h.step (by rw [chan_modChan_same]; exact hf) (fun _ => rfl) rfl rfl

theorem Keeps.sendFrame (h : Keeps s u n g) (ftype : Nat) (sequenced : Bool) (tag : W64) (body : List Byte) (last : Bool) :
    Keeps s (sendFrame u n ftype sequenced tag body last) n g := by
  have hs := sends_sendFrame u n ftype sequenced tag body last
  exact h.step (hs.chans n).wire hs.groups (sendFrame_frame ..).1 hs.rest

end

theorem grpSide_heard (s : State) (n g : Nat) (h : FrameHdr) (k : Nat) : grpSide (group (heard s n g h) k) = grpSide (group s k) := by
  rw [heard, noteEpoch, group_modGroup, group_modChan, group_modChan]
  split
  · next hk => subst hk; split <;> rfl
  · rfl

theorem chan_heard (s : State) (n g : Nat) (h : FrameHdr) : chan (heard s n g h) n = { chan s n with lastValid := pip s } := by
  rw [heard, noteEpoch, chan_modGroup, chan_modChan_same]

theorem nothingWaits_heard {s : State} {n g : Nat} (hq : NothingWaits s n g) (h : FrameHdr) : NothingWaits (heard s n g h) n g := by
  obtain ⟨hque, hquery, habort⟩ := hq
  refine ⟨by rw [chan_heard]; exact hque, fun q hh => hquery q ?_, habort⟩
  rw [← hh, heard, noteEpoch, group_modGroup_same]
  split <;> rfl

/-- What an accepted frame leaves once its ACK_SEQ has been taken. -/
theorem admits_admitted (s : State) (n g : Nat) (h : FrameHdr) : Admits s (admitted s n g h) n g h.ackSeq.toNat := by
  have hs := sends_acked (heard s n g h) n g h.ackSeq.toNat
  obtain ⟨k, p, hc⟩ := takeAck_same (heard s n g h) n h.ackSeq.toNat
  have hold : unackedAfter (heard s n g h) n h.ackSeq.toNat = unackedAfter s n h.ackSeq.toNat := by
    rw [unackedAfter, chan_heard, unackedAfter]
  rw [chan_heard, hold] at hc
  have hidle : NothingWaits s n g → admitted s n g h = takeAck (heard s n g h) n h.ackSeq.toNat := fun hq =>
    acked_of_nothingWaits (nothingWaits_heard hq h) _
  have hn := hs.chans n
  rw [hc] at hn
  obtain ⟨m, hm⟩ := hn.unacked
  exact {
    wire := hn.wire
    groups := fun k => (hs.groups k).trans (grpSide_heard s n g h k)
    exchs := hs.exchs
    causes := hs.causes
    rest := hs.rest
    quiet := fun hq => by rw [hidle hq]; rfl
    unacked := ⟨m, hm.symm, fun hq => by
      have hl := congrArg List.length hm
      rw [show acked (heard s n g h) n g h.ackSeq.toNat = _ from hidle hq, hc] at hl
      simpa using hl⟩
    rx := hn.rx }

/-! ## An acknowledgement in return -/

/-- A frame of type `t` is the last that CH[n] has sent since. -/
def Sent (s u : State) (n t : Nat) (f : TxFrame) : Prop := f.ftype = t ∧ ∃ ws, (chan u n).wire = f :: (ws ++ (chan s n).wire)

/-- The state once a sequenced frame has been accepted in order and acknowledged. -/
structure Received (s u : State) (n g : Nat) : Prop extends Keeps s u n g where
  ack : ∃ f, Sent s u n 3 f ∧ f.ackSeq = ((chan s n).rxSeq + 1) % 2 ^ 32 ∧ f.tag = 0#64
  rxSeq : (chan u n).rxSeq = ((chan s n).rxSeq + 1) % 2 ^ 32

/-- The fields of a channel that a frame's admission leaves are as they were. -/
theorem Admits.rxSide_eq {s u : State} {n g k : Nat} (h : Admits s u n g k) : (chan u n).rxSeq = (chan s n).rxSeq ∧
    (chan u n).nakFor = (chan s n).nakFor ∧ (chan u n).nakPip = (chan s n).nakPip ∧ (chan u n).retxCount = (chan s n).retxCount ∧
    (chan u n).group = (chan s n).group := by
  have := h.rx
  simpa [rxSide] using this

/-- CH[n] once it has accepted the number that it expected. -/
def expectNext (c : Chan) : Chan := { c with rxSeq := (c.rxSeq + 1) % 2 ^ 32, nakFor := none }

theorem inOrder_next {s : State} {n g : Nat} {h : FrameHdr} (hseq : h.seq.toNat = (chan s n).rxSeq) :
    ∃ u, inOrder (admitted s n g h) n h = (u, true) ∧ Received s u n g := by
  have ha := admits_admitted s n g h
  obtain ⟨hrx, -⟩ := ha.rxSide_eq
  generalize admitted s n g h = t at ha hrx
  obtain ⟨r, hr⟩ := sendFrame_same (modChan t n expectNext) n FType.ack false 0#64 (List.replicate 8 0#8) false
  rw [chan_modChan_same] at hr
  have hstep : Keeps s (modChan t n expectNext) n g := ha.toKeeps.modChan List.suffix_rfl
  refine ⟨sendAck (modChan t n expectNext) n, by rw [inOrder, if_pos (hseq.trans hrx.symm)]; rfl, hstep.sendFrame .., ?_, ?_⟩
  · obtain ⟨ws, hws⟩ := ha.wire
    refine ⟨_, ⟨rfl, ws, (congrArg Chan.wire hr).trans (congrArg _ hws.symm)⟩, ?_, rfl⟩
    rw [onWire, chan_modChan_same, expectNext, hrx]
  · rw [sendAck, hr, expectNext, hrx]

/-! ## A NAK in return -/

/-- No NAK for the number that CH[n] expects has gone out within RTO. -/
def MayNak (s : State) (n g : Nat) : Prop :=
  (chan s n).nakFor ≠ some (chan s n).rxSeq ∨ (chan s n).nakPip + (group s g).rto ≤ pip s

/-- A NAK for the number that CH[n] expects has gone out. -/
def nakked (s : State) (n reason : Nat) : State :=
  modChan (sendFrame s n FType.nak false 0#64 (beBytes 4 (chan s n).rxSeq ++ [BitVec.ofNat 8 reason, 0#8, 0#8, 0#8]) false) n
    (fun c => { c with nakFor := some c.rxSeq, nakPip := pip s })

theorem sendNak_cases (s : State) (n reason : Nat) : sendNak s n reason = s ∨ sendNak s n reason = nakked s n reason := by
  unfold sendNak
  exact iteInduction (motive := fun t => t = s ∨ t = nakked s n reason) (fun _ => .inl rfl) fun _ => .inr rfl

theorem sendNak_keeps {s u : State} {n g : Nat} (h : Keeps s u n g) (reason : Nat) : Keeps s (sendNak u n reason) n g := by
  rcases sendNak_cases u n reason with hn | hn <;> rw [hn]
  · exact h
  · exact (h.sendFrame ..).modChan List.suffix_rfl

/-- What a NAK leaves of its channel. -/
theorem chan_nakked (s : State) (n reason : Nat) : ∃ r, chan (nakked s n reason) n = { chan s n with
    wire := onWire s n (numbered s n FType.nak false 0#64 (beBytes 4 (chan s n).rxSeq ++ [BitVec.ofNat 8 reason, 0#8, 0#8, 0#8]) false) ::
      (chan s n).wire
    frameCounter := (chan s n).frameCounter + 1
    nextReady := r
    nakFor := some (chan s n).rxSeq
    nakPip := pip s } := by
  obtain ⟨r, hr⟩ := sendFrame_same s n FType.nak false 0#64
    (beBytes 4 (chan s n).rxSeq ++ [BitVec.ofNat 8 reason, 0#8, 0#8, 0#8]) false
  exact ⟨r, by rw [nakked, chan_modChan_same, hr]; rfl⟩

theorem chan_sendNak (s : State) (n reason : Nat) : (chan (sendNak s n reason) n).rxSeq = (chan s n).rxSeq ∧
    (chan (sendNak s n reason) n).unacked = (chan s n).unacked ∧ (chan (sendNak s n reason) n).retxCount = (chan s n).retxCount := by
  rcases sendNak_cases s n reason with hn | hn <;> rw [hn]
  · exact ⟨rfl, rfl, rfl⟩
  · obtain ⟨r, hr⟩ := chan_nakked s n reason
    rw [hr]; exact ⟨rfl, rfl, rfl⟩

theorem wire_sendNak {s : State} {n g : Nat} (hg : (chan s n).group = some g) (hm : MayNak s n g) (reason : Nat) :
    ∃ f, (chan (sendNak s n reason) n).wire = f :: (chan s n).wire ∧ f.ftype = 4 ∧
      f.body.take 5 = beBytes 4 (chan s n).rxSeq ++ [BitVec.ofNat 8 reason] := by
  have hfree : ¬ ((chan s n).nakFor = some (chan s n).rxSeq ∧ pip s < (chan s n).nakPip + (group s g).rto) := fun ⟨h1, h2⟩ =>
    hm.elim (· h1) (Nat.not_le.mpr h2)
  have hn : sendNak s n reason = nakked s n reason := by
    unfold sendNak nakked
    simp only [hg]
    rw [if_neg hfree]
  obtain ⟨r, hr⟩ := chan_nakked s n reason
  rw [hn, hr]
  exact ⟨_, rfl, rfl, rfl⟩

/-- A NAK that answers an admitted frame. -/
theorem Admits.wire_sendNak {s u : State} {n g k : Nat} (h : Admits s u n g k) (hg : (chan s n).group = some g) (hm : MayNak s n g)
    (reason : Nat) :
    ∃ f, Sent s (sendNak u n reason) n 4 f ∧ f.body.take 5 = beBytes 4 (chan s n).rxSeq ++ [BitVec.ofNat 8 reason] := by
  obtain ⟨hrx, hfor, hpip, -, hgrp⟩ := h.rxSide_eq
  have hrto : (group u g).rto = (group s g).rto := congrArg Prod.fst (h.groups g)
  have hnow : pip u = pip s := read_of_beyondPaths h.rest pip fun _ => rfl
  obtain ⟨f, hw, hf, hb⟩ := Machine.wire_sendNak (hgrp.trans hg)
    (show MayNak u n g by unfold MayNak; rw [hrx, hfor, hpip, hrto, hnow]; exact hm) reason
  obtain ⟨ws, hws⟩ := h.wire
  exact ⟨f, ⟨hf, ws, by rw [hw, hws]⟩, by rw [hb, hrx]⟩

/-! ## The exchange that a frame names -/

/-- A match with its entry changed. -/
def Match.over (F : Exch → Exch) : Match → Match
  | .late => .late
  | .stale => .stale
  | .of e => .of (F e)

theorem findTag_map {s u : State} {F : Exch → Exch} (hF : ∀ e, task (F e) = task e) (hu : u.exchs = s.exchs.map F) (tag : W64) :
    findTag u tag = (findTag s tag).map F := by
  have hp : ∀ e, (isAccepted (F e) && tagNat { F e with attempt := 0 } == tag.toNat - place (field tag 15 12) 12) =
      (isAccepted e && tagNat { e with attempt := 0 } == tag.toNat - place (field tag 15 12) 12) := fun e =>
    read_of_task (hF e) (fun e => isAccepted e && tagNat { e with attempt := 0 } == tag.toNat - place (field tag 15 12) 12) fun _ => rfl
  rw [findTag, hu, List.find?_map, findTag]
  exact congrArg (fun p => (s.exchs.find? p).map F) (funext hp)

/-- A frame names the same exchange when only ABORTs have changed since. -/
theorem matchFrame_map {s u : State} {F : Exch → Exch} (hF : ∀ e, task (F e) = task e) (hu : u.exchs = s.exchs.map F) (n : Nat)
    (tag : W64) :
    matchFrame u n tag = (matchFrame s n tag).over F := by
  unfold matchFrame
  rw [findTag_map hF hu]
  cases findTag s tag with
  | none => rfl
  | some e =>
    have hst : (F e).st = e.st := read_of_task (hF e) (·.st) fun _ => rfl
    have hterm : (F e).terminating = e.terminating := read_of_task (hF e) (·.terminating) fun _ => rfl
    have hres : (F e).res = e.res := read_of_task (hF e) (·.res) fun _ => rfl
    have hatt : (F e).attempt = e.attempt := read_of_task (hF e) (·.attempt) fun _ => rfl
    have hpath : (F e).path = e.path := read_of_task (hF e) (·.path) fun _ => rfl
    simp only [Option.map_some, hst, hterm, hres, hatt, hpath]
    split
    · rfl
    · split
      · rfl
      · split <;> rfl

theorem matchFrame_of {s : State} {n : Nat} {tag : W64} {e : Exch} (h : matchFrame s n tag = .of e) : e.res = none := by
  unfold matchFrame at h
  split at h
  · cases h
  · next o _ =>
    split at h
    · cases h
    · next hlive =>
      split at h
      · cases h
      · split at h
        · cases h
        · cases h
          simp at hlive
          exact hlive.2

section
variable {s u : State} {n g : Nat} (hk : Keeps s u n g)
include hk

/-- The entry that a frame names stands under its name, with another ABORT at most. -/
theorem Keeps.matchFrame_of {tag : W64} {e : Exch} (hm : matchFrame s n tag = .of e) (he : exch s e.id = some e) :
    ∃ o, matchFrame u n tag = .of o ∧ exch u e.id = some o ∧ task o = task e ∧ causeOf o = causeOf e := by
  obtain ⟨F, hF, hu⟩ := hk.exchs
  have hx : exch u e.id = some (F e) := by
    rw [exch_map (fun o => read_of_task (hF o) (·.id) fun _ => rfl) hu, he]; rfl
  refine ⟨F e, by rw [matchFrame_map hF hu, hm]; rfl, hx, hF e, ?_⟩
  have hc := hk.causes e.id
  rw [hx, he] at hc
  exact Option.some.inj hc

theorem Keeps.matchFrame_late {tag : W64} (hm : matchFrame s n tag = .late) : matchFrame u n tag = .late := by
  obtain ⟨F, hF, hu⟩ := hk.exchs
  rw [matchFrame_map hF hu, hm]; rfl

theorem Keeps.matchFrame_stale {tag : W64} (hm : matchFrame s n tag = .stale) : matchFrame u n tag = .stale := by
  obtain ⟨F, hF, hu⟩ := hk.exchs
  rw [matchFrame_map hF hu, hm]; rfl

end

/-! ## Frames of an exchange -/

section
variable {s : State} {n g ft : Nat} {h : FrameHdr} (ha : acceptable s n g ft h = true) (hseq : h.seq.toNat = (chan s n).rxSeq)
include ha hseq

/-- A frame in order that names an exchange does to it what its row says, after the acknowledgement. -/
theorem exFrame_of {e : Exch} (hm : matchFrame s n h.tag = .of e) (he : exch s e.id = some e) (f : State → Exch → State) :
    ∃ u o, exFrame s n ft h f = f u o ∧ Received s u n g ∧ exch u e.id = some o ∧ task o = task e ∧ causeOf o = causeOf e := by
  obtain ⟨u, hu, hr⟩ := inOrder_next (g := g) hseq
  obtain ⟨o, hmo, ho, htask, hcause⟩ := hr.toKeeps.matchFrame_of hm he
  refine ⟨u, o, ?_, hr, ho, htask, hcause⟩
  unfold exFrame
  rw [admitFrame_of_acceptable ha]; dsimp only
  rw [hu]; dsimp only
  rw [hmo]

theorem exFrame_late (hm : matchFrame s n h.tag = .late) (f : State → Exch → State) :
    ∃ u, exFrame s n ft h f = modGroup u g (fun x => { x with lateDiscards := x.lateDiscards + 1 }) ∧ Received s u n g := by
  obtain ⟨u, hu, hr⟩ := inOrder_next (g := g) hseq
  refine ⟨u, ?_, hr⟩
  unfold exFrame
  rw [admitFrame_of_acceptable ha]; dsimp only
  rw [hu]; dsimp only
  rw [hr.toKeeps.matchFrame_late hm]

theorem exFrame_stale (hm : matchFrame s n h.tag = .stale) (f : State → Exch → State) :
    ∃ u, exFrame s n ft h f = modGroup u g (fun x => { x with staleDiscards := x.staleDiscards + 1 }) ∧ Received s u n g := by
  obtain ⟨u, hu, hr⟩ := inOrder_next (g := g) hseq
  refine ⟨u, ?_, hr⟩
  unfold exFrame
  rw [admitFrame_of_acceptable ha]; dsimp only
  rw [hu]; dsimp only
  rw [hr.toKeeps.matchFrame_stale hm]

end

end Sys2Proof.Machine
end

section
/-! What each frame received does to its exchange (R278, R296, R299, R301, R303-R305). -/

namespace Sys2Proof.Machine

/-! ## Frames of another type -/

theorem expressEarly_of_type_ne {h : FrameHdr} (ht : h.ftype.toNat ≠ 2) (s : State) (n : Nat) (b : DataBody) : expressEarly s n h b = s :=
  if_pos ht

theorem expressEarly_of_no_match {s : State} {n : Nat} {h : FrameHdr} (hm : ∀ e, matchFrame s n h.tag ≠ .of e) (b : DataBody) :
    expressEarly s n h b = s := by
  unfold expressEarly
  dsimp only
  split
  · rfl
  · split
    · rfl
    · split
      · next e he => exact absurd he (hm e)
      · rfl

section
variable {s : State} {ch : ChanNo} {g : Nat} {h : FrameHdr} (hon : inService s = true) (hg : (chan s ch).group = some g)
  (hp : (chan s ch).pcs = true) (hl : ioLost s (chanDie ch) = false)
include hon hg hp hl

/-- A frame whose TYPE is not its row's is discarded and counted, in every row (R296; LOG 125). -/
theorem exec_of_type_ne : let t := h.ftype.toNat; let gone := modChan s ch (fun c => { c with discards := c.discards + 1 })
    (t ≠ 2 → ∀ b, exec (.dataFrame ch h b) s = .next gone) ∧ (t ≠ 3 → ∀ d, exec (.ack ch h d) s = .next gone) ∧
    (t ≠ 4 → ∀ k y, exec (.nak ch h k y) s = .next gone) ∧ (t ≠ 5 → ∀ b, exec (.complete ch h b) s = .next gone) ∧
    (t ≠ 8 → ∀ b, exec (.resumeAnswer ch h b) s = .next gone) ∧ (t ≠ 9 → ∀ b, exec (.pathHello ch h b) s = .next gone) ∧
    (t ≠ 10 → ∀ b, exec (.pathGone ch h b) s = .next gone) := by
  refine ⟨fun ht b => ?_, fun ht d => ?_, fun ht k y => ?_, fun ht b => ?_, fun ht b => ?_, fun ht b => ?_, fun ht b => ?_⟩
  · change execDataFrame ch h b s = _
    rw [execDataFrame, whenServing_on hon, expressEarly_of_type_ne ht]
    simp only [exFrame, admitFrame_of_type_ne (ft := FType.data) hg hp hl ht, ite_self]; rfl
  · change execAck ch h d s = _
    rw [execAck, whenServing_on hon]
    simp only [exFrame, admitFrame_of_type_ne (ft := FType.ack) hg hp hl ht, ite_self]; rfl
  · change execNak ch h k y s = _
    rw [execNak, whenServing_on hon, admitFrame_of_type_ne (ft := FType.nak) hg hp hl ht]; rfl
  · change execComplete ch h b s = _
    rw [execComplete, whenServing_on hon, exFrame, admitFrame_of_type_ne (ft := FType.complete) hg hp hl ht]; rfl
  · change execResumeAnswer ch h b s = _
    rw [execResumeAnswer, whenServing_on hon, admitFrame_of_type_ne (ft := FType.resumeAnswer) hg hp hl ht]; rfl
  · change execPathHello ch h b s = _
    rw [execPathHello, whenServing_on hon]
    simp [pathHello, hg, hp, hl, outerOk_of_type_ne (ft := FType.hello) ht, discard]
  · change execPathGone ch h b s = _
    rw [execPathGone, whenServing_on hon, admitFrame_of_type_ne (ft := FType.gone) hg hp hl ht]; rfl

end

/-! ## DATA -/

theorem beyondMemory_expressEarly (s : State) (n : Nat) (h : FrameHdr) (b : DataBody) :
    beyondMemory (expressEarly s n h b) = beyondMemory s := by
  unfold expressEarly
  dsimp only
  split
  · rfl
  · split
    · rfl
    · split
      · split
        · exact beyondMemory_sglWrite ..
        · rfl
      · rfl

section
variable {s u : State} (hu : beyondMemory u = beyondMemory s)
include hu

theorem acceptable_of_beyondMemory (n g ft : Nat) (h : FrameHdr) : acceptable u n g ft h = acceptable s n g ft h :=
  read_of_beyondMemory hu (acceptable · n g ft h) fun _ => rfl

theorem matchFrame_of_beyondMemory (n : Nat) (tag : W64) : matchFrame u n tag = matchFrame s n tag :=
  read_of_beyondMemory hu (matchFrame · n tag) fun _ => rfl

theorem nothingWaits_of_beyondMemory {n g : Nat} (h : NothingWaits s n g) : NothingWaits u n g := by
  unfold NothingWaits
  rw [chan_of_beyondMemory hu, group_of_beyondMemory hu, exchs_of_beyondMemory hu]
  exact h

theorem mayNak_of_beyondMemory {n g : Nat} (h : MayNak s n g) : MayNak u n g := by
  unfold MayNak
  rw [chan_of_beyondMemory hu, group_of_beyondMemory hu, read_of_beyondMemory hu pip fun _ => rfl]
  exact h

end

/-- An entry with the data of a frame counted. -/
def withData (b : DataBody) (last : Bool) (e : Exch) : Exch := { e with rcvd := e.rcvd + b.data.length, gotLast := e.gotLast || last }

/-- How far an exchange has come stands when memory is written and its entry is marked. -/
theorem progress_modExch {s u : State} {x : ExId} {e : Exch} (hu : beyondMemory u = beyondMemory s) (he : exch s x = some e)
    {f : Exch → Exch} (hf : ∀ o, (f o).id = o.id ∧ (f o).rcvd = o.rcvd ∧ (f o).gotLast = o.gotLast) :
    ∃ o, exch (modExch u x f) x = some o ∧ o.rcvd = e.rcvd ∧ o.gotLast = e.gotLast ∧ ∀ k, chan (modExch u x f) k = chan s k := by
  obtain ⟨-, hrcvd, hlast⟩ := hf e
  exact ⟨f e, exch_modExch_same (fun o => (hf o).1) ((exch_congr (exchs_of_beyondMemory hu) x).trans he), hrcvd, hlast,
    fun k => (chan_modExch u k x f).trans (chan_of_beyondMemory hu k)⟩

/-- DATA in order from where the exchange stands advances it, and touches no channel. -/
theorem takeData_advances {s : State} {e : Exch} {b : DataBody} (he : exch s e.id = some e) (hop : e.opcode = 1 ∨ e.opcode = 4)
    (hoff : b.offset.toNat = e.rcvd) (hlen : e.rcvd + b.data.length ≤ e.wireLen) (last : Bool) :
    ∃ o, exch (takeData s e b last) e.id = some o ∧ o.rcvd = e.rcvd + b.data.length ∧ o.gotLast = (e.gotLast || last) ∧
      ∀ k, chan (takeData s e b last) k = chan s k := by
  have hin : (!(e.opcode == Op.read || e.opcode == Op.sense) || decide (e.wireLen < b.offset.toNat + b.data.length)) = false := by
    rw [hoff]
    rcases hop with h | h <;> simp [h, Op.read, Op.sense, hlen]
  have hx : exch (modExch s e.id (withData b last)) e.id = some (withData b last e) :=
    exch_modExch_same (f := withData b last) (fun _ => rfl) he
  unfold takeData
  rw [if_neg (by simpa using hin), if_neg (by simpa using hoff)]
  dsimp only
  split
  · exact progress_modExch (s := modExch s e.id (withData b last)) rfl hx fun _ => ⟨rfl, rfl, rfl⟩
  · split
    · exact ⟨_, hx, rfl, rfl, fun _ => rfl⟩
    · split
      · next v hv =>
        have hm := beyondMemory_fst hv (beyondMemory_sglWrite ..)
        exact ⟨_, (exch_congr (exchs_of_beyondMemory hm) _).trans hx, rfl, rfl, fun k => (chan_of_beyondMemory hm k).trans rfl⟩
      · next v r hv => exact progress_modExch (beyondMemory_fst hv (beyondMemory_sglWrite ..)) hx fun _ => ⟨rfl, rfl, rfl⟩

end Sys2Proof.Machine
end

section
/-! O37: the rows of the frames of an exchange, each on a frame that passes every check. -/

namespace Sys2Proof.Machine

/-! ## Frames without a place in the sequence (R299, R301) -/

/-- What a row does with an admitted frame; stated for any such act, so that no proof evaluates the comparison of sequence numbers. -/
theorem match_admitted (act : State → State) {p : State × Option Nat} {a : State} {g : Nat} :
    p = (a, some g) → (match p with
      | (t, some _) => act t
      | (t, none) => t) = act a := by
  rintro rfl; rfl

section
variable {s u : State} {n : Nat} {h : FrameHdr} (hrx : (chan u n).rxSeq = (chan s n).rxSeq)
include hrx

theorem checkGap_of_gap (hgap : seqAfter h.seq.toNat (chan s n).rxSeq = true) : checkGap u n h = (sendNak u n 1, false) :=
  if_pos (by rw [hrx, hgap])

theorem checkGap_of_no_gap (hgap : seqAfter h.seq.toNat (chan s n).rxSeq = false) : checkGap u n h = (u, true) :=
  if_neg (by rw [hrx, hgap]; exact Bool.false_ne_true)

end

/-- Frames put on the wire again wait on as they did, and are not counted by that alone. -/
theorem foldl_putFrame_frame (n : Nat) (p : TxFrame → TxFrame) (l : List TxFrame) (s : State) :
    let u := l.foldl (fun s f => putFrame s n (p f)) s
    (chan u n).unacked = (chan s n).unacked ∧ (chan u n).retxCount = (chan s n).retxCount ∧ u.exchs = s.exchs := by
  induction l generalizing s with
  | nil => exact ⟨rfl, rfl, rfl⟩
  | cons f l ih =>
    obtain ⟨hun, hrc, hex⟩ := ih (putFrame s n (p f))
    obtain ⟨r, hr⟩ := putFrame_same s n (p f)
    rw [hr] at hun hrc
    exact ⟨hun, hrc, hex.trans (putFrame_frame s n (p f)).1⟩

/-- What is sent again waits on, and is counted. -/
theorem resendFrom_frame (s : State) (n seq : Nat) : (chan (resendFrom s n seq) n).unacked = (chan s n).unacked ∧
    (chan (resendFrom s n seq) n).retxCount =
      (chan s n).retxCount + ((chan s n).unacked.filter (fun f => !seqAfter seq f.seq)).length ∧
    (resendFrom s n seq).exchs = s.exchs := by
  obtain ⟨hun, hrc, hex⟩ := foldl_putFrame_frame n (fun f => { f with retx := true })
    ((chan s n).unacked.filter (fun f => !seqAfter seq f.seq)) s
  rw [resendFrom, chan_modChan_same]
  exact ⟨hun, congrArg (· + _) hrc, hex⟩

/-! ## The status of a COMPLETE (R304) -/

/-- Of its ABORT an entry's status reads the cause alone. -/
theorem completeResult_task (e : Exch) (b : CompleteBody) :
    completeResult { task e with abort := some { cause := causeOf e, sends := 0, since := 0 } } b = completeResult e b := by
  unfold completeResult causeOf
  cases e.abort <;> rfl

theorem completeResult_congr {a e : Exch} (ht : task a = task e) (hc : causeOf a = causeOf e) (b : CompleteBody) :
    completeResult a b = completeResult e b := by rw [← completeResult_task a, ht, hc, completeResult_task]

section
variable {e : Exch} {b : CompleteBody}

section
variable (hab : e.abort = none) (hbytes : (e.opcode = 1 ∨ e.opcode = 4) → b.bytes.toNat = e.rcvd)
  (hout : (e.opcode = 2 ∨ e.opcode = 3) → 0 < e.wireLen → e.lastSent = true ∨ e.ackDone = true)
include hab hbytes hout

/-- Without an ABORT, and with the data that R304 asks for, the status is the far end's or the exchange's own fault. -/
theorem completeResult_of_data (hstat : b.status.toNat ≤ 0xEF) : completeResult e b =
    if b.status.toNat ≠ 0 then { code := 0x01, detail := b.status.toNat, bytes := b.bytes.toNat }
    else match e.dataFault with
      | some r => { r with bytes := b.bytes.toNat }
      | none => { code := 0x00, detail := 0, bytes := b.bytes.toNat } := by
  have hlt : b.status.toNat ≠ 0xF0 ∧ ¬ 0xF1 ≤ b.status.toNat := by omega
  have hin : ((e.opcode == Op.read || e.opcode == Op.sense) && b.bytes.toNat != e.rcvd) = false := by
    by_cases h : e.opcode = 1 ∨ e.opcode = 4
    · simp [hbytes h]
    · obtain ⟨h1, h4⟩ := not_or.mp h
      simp [Op.read, Op.sense, h1, h4]
  have hsent : (!(e.ackDone || b.cflags.getLsbD 0) && ((e.opcode == Op.write || e.opcode == Op.control) && decide (0 < e.wireLen) &&
      !e.lastSent)) = false := by
    by_cases h : (e.opcode = 2 ∨ e.opcode = 3) ∧ 0 < e.wireLen
    · rcases hout h.1 h.2 with hl | hd
      · simp [hl]
      · simp [hd]
    · have hno : ((e.opcode == Op.write || e.opcode == Op.control) && decide (0 < e.wireLen)) = false := by
        simpa [Op.write, Op.control] using h
      simp [hno]
  unfold completeResult
  simp only [hab, hin, hsent, hlt, AbortBy.cancel, AbortBy.timeout, AbortBy.datapath, Bool.false_or, false_and, or_self,
    if_false, Bool.false_eq_true]
  rfl

theorem completeResult_success (hstat : b.status = 0#8) (hdf : e.dataFault = none) :
    completeResult e b = { code := 0x00, detail := 0, bytes := b.bytes.toNat } := by
  rw [completeResult_of_data hab hbytes hout (by rw [hstat]; decide), hstat, hdf]; rfl

theorem completeResult_error (hlo : 1 ≤ b.status.toNat) (hhi : b.status.toNat ≤ 0xEF) :
    completeResult e b = { code := 0x01, detail := b.status.toNat, bytes := b.bytes.toNat } := by
  rw [completeResult_of_data hab hbytes hout hhi, if_pos (Nat.one_le_iff_ne_zero.mp hlo)]

end

/-- The code with which an ABORT's cause ends its exchange once the far end has confirmed it. -/
def abortedResult (e : Exch) (b : CompleteBody) (cause : Nat) : ExRes :=
  if cause = 1 then { code := 0x02, detail := 0, bytes := b.bytes.toNat }
  else if cause = 2 then { code := 0x05, detail := 0, bytes := b.bytes.toNat }
  else if cause = 4 then { code := 0x0C, detail := e.dpErr.getD 0, bytes := b.bytes.toNat }
  else { code := 0x01, detail := 0xF0, bytes := b.bytes.toNat }

theorem completeResult_aborted {a : AbortSt} (hab : e.abort = some a) (hstat : b.status = 0xF0#8) :
    completeResult e b = abortedResult e b a.cause := by
  have hf0 : b.status.toNat = 0xF0 := by rw [hstat]; rfl
  unfold completeResult abortedResult
  simp only [hab, hf0, true_and, AbortBy.cancel, AbortBy.timeout, AbortBy.datapath, if_true]
  rfl

end

/-- A COMPLETE decides its exchange. -/
theorem takeComplete_decides {s : State} {n : Nat} {e : Exch} {b : CompleteBody} (he : exch s e.id = some e) (hr : e.res = none)
    (hj : job s (.inl e.id) = none) :
    ∃ e', exch (takeComplete s n e b) e.id = some e' ∧ e'.res = some { completeResult e b with synth := false } ∧
      e'.st = .remoteComplete := by
  unfold takeComplete
  generalize replicaNat s (chanBase n) - e.openStamp = t
  have hinl : finishInlineRead (noteCompletion s n t) e (completeResult e b) = (noteCompletion s n t, completeResult e b) := by
    rw [finishInlineRead, show job (noteCompletion s n t) (.inl e.id) = none from hj]
  have hx : exch (modExch (noteCompletion s n t) e.id (fun o => { o with st := .remoteComplete })) e.id =
      some { e with st := .remoteComplete } := exch_modExch_same (f := fun o => { o with st := .remoteComplete }) (fun _ => rfl) he
  dsimp only
  rw [hinl]
  exact promoteAll_decideWith hx hr _

section
variable {s : State} {ch : ChanNo} {g : Nat} {h : FrameHdr} (hon : inService s = true)
include hon

/-! ## DATA (R299, R303) -/

theorem exec_dataFrame_whole {b : DataBody} (hcrc : crc32c b.data = b.crc) (hlen : b.data.length = b.dlen.toNat) (hne : b.data ≠ []) :
    exec (.dataFrame ch h b) s =
      .next (exFrame (expressEarly s ch h b) ch FType.data h (fun s e => takeData s e b (h.flags.getLsbD 3))) := by
  change execDataFrame ch h b s = _
  rw [execDataFrame, whenServing_on hon]
  dsimp only
  rw [if_neg]
  simp [hcrc, hlen, hne]

theorem exec_dataFrame_advances {b : DataBody} {e : Exch} (ha : acceptable s ch g 2 h = true) (hseq : h.seq.toNat = (chan s ch).rxSeq)
    (hm : matchFrame s ch h.tag = .of e) (he : exch s e.id = some e) (hop : e.opcode = 1 ∨ e.opcode = 4) (hoff : b.offset.toNat = e.rcvd)
    (hfit : e.rcvd + b.data.length ≤ e.wireLen) (hne : b.data ≠ []) (hlen : b.data.length = b.dlen.toNat)
    (hcrc : crc32c b.data = b.crc) :
    ∃ u e' f, exec (.dataFrame ch h b) s = .next u ∧ exch u e.id = some e' ∧ e'.rcvd = e.rcvd + b.data.length ∧
      e'.gotLast = (e.gotLast || h.flags.getLsbD 3) ∧ (chan u ch).rxSeq = ((chan s ch).rxSeq + 1) % 2 ^ 32 ∧
      Sent s u ch 3 f ∧ f.ackSeq = ((chan s ch).rxSeq + 1) % 2 ^ 32 ∧ f.tag = 0#64 := by
  have hb := beyondMemory_expressEarly s ch h b
  have hc := chan_of_beyondMemory hb ch
  rw [exec_dataFrame_whole hon hcrc hlen hne]
  generalize expressEarly s ch h b = t at hb hc
  obtain ⟨u, o, hu, hr, ho, htask, -⟩ := exFrame_of ((acceptable_of_beyondMemory hb ..).trans ha) (hc ▸ hseq)
    ((matchFrame_of_beyondMemory hb ..).trans hm) ((exch_congr (exchs_of_beyondMemory hb) _).trans he)
    (fun s e => takeData s e b (h.flags.getLsbD 3))
  have hid : o.id = e.id := read_of_task htask (·.id) fun _ => rfl
  have hopc : o.opcode = e.opcode := read_of_task htask (·.opcode) fun _ => rfl
  have hrcvd : o.rcvd = e.rcvd := read_of_task htask (·.rcvd) fun _ => rfl
  have hwl : o.wireLen = e.wireLen := read_of_task htask (·.wireLen) fun _ => rfl
  have hgl : o.gotLast = e.gotLast := read_of_task htask (·.gotLast) fun _ => rfl
  obtain ⟨e', he', hrc, hlast, hch⟩ := takeData_advances (hid ▸ ho) (hopc ▸ hop) (hoff.trans hrcvd.symm)
    (by rw [hrcvd, hwl]; exact hfit) (h.flags.getLsbD 3)
  obtain ⟨f, ⟨hft, ws, hw⟩, hack, htag⟩ := hr.ack
  rw [hc] at hw hack
  refine ⟨_, e', f, congrArg _ hu, hid ▸ he', hrcvd ▸ hrc, hgl ▸ hlast, ?_, ⟨hft, ws, by rw [hch, hw]⟩, hack, htag⟩
  rw [hch, hr.rxSeq, hc]

theorem exec_dataFrame_badCrc {b : DataBody} (ha : acceptable s ch g 2 h = true) (hseq : h.seq.toNat = (chan s ch).rxSeq)
    (hcrc : crc32c b.data ≠ b.crc) :
    ∃ u, exec (.dataFrame ch h b) s = .next u ∧ (NothingWaits s ch g → u.exchs = s.exchs) ∧
      (chan u ch).rxSeq = (chan s ch).rxSeq ∧
      (MayNak s ch g → ∃ f, Sent s u ch 4 f ∧ f.body.take 5 = beBytes 4 (chan s ch).rxSeq ++ [2#8]) := by
  have hb := beyondMemory_expressEarly s ch h b
  have hc := chan_of_beyondMemory hb ch
  have hacc := (acceptable_of_beyondMemory hb ch g 2 h).trans ha
  have hadm := admits_admitted (expressEarly s ch h b) ch g h
  have hrx := hadm.rxSide_eq.1
  have hrow : exec (.dataFrame ch h b) s = .next (sendNak (admitted (expressEarly s ch h b) ch g h) ch 2) := by
    change execDataFrame ch h b s = _
    rw [execDataFrame, whenServing_on hon]
    dsimp only
    rw [if_pos (.inl hcrc), admitFrame_of_acceptable (ft := FType.data) hacc]
    dsimp only
    rw [if_pos (by rw [hrx, hc, hseq])]
  refine ⟨_, hrow, fun hq => ?_, ?_, fun hn => ?_⟩
  · exact ((sendNak_keeps hadm.toKeeps 2).quiet (nothingWaits_of_beyondMemory hb hq)).trans (exchs_of_beyondMemory hb)
  · rw [(chan_sendNak ..).1, hrx, hc]
  · have hnak := hadm.wire_sendNak (acceptable_iff.mp hacc).1 (mayNak_of_beyondMemory hb hn) 2
    unfold Sent at hnak ⊢
    rwa [hc] at hnak

/-- A DATA frame that names no live exchange, or an attempt that is over, writes nothing and is counted (R278, R305). -/
theorem exec_dataFrame_late {b : DataBody} (ha : acceptable s ch g 2 h = true) (hseq : h.seq.toNat = (chan s ch).rxSeq)
    (hcrc : crc32c b.data = b.crc) (hlen : b.data.length = b.dlen.toNat) (hne : b.data ≠ []) (hm : matchFrame s ch h.tag = .late) :
    ∃ u, exec (.dataFrame ch h b) s = .next u ∧ u.mem = s.mem ∧ u.coh = s.coh ∧ (NothingWaits s ch g → u.exchs = s.exchs) ∧
      (group u g).lateDiscards = (group s g).lateDiscards + 1 := by
  rw [exec_dataFrame_whole hon hcrc hlen hne, expressEarly_of_no_match (by simp [hm])]
  obtain ⟨u, hu, hr⟩ := exFrame_late ha hseq hm (fun s e => takeData s e b (h.flags.getLsbD 3))
  refine ⟨_, congrArg _ hu, read_of_beyondPaths hr.rest State.mem fun _ => rfl, read_of_beyondPaths hr.rest State.coh fun _ => rfl,
    hr.quiet, ?_⟩
  rw [group_modGroup_same]
  exact congrArg (·.2.1 + 1) (hr.groups g)

theorem exec_dataFrame_stale {b : DataBody} (ha : acceptable s ch g 2 h = true) (hseq : h.seq.toNat = (chan s ch).rxSeq)
    (hcrc : crc32c b.data = b.crc) (hlen : b.data.length = b.dlen.toNat) (hne : b.data ≠ []) (hm : matchFrame s ch h.tag = .stale) :
    ∃ u, exec (.dataFrame ch h b) s = .next u ∧ u.mem = s.mem ∧ u.coh = s.coh ∧ (NothingWaits s ch g → u.exchs = s.exchs) ∧
      (group u g).staleDiscards = (group s g).staleDiscards + 1 := by
  rw [exec_dataFrame_whole hon hcrc hlen hne, expressEarly_of_no_match (by simp [hm])]
  obtain ⟨u, hu, hr⟩ := exFrame_stale ha hseq hm (fun s e => takeData s e b (h.flags.getLsbD 3))
  refine ⟨_, congrArg _ hu, read_of_beyondPaths hr.rest State.mem fun _ => rfl, read_of_beyondPaths hr.rest State.coh fun _ => rfl,
    hr.quiet, ?_⟩
  rw [group_modGroup_same]
  exact congrArg (·.2.2 + 1) (hr.groups g)

/-! ## COMPLETE (R304) -/

theorem exec_complete {b : CompleteBody} {e : Exch} (ha : acceptable s ch g 5 h = true) (hseq : h.seq.toNat = (chan s ch).rxSeq)
    (hm : matchFrame s ch h.tag = .of e) (he : exch s e.id = some e) (hj : job s (.inl e.id) = none) :
    ∃ u e', exec (.complete ch h b) s = .next u ∧ exch u e.id = some e' ∧ e'.st = .remoteComplete ∧
      e'.res = some { completeResult e b with synth := false } := by
  obtain ⟨u, o, hu, hr, ho, htask, hcause⟩ := exFrame_of ha hseq hm he (fun s e => takeComplete s ch e b)
  have hid : o.id = e.id := read_of_task htask (·.id) fun _ => rfl
  have hres : o.res = none := (read_of_task htask (·.res) fun _ => rfl).trans (matchFrame_of hm)
  have hjob : job u (.inl o.id) = none := by
    rw [hid, read_of_beyondPaths hr.rest (job · (.inl e.id)) fun _ => rfl, hj]
  obtain ⟨e', he', hdone, hst⟩ := takeComplete_decides (n := ch) (b := b) (hid ▸ ho) hres hjob
  refine ⟨_, e', ?_, hid ▸ he', hst, ?_⟩
  · change execComplete ch h b s = _
    rw [execComplete, whenServing_on hon]
    exact congrArg _ hu
  · rw [hdone, completeResult_congr htask hcause]

end

/-! ## ACK (R296, R299, R303, R304) -/

/-- NEW and DONE move the exchange on where it has data; FULL ends it. -/
theorem takeDisposition_does {s : State} {e : Exch} (he : exch s e.id = some e) (hr : e.res = none) (hst : e.st = .awaitAck) (d : Byte) :
    ∃ e', exch (takeDisposition s e d) e.id = some e' ∧ (∀ k, (chan (takeDisposition s e d) k).rxSeq = (chan s k).rxSeq) ∧
      (d = 0#8 → e'.ackNew = true ∧ e'.st = (if movesData e then .data else .awaitAck) ∧ e'.res = none) ∧
      (d = 1#8 → e'.ackDone = true ∧ e'.st = (if movesData e then .data else .awaitAck) ∧ e'.res = none) ∧
      (d = 2#8 → e'.res = some { code := 0x01, detail := 0xF2, synth := true }) := by
  have hnext : (if e.st = .awaitAck ∧ movesData e then ExSt.data else e.st) = if movesData e then .data else .awaitAck := by
    rw [hst]; simp
  by_cases h0 : d = 0#8
  · subst h0
    exact ⟨_, exch_modExch_same (f := fun e => { e with
      ackNew := true, st := if e.st = .awaitAck ∧ movesData e then ExSt.data else e.st }) (fun _ => rfl) he, fun _ => rfl,
      fun _ => ⟨rfl, hnext, hr⟩, by simp, by simp⟩
  by_cases h1 : d = 1#8
  · subst h1
    exact ⟨_, exch_modExch_same (f := fun e => { e with
      ackDone := true, st := if e.st = .awaitAck ∧ movesData e then ExSt.data else e.st }) (fun _ => rfl) he, fun _ => rfl,
      by simp, fun _ => ⟨rfl, hnext, hr⟩, by simp⟩
  by_cases h2 : d = 2#8
  · subst h2
    obtain ⟨e', he', hdone, -⟩ := promoteAll_decideWith he hr { code := Rec.remoteError, detail := 0xF2 }
    have hrs := (restarts_decideWith s e.id { code := Rec.remoteError, detail := 0xF2 }).trans (restarts_promoteAll _)
    exact ⟨e', he', hrs.rx, by simp, by simp, fun _ => by rw [hdone, hst]; rfl⟩
  · have hsame : takeDisposition s e d = s := by
      unfold takeDisposition
      dsimp only
      split
      · next hd => exact absurd (BitVec.eq_of_toNat_eq (y := 0#8) hd) h0
      · next hd => exact absurd (BitVec.eq_of_toNat_eq (y := 1#8) hd) h1
      · next hd => exact absurd (BitVec.eq_of_toNat_eq (y := 2#8) hd) h2
      · rfl
    rw [hsame]
    exact ⟨e, he, fun _ => rfl, (absurd · h0), (absurd · h1), (absurd · h2)⟩

section
variable {s : State} {ch : ChanNo} {g : Nat} {h : FrameHdr} (hon : inService s = true)
include hon

theorem exec_ack_disposition {d : Byte} {e : Exch} (ha : acceptable s ch g 3 h = true) (htag : h.tag ≠ 0#64)
    (hseq : h.seq.toNat = (chan s ch).rxSeq) (hm : matchFrame s ch h.tag = .of e) (he : exch s e.id = some e) (hst : e.st = .awaitAck) :
    ∃ u e', exec (.ack ch h d) s = .next u ∧ exch u e.id = some e' ∧ (chan u ch).rxSeq = ((chan s ch).rxSeq + 1) % 2 ^ 32 ∧
      (d = 0#8 → e'.ackNew = true ∧ e'.st = (if movesData e then .data else .awaitAck) ∧ e'.res = none) ∧
      (d = 1#8 → e'.ackDone = true ∧ e'.st = (if movesData e then .data else .awaitAck) ∧ e'.res = none) ∧
      (d = 2#8 → e'.res = some { code := 0x01, detail := 0xF2, synth := true }) := by
  obtain ⟨u, o, hu, hr, ho, htask, -⟩ := exFrame_of ha hseq hm he (fun s e => takeDisposition s e d)
  have hid : o.id = e.id := read_of_task htask (·.id) fun _ => rfl
  have hres : o.res = none := (read_of_task htask (·.res) fun _ => rfl).trans (matchFrame_of hm)
  have hsto : o.st = .awaitAck := (read_of_task htask (·.st) fun _ => rfl).trans hst
  have hmov : movesData o = movesData e := read_of_task htask movesData fun _ => rfl
  obtain ⟨e', he', hrx, hdoes⟩ := takeDisposition_does (hid ▸ ho) hres hsto d
  rw [hmov] at hdoes
  refine ⟨_, e', ?_, hid ▸ he', (hrx ch).trans hr.rxSeq, hdoes⟩
  change execAck ch h d s = _
  rw [execAck, whenServing_on hon, if_neg htag]
  exact congrArg _ hu

/-- An ACK with TAG zero takes its ACK_SEQ, and is NAKed where its SEQ shows a gap. -/
theorem exec_ack_untagged {d : Byte} (ha : acceptable s ch g 3 h = true) (htag : h.tag = 0#64) :
    ∃ u m, exec (.ack ch h d) s = .next u ∧ (chan u ch).unacked = unackedAfter s ch h.ackSeq.toNat ++ m ∧
      (NothingWaits s ch g → m = [] ∧ u.exchs = s.exchs) ∧ (chan u ch).rxSeq = (chan s ch).rxSeq ∧
      (seqAfter h.seq.toNat (chan s ch).rxSeq = true → MayNak s ch g →
        ∃ f, Sent s u ch 4 f ∧ f.body.take 5 = beBytes 4 (chan s ch).rxSeq ++ [1#8]) := by
  have hadm := admits_admitted s ch g h
  obtain ⟨m, hm, hidle⟩ := hadm.unacked
  have hrx := hadm.rxSide_eq.1
  have hrow : ∀ t ok, checkGap (admitted s ch g h) ch h = (t, ok) → exec (.ack ch h d) s = .next t := fun t ok hgap => by
    change execAck ch h d s = _
    rw [execAck, whenServing_on hon, if_pos htag]
    exact congrArg _ ((match_admitted (fun u => (checkGap u ch h).1) (admitFrame_of_acceptable ha)).trans (congrArg Prod.fst hgap))
  cases hgap : seqAfter h.seq.toNat (chan s ch).rxSeq with
  | true =>
    obtain ⟨hrx', hun, -⟩ := chan_sendNak (admitted s ch g h) ch 1
    exact ⟨_, m, hrow _ _ (checkGap_of_gap hrx hgap), hun.trans hm, fun hq => ⟨hidle hq, (sendNak_keeps hadm.toKeeps 1).quiet hq⟩,
      hrx'.trans hrx, fun _ hn => hadm.wire_sendNak (acceptable_iff.mp ha).1 hn 1⟩
  | false =>
    exact ⟨_, m, hrow _ _ (checkGap_of_no_gap hrx hgap), hm, fun hq => ⟨hidle hq, hadm.quiet hq⟩, hrx, by simp⟩

/-! ## NAK (R299, R301) -/

/-- A NAK takes its ACK_SEQ and sends again from NAK_SEQ; one whose SEQ shows a gap is NAKed and sends nothing again. -/
theorem exec_nak {k : W32} {why : Byte} (ha : acceptable s ch g 4 h = true) :
    ∃ u m, exec (.nak ch h k why) s = .next u ∧ (chan u ch).unacked = unackedAfter s ch h.ackSeq.toNat ++ m ∧
      (NothingWaits s ch g → m = [] ∧ u.exchs = s.exchs) ∧
      (seqAfter h.seq.toNat (chan s ch).rxSeq = false → (chan u ch).retxCount = (chan s ch).retxCount +
        ((unackedAfter s ch h.ackSeq.toNat ++ m).filter (fun f => !seqAfter k.toNat f.seq)).length) ∧
      (seqAfter h.seq.toNat (chan s ch).rxSeq = true → (chan u ch).retxCount = (chan s ch).retxCount ∧ (MayNak s ch g →
        ∃ f, Sent s u ch 4 f ∧ f.body.take 5 = beBytes 4 (chan s ch).rxSeq ++ [1#8])) := by
  have hadm := admits_admitted s ch g h
  obtain ⟨m, hm, hidle⟩ := hadm.unacked
  obtain ⟨hrx, -, -, hretx, -⟩ := hadm.rxSide_eq
  have hrow : ∀ t ok, checkGap (admitted s ch g h) ch h = (t, ok) →
      exec (.nak ch h k why) s = .next (if ok then resendFrom t ch k.toNat else t) := fun t ok hgap => by
    change execNak ch h k why s = _
    rw [execNak, whenServing_on hon]
    refine congrArg _ ((match_admitted _ (admitFrame_of_acceptable ha)).trans ?_)
    rw [hgap]
    cases ok <;> rfl
  cases hgap : seqAfter h.seq.toNat (chan s ch).rxSeq with
  | true =>
    obtain ⟨-, hun, hrc⟩ := chan_sendNak (admitted s ch g h) ch 1
    exact ⟨_, m, hrow _ _ (checkGap_of_gap hrx hgap), hun.trans hm, fun hq => ⟨hidle hq, (sendNak_keeps hadm.toKeeps 1).quiet hq⟩,
      by simp, fun _ => ⟨hrc.trans hretx, fun hn => hadm.wire_sendNak (acceptable_iff.mp ha).1 hn 1⟩⟩
  | false =>
    obtain ⟨hun, hrc, hex⟩ := resendFrom_frame (admitted s ch g h) ch k.toNat
    refine ⟨_, m, hrow _ _ (checkGap_of_no_gap hrx hgap), hun.trans hm,
      fun hq => ⟨hidle hq, hex.trans (hadm.quiet hq)⟩, fun _ => ?_, by simp⟩
    rw [if_pos rfl, hrc, hretx, hm]

end

/-- Settles O37: each row is its own theorem above; a frame that passes every check leaves the exchange tables as they were but for ABORTs
that had waited for room, so the entry that its tag names is the same one after the acknowledgement. -/
theorem framesReceived : Obligations.FramesReceived := by
  refine ⟨fun s ch g h hon hg hp hl => exec_of_type_ne hon hg hp hl, fun s ch g h => ?_⟩
  intro c kept gap mayNak nothingWaits sent hon
  refine ⟨fun b e ha hseq hm he hop hoff hfit hne hlen hcrc => ?_, fun b ha hseq hcrc => ?_, fun e d ha htag hseq hm he hst => ?_,
    fun d ha htag => ?_, fun k why ha => ?_, fun b e ha hseq hm he hj => ?_,
    fun b ha hseq hcrc hlen hne => ⟨fun hm => ?_, fun hm => ?_⟩⟩
  · exact exec_dataFrame_advances hon ha hseq hm he hop hoff hfit hne hlen hcrc
  · exact exec_dataFrame_badCrc hon ha hseq hcrc
  · exact exec_ack_disposition hon ha htag hseq hm he hst
  · exact exec_ack_untagged hon ha htag
  · exact exec_nak hon ha
  · obtain ⟨u, e', hu, he', hst, hres⟩ := exec_complete (b := b) hon ha hseq hm he hj
    refine ⟨u, e', hu, he', hst, fun hab hstat hdf hbytes hout => ?_, fun hab hlo hhi hbytes hout => ?_,
      fun a hab hstat => ⟨fun hc => ?_, fun hc => ?_, fun hc => ?_⟩⟩
    · rw [hres, completeResult_success hab hbytes hout hstat hdf]
    · rw [hres, completeResult_error hab hbytes hout hlo hhi]
    · rw [hres, completeResult_aborted hab hstat, hc]; rfl
    · rw [hres, completeResult_aborted hab hstat, hc]; rfl
    · rw [hres, completeResult_aborted hab hstat, hc]; rfl
  · exact exec_dataFrame_late hon ha hseq hcrc hlen hne hm
  · exact exec_dataFrame_stale hon ha hseq hcrc hlen hne hm

end Sys2Proof.Machine
end
